-- ==== Sys2Proof/Word.lean ====
section
/-! DEFINITION. Sys2Proof/Word.lean: the word types of the LQ1 and their plainest arithmetic.
A register is 32 bits wide (R48), a stage register 64 (R83), and memory is addressed in bytes. -/
namespace Sys2Proof

/-- One byte. -/
abbrev Byte := BitVec 8
/-- A register of a page: 32 bits (R48). -/
abbrev Word := BitVec 32
/-- A stage register, an effective address or a 64-bit pair value. -/
abbrev DWord := BitVec 64

/-- Bits `hi:lo` of a number. -/
def bits (v hi lo : Nat) : Nat := (v >>> lo) % 2 ^ (hi + 1 - lo)

/-- Bit `n` of a number. -/
def bit (v n : Nat) : Bool := v.testBit n

/-- `v` with bits `hi:lo` replaced by the low bits of `x`. -/
def setBits (v hi lo x : Nat) : Nat :=
  let m := 2 ^ (hi + 1 - lo)
  v - (bits v hi lo) * 2 ^ lo + (x % m) * 2 ^ lo

/-- A Boolean as a number. -/
def b2n (b : Bool) : Nat := if b then 1 else 0

/-- The low `w` bits of `v` read as two's complement. -/
def sext (w v : Nat) : Int :=
  let x := v % 2 ^ w
  if x ≥ 2 ^ (w - 1) then (x : Int) - (2 ^ w : Nat) else x

/-- An integer as a `w`-bit two's-complement pattern. -/
def wrap (w : Nat) (x : Int) : Nat := (x % ((2 ^ w : Nat) : Int)).toNat

/-- A counter that saturates at 32 bits. -/
def satAdd (v n : Nat) : Nat := min (v + n) 0xFFFFFFFF

/-- `n` little-endian bytes of a number. -/
def toBytes (n v : Nat) : List Byte :=
  match n with
  | 0 => []
  | k + 1 => BitVec.ofNat 8 v :: toBytes k (v / 256)

/-- The number that little-endian bytes spell. -/
def ofBytes : List Byte → Nat
  | [] => 0
  | b :: bs => b.toNat + 256 * ofBytes bs

end Sys2Proof
end

