-- ==== Sys2Proof/Syntax.lean ====
section
/-! DEFINITION. Sys2Proof/Syntax.lean: the commands of the block, one constructor per row of spec/opcode_table.json.
The rows carry no bits: a command is an event that reaches the block, with the operands that the spec's text gives it. -/
namespace Sys2Proof

/-- The origin of a register write (R67, R68): class, instance, and the sap channel for class 4. -/
structure Origin where
  cls : Nat
  inst : Nat
  chan : Nat := 0
deriving DecidableEq, Repr


/-- The commands of the LQ1, one constructor per row of spec/opcode_table.json, in its order. -/
inductive Instr where
  /-- REGISTER_WRITE (R49): A write to a register that has no row of its own is checked for lock, access, range and state, journaled, and then applied or refused. -/
  | registerWrite (o : Origin) (off size val : Nat)
  /-- MISALIGNED_READ (R48): A register read of the wrong width or alignment completes with all bytes 0 and raises ACCESS_REFUSED. -/
  | misalignedRead (o : Origin) (off size : Nat)
  /-- PAIR_LO_READ (R50): A read of the _LO half of a 64-bit pair returns the low half and latches the high half for the reading origin. -/
  | pairLoRead (o : Origin) (off : Nat)
  /-- PAIR_LO_WRITE (R51): A write to the _LO half of a writable pair is staged for its origin; a staged _LO that is already waiting is discarded and refused as pair incomplete. -/
  | pairLoWrite (o : Origin) (off val : Nat)
  /-- PAIR_HI_WRITE (R51): A write to the _HI half applies both halves as one range-checked change, using the origin's staged _LO or the current low half. -/
  | pairHiWrite (o : Origin) (off val : Nat)
  /-- PAIR_STAGE_EXPIRY (R51): A staged _LO that is not followed by a write to _HI within 1 ms is discarded and refused with reason pair incomplete. -/
  | pairStageExpiry (o : Origin) (off : Nat)
  /-- RC_FIELD_READ (R52): A read of an RC field such as PG_EVT_CNT returns its value and then clears it, with no journal entry. -/
  | rcFieldRead (o : Origin) (off : Nat)
  /-- RESET (R59): The common RESET command takes the block through RESET and completes when the block reaches IDLE, or RUN where the block does not use IDLE, aborting any BUSY command. -/
  | reset (o : Origin) (page arg : Nat)
  /-- START (R59): The common START command moves a block from IDLE to RUN, or for a waits START such as that of a bough port runs the block's start procedure. -/
  | start (o : Origin) (page arg : Nat)
  /-- DRAIN (R59): The common DRAIN command moves a block from RUN to DRAIN; it completes when the owning chapter's drain conditions are met. -/
  | drain (o : Origin) (page arg : Nat)
  /-- HALT (R59): The common HALT command stops the issue of work, keeps that work, and completes when the block reaches HALT. -/
  | halt (o : Origin) (page arg : Nat)
  /-- RESUME (R59): The common RESUME command moves a block from HALT to RUN. -/
  | resume (o : Origin) (page arg : Nat)
  /-- CLEAR_FAULT (R59): The common CLEAR_FAULT command moves a block from FAULT to IDLE, or RUN where the block does not use IDLE, or ends REJ_FAULT while an enabled fault bit is set. -/
  | clearFault (o : Origin) (page arg : Nat)
  /-- COMMAND_COMPLETION (R60): A BUSY waits command finishes with DONE, FAILED or ABORTED and raises CMD_DONE. -/
  | commandCompletion (page : Nat) (ok : Bool)
  /-- COALESCE_WINDOW_EXPIRY (R70): A coalescing window closes at 1 ms, and its entry receives its sequence number, last value and count. -/
  | coalesceWindowExpiry (o : Origin) (off : Nat)
  /-- JNL_RING_BURST (R73): While JNL is in RUN, the LQ1 reads the host consumer count and writes entries to the host journal ring in sequence order. -/
  | jnlRingBurst (n : Nat) (ok : Bool)
  /-- JNL_CONS_POLL (R73): While the host journal ring is full, the LQ1 re-reads the consumer count every 10 µs. -/
  | jnlConsPoll (ok : Bool)
  /-- JNL_HELD_WRITE_APPLY (R75): When draining frees an entry, held writes receive entries in arrival order and apply, and credits are released once no write is held. -/
  | jnlHeldWriteApply
  /-- JNL_HOLD_LIMIT_EXPIRY (R75): After JNL_HOLD_LIMIT with the store still full, credits are released and writes that need a new entry are refused and counted. -/
  | jnlHoldLimitExpiry
  /-- JNL_REFUSAL_END (R75): Once 1,024 entries are free for the host classes, refusal ends and one gap entry is written. -/
  | jnlRefusalEnd
  /-- FLUSH_WINDOWS (R78): The FLUSH_WINDOWS command closes every open coalescing window. -/
  | flushWindows (o : Origin) (arg : Nat)
  /-- JNL_CLEAR_COUNTS (R78): The CLEAR_COUNTS command of JNL clears JNL_HOLDS and JNL_HOLD_MAX. -/
  | jnlClearCounts (o : Origin) (arg : Nat)
  /-- CHIP_RESET (R77): The CHIP_RESET command of TRK begins a chip reset with the effects of R510. -/
  | chipReset (o : Origin) (arg : Nat)
  /-- TRK_FW_STOPPED (R77): TRK_FW_STATE.beat has not advanced for 10 ms, and TRK_fw_stopped is raised. -/
  | trkFwStopped
  /-- NOP (R99): The stage instruction NOP does nothing. -/
  | nop (core th w : Nat)
  /-- END (R99): The stage instruction END waits until every operation of its thread has completed, then frees the thread. -/
  | endI (core th w : Nat)
  /-- BR (R99): The stage instruction BR branches relative to its own PC. -/
  | br (core th w : Nat)
  /-- JR (R99): The stage instruction JR jumps to s[ra] + 8 × imm38. -/
  | jr (core th w : Nat)
  /-- CALL (R99): The stage instruction CALL saves the return address in s31 and branches. -/
  | call (core th w : Nat)
  /-- LOOP (R99): The stage instruction LOOP decrements s[ra] and branches while the result is nonzero. -/
  | loop (core th w : Nat)
  /-- WAITTOK (R99): The stage instruction WAITTOK waits until a token holds at least n16 and then subtracts n16. -/
  | waittok (core th w : Nat)
  /-- SIGTOK (R99): The stage instruction SIGTOK adds n16 to a token of the thread's own core or of a remote core, after the effect of FENCE. -/
  | sigtok (core th w : Nat)
  /-- BARRIER (R99): The stage instruction BARRIER arrives at a core barrier and waits until n16 threads have arrived. -/
  | barrier (core th w : Nat)
  /-- FENCE (R99): The stage instruction FENCE waits until every earlier memory operation of its thread has completed. -/
  | fence (core th w : Nat)
  /-- DRAIN_INSTRUCTION (R99): The stage instruction DRAIN waits for the core's layer barrier and squashes run-ahead in every thread. -/
  | drainInstruction (core th w : Nat)
  /-- YIELD (R99): The stage instruction YIELD acts as NOP and moves its thread to the end of the round-robin order. -/
  | yield (core th w : Nat)
  /-- TRAP (R99): The stage instruction TRAP raises CORE_trap with a code in THR_FINFO. -/
  | trap (core th w : Nat)
  /-- RDSYS (R100): The stage instruction RDSYS reads a system value such as the thread number or device time. -/
  | rdsys (core th w : Nat)
  /-- WAITENG (R99): The stage instruction WAITENG waits until every engine instruction of its thread has completed. -/
  | waiteng (core th w : Nat)
  /-- LD (R103): The stage instruction LD loads a value of the given size into rd, acting on the leaf cache by its hint. -/
  | ld (core th w : Nat)
  /-- ST (R103): The stage instruction ST writes the low bytes of s[rd] at the effective address. -/
  | st (core th w : Nat)
  /-- PREF (R710): The stage instruction PREF brings a 256 B line into the leaf cache with its hint. -/
  | pref (core th w : Nat)
  /-- COPY (R104): The stage instruction COPY copies a range of 256 B lines, carrying any poison unit by unit. -/
  | copy (core th w : Nat)
  /-- FILL (R104): The stage instruction FILL writes a range with a repeated 8 B word. -/
  | fill (core th w : Nat)
  /-- UNPIN (R114): The stage instruction UNPIN turns the PINNED lines of a range into PLAIN lines. -/
  | unpin (core th w : Nat)
  /-- CINV (R116): The stage instruction CINV invalidates the unpinned lines of a range and marks its fills in flight for discard. -/
  | cinv (core th w : Nat)
  /-- AADD (R106): The stage instruction AADD performs an atomic add at the slice controller and returns the old value. -/
  | aadd (core th w : Nat)
  /-- ACAS (R106): The stage instruction ACAS performs an atomic compare-and-swap at the slice controller. -/
  | acas (core th w : Nat)
  /-- MOVI (R103): The stage instruction MOVI loads a sign-extended 43-bit immediate. -/
  | movi (core th w : Nat)
  /-- MOVHI (R103): The stage instruction MOVHI sets bits [63:43] of rd. -/
  | movhi (core th w : Nat)
  /-- ADD (R103): The stage instruction ADD adds, wrapping modulo 2^64. -/
  | add (core th w : Nat)
  /-- SUB (R103): The stage instruction SUB subtracts, wrapping modulo 2^64. -/
  | sub (core th w : Nat)
  /-- MUL (R103): The stage instruction MUL keeps the low 64 bits of a product. -/
  | mul (core th w : Nat)
  /-- AND (R103): The stage instruction AND forms a bitwise and. -/
  | andI (core th w : Nat)
  /-- OR (R103): The stage instruction OR forms a bitwise or. -/
  | orI (core th w : Nat)
  /-- XOR (R103): The stage instruction XOR forms a bitwise exclusive or. -/
  | xorI (core th w : Nat)
  /-- SHL (R103): The stage instruction SHL shifts left. -/
  | shl (core th w : Nat)
  /-- SHR (R103): The stage instruction SHR shifts right logically. -/
  | shr (core th w : Nat)
  /-- SAR (R103): The stage instruction SAR shifts right arithmetically. -/
  | sar (core th w : Nat)
  /-- SLT (R103): The stage instruction SLT compares as signed values. -/
  | slt (core th w : Nat)
  /-- SLTU (R103): The stage instruction SLTU compares as unsigned values. -/
  | sltu (core th w : Nat)
  /-- SEQ (R103): The stage instruction SEQ tests for equality. -/
  | seq (core th w : Nat)
  /-- MINU (R103): The stage instruction MINU takes the unsigned minimum. -/
  | minu (core th w : Nat)
  /-- ILLEGAL_INSTRUCTION (R97): An instruction that is unassigned, reserved or malformed issues and faults with CORE_illegal_op. -/
  | illegalInstruction (core th w : Nat)
  /-- MEMORY_OP_COMPLETION (R105): A memory operation of a thread completes, frees its slot and wakes a thread that waits on its data. -/
  | memoryOpCompletion (core th slot : Nat)
  /-- LEAF_FILL_ARRIVAL (R112): A leaf cache fill arrives; it merges any pending stores, and it is discarded if it was marked or carries poison. -/
  | leafFillArrival (core line : Nat)
  /-- CORE_MEM_TIMEOUT_EXPIRY (R118): A memory operation not completed within CORE_MEM_TIMEOUT faults with CORE_mem_timeout; a load leaves rd poisoned. -/
  | coreMemTimeoutExpiry (core who i : Nat)
  /-- READ_RETRY (R118): A read answered RETRY_LATER is reissued every 10 µs. -/
  | readRetry (core th slot : Nat)
  /-- TOKEN_SIGNAL_ARRIVAL (R101): A token signal arrives at a core, adds to the counter and serves waiting WAITTOK threads in order. -/
  | tokenSignalArrival (core who i : Nat)
  /-- RUNAHEAD_PREFETCH (R121): In an idle issue cycle, a thread that waits on data decodes ahead and issues prefetches for known KEEP or LASTUSE addresses. -/
  | runaheadPrefetch (core th w : Nat)
  /-- KILL_THREAD (R126): The KILL_THREAD command frees one thread in T_FAULT or T_STOPPED after its slots have returned. -/
  | killThread (o : Origin) (core arg : Nat)
  /-- LEAF_FLUSH (R126): The LEAF_FLUSH command invalidates the whole leaf cache, pinned lines included. -/
  | leafFlush (o : Origin) (core arg : Nat)
  /-- CORE_CLEAR_COUNTS (R126): The CLEAR_COUNTS command of CORE clears CORE_CNT_* and CORE_DESC_FINFO. -/
  | coreClearCounts (o : Origin) (core arg : Nat)
  /-- CORE_LEAF_SPLIT_WRITE (R110): A write to CORE_LEAF_SPLIT invalidates the whole cache and zeroes scratch beyond the smaller scratch size. -/
  | coreLeafSplitWrite (o : Origin) (core val : Nat)
  /-- CORE_RUNAHEAD_WRITE (R120): A write to CORE_RUNAHEAD that clears en squashes run-ahead in every thread. -/
  | coreRunaheadWrite (o : Origin) (core val : Nat)
  /-- RING_PROD_WRITE (R125): A write to RING_PROD advances the producer count, or is refused if it would overfill the ring or move backwards. -/
  | ringProdWrite (o : Origin) (core ring val : Nat)
  /-- CORE_TOK_WRITE (R101): A write to CORE_TOKn in IDLE sets a token counter, and the tile ledger records the difference as an adjustment. -/
  | coreTokWrite (o : Origin) (core tk val : Nat)
  /-- WLD (R145): The array instruction WLD queues a stationary block load into the shadow registers. -/
  | wld (core th w : Nat)
  /-- PASS (R147): The array instruction PASS queues a pass of M activation rows against a stationary block. -/
  | pass (core th w : Nat)
  /-- ACCZ (R143): The array instruction ACCZ zeroes accumulator rows and marks them valid. -/
  | accz (core th w : Nat)
  /-- ACCLD (R143): The array instruction ACCLD loads accumulator rows from memory. -/
  | accld (core th w : Nat)
  /-- ACCST (R151): The array instruction ACCST stores accumulator rows, converting them and writing poison for invalid rows. -/
  | accst (core th w : Nat)
  /-- ARR_INSTRUCTION_START (R153): A queued array instruction starts once the instructions it waits on have finished with its rows or block. -/
  | arrInstructionStart (core half pos : Nat)
  /-- WLD_COMPLETE (R155): A stationary block is wholly written into its lanes. -/
  | wldComplete (core : Nat)
  /-- PASS_COMPLETE (R155): A pass writes its last result, or finishes aborting. -/
  | passComplete (core half : Nat)
  /-- MXU_FEED_TIMEOUT_EXPIRY (R159): A feeder that has waited for A data for MXU_FEED_TIMEOUT raises MXU_arr_feed_timeout, and its pass aborts. -/
  | mxuFeedTimeoutExpiry (core half : Nat)
  /-- ARR_HALF_RESET (R181): The ARR_HALF_RESET command resets one half of the array, or the whole array, leaving the other half unaffected. -/
  | arrHalfReset (o : Origin) (core arg : Nat)
  /-- ARR_CLEAR_COUNTS (R181): The ARR_CLEAR_COUNTS command clears the array counters and abort records. -/
  | arrClearCounts (o : Origin) (core arg : Nat)
  /-- MVSET (R199): The MV instruction MVSET binds up to 8 activation vectors in leaf scratch. -/
  | mvset (core th w : Nat)
  /-- MVRUN (R200): The MV instruction MVRUN queues a run that streams weight lines past the bound vectors. -/
  | mvrun (core th w : Nat)
  /-- MVST (R203): The MV instruction MVST stores an MV accumulator bank, converting it and writing poison for an invalid bank. -/
  | mvst (core th w : Nat)
  /-- MVZ (R204): The MV instruction MVZ zeroes an MV accumulator bank and marks it valid. -/
  | mvz (core th w : Nat)
  /-- MVMETA (R230): The MV instruction MVMETA binds the sparse metadata and bitmap for later runs. -/
  | mvmeta (core th w : Nat)
  /-- MV_LINE_ARRIVAL (R192): A weight line or scale record returns to the MV path and is summed into the run. -/
  | mvLineArrival (core line : Nat) (scale : Bool)
  /-- MVRUN_COMPLETE (R206): An MV run adds its last block, or finishes aborting. -/
  | mvrunComplete (core : Nat)
  /-- MV_LINE_TIMEOUT (R208): A line that has not returned within MXU_MV_TIMEOUT raises MXU_mv_timeout. -/
  | mvLineTimeout (core : Nat)
  /-- MV_RESET (R217): The MV_RESET command applies only the MV path's part of an MXU reset. -/
  | mvReset (o : Origin) (core arg : Nat)
  /-- MV_CLEAR_COUNTS (R217): The MV_CLEAR_COUNTS command clears the MV counters and MXU_MV_ABORT. -/
  | mvClearCounts (o : Origin) (core arg : Nat)
  /-- DOPEN (R238): The dispatch instruction DOPEN checks a round record and expert map, opens a round, and may send expert prefetches. -/
  | dopen (core th w : Nat)
  /-- DLOGIT (R259): The dispatch instruction DLOGIT hands the router logits of a run of tokens to the round. -/
  | dlogit (core th w : Nat)
  /-- DRET (R244): The dispatch instruction DRET reports that an expert has written its result rows for a round. -/
  | dret (core th w : Nat)
  /-- DSKIP (R260): The dispatch instruction DSKIP reads one 64-bit word of a skip mask for a layer. -/
  | dskip (core th w : Nat)
  /-- BMSCAN (R260): The dispatch instruction BMSCAN scans a bitmap for the next set bit. -/
  | bmscan (core th w : Nat)
  /-- PLACEMENT (R240): Once every token's logits are read, the dispatch unit ranks experts, places choices rank by rank with spills, and squashes unused prefetches. -/
  | placement (site handle : Nat)
  /-- EXPERT_BATCH_SEND (R243): The dispatch unit copies an expert's slot rows and batch header and then signals the expert's token. -/
  | expertBatchSend (site handle : Nat)
  /-- DRET_ARRIVAL (R249): A DRET reaches the home dispatch unit and is accepted, or is handled as late or as out of sequence. -/
  | dretArrival (core pos : Nat)
  /-- TOKEN_COMBINE (R245): When a token's last choice has returned, the dispatch unit combines its weighted results in rank order and writes the output row. -/
  | tokenCombine (site handle tok : Nat)
  /-- ROUND_COMPLETE (R246): When every output row is written, the round signals its done token, releases its pins and frees its handle. -/
  | roundComplete (site handle : Nat)
  /-- ROUND_ABORT (R263): The ROUND_ABORT command aborts one round, poisoning its unwritten outputs and completing it. -/
  | roundAbort (o : Origin) (site arg : Nat)
  /-- DSP_RETRY (R248): A dispatch unit access answered RETRY_LATER is repeated every 10 µs. -/
  | dspRetry (site : Nat)
  /-- DSP_TIMEOUT_EXPIRY (R248): A dispatch unit access not completed within DSP_TIMEOUT raises DSP_dma_timeout, and its round aborts. -/
  | dspTimeoutExpiry (core handle : Nat) (atPort : Bool)
  /-- PREFETCH_REQUEST (R255): A core receives an expert prefetch request and fetches its lines as PREF with KEEP in class 3. -/
  | prefetchRequest (site pos : Nat)
  /-- UNPIN_REQUEST (R256): A core receives an unpin request and, after its prefetch completes, turns the range's PINNED lines into PLAIN lines. -/
  | unpinRequest (site pos : Nat)
  /-- PIN_RELEASE_ALL (R263): The PIN_RELEASE_ALL command sends unpin requests for every range the dispatch unit holds. -/
  | pinReleaseAll (o : Origin) (site arg : Nat)
  /-- DSP_CLEAR_COUNTS (R263): The DSP_CLEAR_COUNTS command clears DSP_CNT_* and DSP_LAST_ABORT. -/
  | dspClearCounts (o : Origin) (site arg : Nat)
  /-- SLICE_REQUEST (R273): A request reaches a channel controller's queue and is served by granule, with ECC checking, correction or confirmed poison. -/
  | sliceRequest (o : Origin) (core so n src : Nat) (wr : Bool) (dat : Nat) (e1 e2 : List (Nat × Nat))
  /-- DEAD_DPA_ACCESS (R271): An access to a dead DPA returns poison or is discarded, with no memory access. -/
  | deadDpaAccess (o : Origin) (dpa : Nat) (isRead : Bool)
  /-- SLC_DEAD_DPA_WINDOW (R272): A 1 ms dead-access window closes; if it counted any access, a record is written and a new window opens. -/
  | slcDeadDpaWindow (site : Nat)
  /-- SCHEDULER_WINDOW (R276): Each 800 ns window the scheduler re-reads T, sets the allowance A and the class 0 share S, and fills slots in class order. -/
  | schedulerWindow (core : Nat)
  /-- REQUEST_AGED (R277): A request that has waited SLC_AGE_LIMIT becomes aged and is served ahead of the others. -/
  | requestAged (core chan : Nat)
  /-- ROW_CLOSE_TIMEOUT (R279): A bank row open for 200 ns with no access is closed. -/
  | rowCloseTimeout (core chan bank : Nat)
  /-- THROTTLE_BAND_RELEASE (R282): After T has stayed below 94 °C for 10 ms, the scheduler leaves the heavy band. -/
  | throttleBandRelease (core : Nat)
  /-- REFRESH_DUE (R283): A bank's refresh falls due at tREFI / 16 steps and is issued, postponed or forced. -/
  | refreshDue (core chan : Nat) (late : Bool)
  /-- REFRESH_BAND_RELEASE (R284): After a layer has stayed 2 °C below its band for 10 ms, its refresh interval lengthens. -/
  | refreshBandRelease (core chan : Nat)
  /-- LANE_GROUP_RETRAIN (R288): A channel retrains its lane groups one after another on the spares while it stays at full width. -/
  | laneGroupRetrain (core chan wire eye : Nat)
  /-- RETRAIN_PERIOD_EXPIRY (R290): SLC_RT_PERIOD seconds have passed since a channel's last retraining, and a retraining starts. -/
  | retrainPeriodExpiry (core chan : Nat)
  /-- FULL_CHANNEL_RETRAIN (R292): A channel's queue is held while the whole channel retrains between refreshes. -/
  | fullChannelRetrain (core chan : Nat) (ok : Bool)
  /-- HOLD_TIMEOUT (R293): A hold not resolved within 50 µs fails the channel and raises SLC_train_fail. -/
  | holdTimeout (core chan : Nat)
  /-- POLLARD_VALIDATION (R295): A site in service validates its channels at 1.6 Gbit/s, channel number by channel number, and switches each channel's rate as it passes. -/
  | pollardValidation (site : Nat) (bad : List Nat) (t : Nat)
  /-- SLC_SIDEBAND_LOST (R301): A DRAM layer's sideband has delivered no reading for 1 ms; the layer counts as 95 °C and refreshes at its fastest. -/
  | slcSidebandLost (core chan : Nat)
  /-- RETRAIN (R298): The RETRAIN command retrains one channel by lane groups or as a whole channel. -/
  | retrain (o : Origin) (core arg : Nat)
  /-- SLC_CLEAR_COUNTS (R298): The SLC_CLEAR_COUNTS command clears the slice and channel counters. -/
  | slcClearCounts (o : Origin) (core arg : Nat)
  /-- SCALL (R327): The sap instruction SCALL queues a micro-program call on masked units, with an optional token signal. -/
  | scall (core th w : Nat)
  /-- SLOAD (R327): The sap instruction SLOAD queues a load of micro-program words into units' stores. -/
  | sload (core th w : Nat)
  /-- SABORT (R329): The sap instruction SABORT aborts the running calls of masked units. -/
  | sabort (core th w : Nat)
  /-- SAP_CALL_START (R329): A queued call or load starts once its units are U_IDLE, its group is free and the page is in RUN, loading the argument words. -/
  | sapCallStart (core : Nat)
  /-- SAP_CALL_COMPLETION (R330): When every called unit has ended, the status is written and the token is signalled if requested. -/
  | sapCallCompletion (core : Nat)
  /-- SAP_NOP (R306): The micro-instruction NOP does nothing. -/
  | sapNop (core unit : Nat)
  /-- SAP_END (R306): The micro-instruction END ends the call once every store of the unit is written. -/
  | sapEnd (core unit : Nat)
  /-- SAP_BR (R306): The micro-instruction BR jumps to a target word. -/
  | sapBr (core unit : Nat)
  /-- SAP_LOOP (R306): The micro-instruction LOOP decrements x[a] and jumps while it is nonzero. -/
  | sapLoop (core unit : Nat)
  /-- BNZ (R306): The micro-instruction BNZ jumps if x[a] ≠ 0. -/
  | bnz (core unit : Nat)
  /-- BZ (R306): The micro-instruction BZ jumps if x[a] = 0. -/
  | bz (core unit : Nat)
  /-- ADDI (R306): The micro-instruction ADDI adds an immediate. -/
  | addi (core unit : Nat)
  /-- SAP_ADD (R306): The micro-instruction ADD adds two scalars. -/
  | sapAdd (core unit : Nat)
  /-- SAP_SUB (R306): The micro-instruction SUB subtracts two scalars. -/
  | sapSub (core unit : Nat)
  /-- SAP_MUL (R306): The micro-instruction MUL keeps the low 32 bits of a scalar product. -/
  | sapMul (core unit : Nat)
  /-- SHLI (R306): The micro-instruction SHLI shifts left by an immediate. -/
  | shli (core unit : Nat)
  /-- SHRI (R306): The micro-instruction SHRI shifts right logically by an immediate. -/
  | shri (core unit : Nat)
  /-- ANDI (R306): The micro-instruction ANDI ands with a zero-extended immediate. -/
  | andi (core unit : Nat)
  /-- ORI (R306): The micro-instruction ORI ors with a zero-extended immediate. -/
  | ori (core unit : Nat)
  /-- LUI (R306): The micro-instruction LUI loads an immediate shifted left by 15. -/
  | lui (core unit : Nat)
  /-- ARG (R306): The micro-instruction ARG reads an argument word. -/
  | arg (core unit : Nat)
  /-- SYS (R306): The micro-instruction SYS reads the channel, the core, the site or the call entry. -/
  | sys (core unit : Nat)
  /-- OFFS (R304): The micro-instruction OFFS converts a channel address to a slice offset. -/
  | offs (core unit : Nat)
  /-- FOP (R307): The micro-instruction FOP performs a scalar FP32 operation. -/
  | fop (core unit : Nat)
  /-- LDV (R319): The micro-instruction LDV loads 128 B from the row buffer into two vector registers, checking and correcting each codeword. -/
  | ldv (core unit : Nat) (e1 e2 : List (Nat × Nat))
  /-- STV (R319): The micro-instruction STV stores two vector registers as whole codewords, writing poison for poisoned registers. -/
  | stv (core unit : Nat)
  /-- LDB (R306): The micro-instruction LDB broadcasts 4 B from memory to every word of a vector register. -/
  | ldb (core unit : Nat) (e1 e2 : List (Nat × Nat))
  /-- VADD (R306): The micro-instruction VADD adds vectors. -/
  | vadd (core unit : Nat)
  /-- VSUB (R306): The micro-instruction VSUB subtracts vectors. -/
  | vsub (core unit : Nat)
  /-- VMUL (R306): The micro-instruction VMUL multiplies vectors. -/
  | vmul (core unit : Nat)
  /-- VFMA (R306): The micro-instruction VFMA performs a fused multiply-add, rounded once. -/
  | vfma (core unit : Nat)
  /-- VMAX (R306): The micro-instruction VMAX takes the lane-wise maximum. -/
  | vmax (core unit : Nat)
  /-- VMIN (R306): The micro-instruction VMIN takes the lane-wise minimum. -/
  | vmin (core unit : Nat)
  /-- VMULS (R306): The micro-instruction VMULS multiplies a vector by a scalar. -/
  | vmuls (core unit : Nat)
  /-- VADDS (R306): The micro-instruction VADDS adds a scalar to a vector. -/
  | vadds (core unit : Nat)
  /-- VACT (R307): The micro-instruction VACT applies an activation function. -/
  | vact (core unit : Nat)
  /-- VCVT (R308): The micro-instruction VCVT converts or quantises vectors. -/
  | vcvt (core unit : Nat)
  /-- VINS (R306): The micro-instruction VINS inserts a scalar into one vector word. -/
  | vins (core unit : Nat)
  /-- VEXT (R306): The micro-instruction VEXT extracts one vector word. -/
  | vext (core unit : Nat)
  /-- PACC (R309): The micro-instruction PACC reduces the lanes of a vector into a scalar, exactly and then rounded once. -/
  | pacc (core unit : Nat)
  /-- RSEND (R321): The micro-instruction RSEND sends the unit's partial for its next reduction step, and waits if 4 steps are outstanding. -/
  | rsend (core unit : Nat)
  /-- RWAIT (R321): The micro-instruction RWAIT collects the result of the oldest outstanding reduction step. -/
  | rwait (core unit : Nat)
  /-- SAP_ILLEGAL_INSTRUCTION (R310): An illegal micro-instruction raises SAP_illegal and aborts the call. -/
  | sapIllegalInstruction (core unit : Nat)
  /-- SAP_SUSPEND (R316): A pending suspension takes effect at an atom boundary: the unit stops issuing, releases its grants and enters U_SUSP. -/
  | sapSuspend (core unit : Nat)
  /-- SAP_ATOM_OVERRUN (R317): An atom reaches budget − 64 cycles without a boundary and is counted as an overrun. -/
  | sapAtomOverrun (core unit age : Nat)
  /-- REDUCTION_STEP_COMBINE (R322): A sap-reduce path holds a partial from every unit or core of a step and combines them in fixed order. -/
  | reductionStepCombine (core grp : Nat) (root : Bool)
  /-- REDUCTION_RESULT_ARRIVAL (R321): A step's combined result reaches a unit and satisfies a waiting RWAIT. -/
  | reductionResultArrival (core unit : Nat)
  /-- REDUCTION_STEP_TIMEOUT (R324): A reduction step not complete within SAP_TIMEOUT is abandoned and returns poisoned results. -/
  | reductionStepTimeout (core grp : Nat)
  /-- SAP_CALL_TIMEOUT (R336): A call still running SAP_TIMEOUT after it started raises SAP_call_timeout and aborts. -/
  | sapCallTimeout (core : Nat)
  /-- UNIT_CALL (R335): The UNIT_CALL command queues a call using the units' SU_ARG registers. -/
  | unitCall (o : Origin) (core arg : Nat)
  /-- UNIT_ABORT (R335): The UNIT_ABORT command aborts the running calls of masked units at once. -/
  | unitAbort (o : Origin) (core arg : Nat)
  /-- SAP_CLEAR_COUNTS (R335): The SAP_CLEAR_COUNTS command clears the SAP and unit counters. -/
  | sapClearCounts (o : Origin) (core arg : Nat)
  /-- SU_PROG_DATA_WRITE (R335): A write to SU_PROG_DATA stores a micro-program word and advances the address, and is refused unless the unit is U_IDLE. -/
  | suProgDataWrite (o : Origin) (core unit val : Nat)
  /-- ATQ (R373): The attention instruction ATQ opens a run, reading, rotating and converting the query rows. -/
  | atq (core th w : Nat)
  /-- ATBLK (R354): The attention instruction ATBLK attends a range of list entries, skipping or ranking blocks, and folds them into the run. -/
  | atblk (core th w : Nat)
  /-- ATEND (R351): The attention instruction ATEND writes normalised or raw rows and closes the run. -/
  | atend (core th w : Nat)
  /-- ATMERGE (R352): The attention instruction ATMERGE folds raw partials into the open run. -/
  | atmerge (core th w : Nat)
  /-- ATT_READ_TIMEOUT (R379): A read of a run not complete within MXU_ATT_TIMEOUT raises MXU_att_timeout and aborts the run. -/
  | attReadTimeout (core : Nat)
  /-- KVAPPEND (R359): The KV instruction KVAPPEND appends up to 256 tokens tentatively after checking the whole append. -/
  | kvappend (core th w : Nat)
  /-- KVCOMMIT (R361): The KV instruction KVCOMMIT commits the first n tentative tokens, discards the rest and republishes summaries. -/
  | kvcommit (core th w : Nat)
  /-- KVROLLBACK (R361): The KV instruction KVROLLBACK discards every tentative token of a list. -/
  | kvrollback (core th w : Nat)
  /-- KVREF (R363): The KV instruction KVREF adds one reference to each of a set of blocks. -/
  | kvref (core th w : Nat)
  /-- KVRELEASE (R363): The KV instruction KVRELEASE removes one reference from each of a set of blocks and frees blocks that reach 0. -/
  | kvrelease (core th w : Nat)
  /-- KVFORK (R363): The KV instruction KVFORK gives a list its own copy of its shared tail block. -/
  | kvfork (core th w : Nat)
  /-- PFXFIND (R369): The KV instruction PFXFIND walks the prefix tree over token spans and holds the deepest matched node. -/
  | pfxfind (core th w : Nat)
  /-- PFXINSERT (R370): The KV instruction PFXINSERT adds a node that references FULL blocks, evicting within its bucket if needed. -/
  | pfxinsert (core th w : Nat)
  /-- PFXRELEASE (R369): The KV instruction PFXRELEASE releases a hold on a node. -/
  | pfxrelease (core th w : Nat)
  /-- PFX_EVICT (R371): While free nodes are below PFX_LOW_WM, the prefix unit evicts the least recently used evictable node and releases its blocks. -/
  | pfxEvict (site : Nat)
  /-- KVM_READ_TIMEOUT (R381): A KV manager read not complete within KVM_TIMEOUT ends its operation with status 8. -/
  | kvmReadTimeout (core : Nat)
  /-- PFX_READ_TIMEOUT (R381): A prefix unit read not complete within PFX_TIMEOUT ends its operation with status 8. -/
  | pfxReadTimeout (core : Nat)
  /-- ATT_RESET (R378): The ATT_RESET command applies only the score unit's part of an MXU reset. -/
  | attReset (o : Origin) (core arg : Nat)
  /-- ATT_CLEAR_COUNTS (R378): The ATT_CLEAR_COUNTS command clears the attention counters and MXU_ATT_ABORT. -/
  | attClearCounts (o : Origin) (core arg : Nat)
  /-- KVM_BUILD (R380): The KVM_BUILD command zeroes every reference count and pushes every slot onto the free stack. -/
  | kvmBuild (o : Origin) (site arg : Nat)
  /-- KVM_CLEAR_COUNTS (R380): The KVM_CLEAR_COUNTS command clears KVM_CNT_*. -/
  | kvmClearCounts (o : Origin) (site arg : Nat)
  /-- PFX_BUILD (R380): The PFX_BUILD command empties the table and chains every node as free, releasing no block. -/
  | pfxBuild (o : Origin) (site arg : Nat)
  /-- PFX_FLUSH (R380): The PFX_FLUSH command evicts every evictable node, repeatedly, until none remains. -/
  | pfxFlush (o : Origin) (site arg : Nat)
  /-- PFX_CLEAR_COUNTS (R380): The PFX_CLEAR_COUNTS command clears PFX_CNT_*. -/
  | pfxClearCounts (o : Origin) (site arg : Nat)
  /-- PFX_KEY_WRITE (R365): A write to PFX_KEY0–3 stores hash key bits for the next PFX_BUILD, and is refused outside IDLE. -/
  | pfxKeyWrite (o : Origin) (site n val : Nat)
  /-- RING_FETCH_BURST (R385): A ring with room and unread descriptors fetches a burst of up to 16 descriptors that never crosses 1 KiB. -/
  | ringFetchBurst (core ring : Nat)
  /-- RING_BURST_ARRIVAL (R387): A descriptor burst arrives and advances RING_CONS, or on poison, timeout or a bad address stops the ring's fetching. -/
  | ringBurstArrival (core ring : Nat) (ok : Bool)
  /-- STAGE (R389): A STAGE descriptor at the head of its ring launches count + 1 threads once its waits and threads are available. -/
  | stageDesc (core ring : Nat)
  /-- CHAIN (R390): A CHAIN descriptor launches one thread per stage and initialises the buffer tokens of its links. -/
  | chain (core ring : Nat)
  /-- WPRE (R391): A WPRE descriptor joins the prefetch engine, which copies weights into scratch or the leaf cache. -/
  | wpre (core ring : Nat)
  /-- WPRE_COMPLETION (R399): A WPRE completes when its last line is written or allocated. -/
  | wpreCompletion (core ring seq : Nat) (ok : Bool)
  /-- NOP_DESCRIPTOR (R392): A NOP descriptor performs only its waits, completion record and signals. -/
  | nopDescriptor (core ring : Nat)
  /-- DRAIN_DESCRIPTOR (R407): A DRAIN descriptor makes a layer barrier pending and launches and completes when the barrier completes. -/
  | drainDescriptor (core ring : Nat)
  /-- DESCRIPTOR_COMPLETION (R400): A descriptor whose threads are all free writes its completion record and then sends its signals. -/
  | descriptorCompletion (core ring seq : Nat)
  /-- LAYER_BARRIER_COMPLETE (R406): When all barrier conditions hold, run-ahead is squashed, DRAIN descriptors launch and complete, and DRAIN threads resume. -/
  | layerBarrierComplete (core : Nat)
  /-- PACKET_ROUTE (R425): A packet reaches a router and is routed XY, YX, by express or answered DEAD, or is discarded on a CRC failure. -/
  | packetRoute (pos : Nat) (bad : Bool)
  /-- RD_REQ (R420): A read request packet is served at its endpoint. -/
  | rdReq (pos : Nat)
  /-- WR_REQ (R420): A write request packet is applied at its endpoint. -/
  | wrReq (pos : Nat)
  /-- ATOMIC (R420): An atomic request packet is executed at the target slice controller. -/
  | atomic (pos : Nat)
  /-- SIGTOK_PACKET (R420): A SIGTOK packet adds its count to a token of the destination core. -/
  | sigtokPacket (pos : Nat)
  /-- REG_REQ (R420): A register request packet reads or writes a BAR0 register. -/
  | regReq (pos : Nat)
  /-- RSP (R420): A response packet returns data or status to its requester. -/
  | rsp (pos : Nat)
  /-- BULK (R420): A BULK packet delivers data of SEND, dispatch copies or bough delivery and is acknowledged by RSP. -/
  | bulk (pos : Nat)
  /-- MGMT (R420): A MGMT packet carries trunk messages, broadcast chunks or detour table updates. -/
  | mgmt (pos : Nat)
  /-- CREDIT_RETURN (R422): A credit returned in a link's control units restores a buffer credit to the sender. -/
  | creditReturn (node link vc cls : Nat)
  /-- LINK_HEARTBEAT_TIMEOUT (R431): No valid unit for 2 µs marks a mesh link DOWN and counts the unreturned packets as lost. -/
  | linkHeartbeatTimeout (node link : Nat) (cut : Bool)
  /-- EXPRESS_PROBE (R433): An express peer is probed at least every 1 µs and is marked DOWN after 2 µs without an answer. -/
  | expressProbe (site peer : Nat) (ok : Bool)
  /-- RECON_START (R434): Heartbeats received again for 10 µs start the reconciliation of a DOWN link, and both ends stop sending. -/
  | reconStart (node link : Nat)
  /-- RECON_OFFER (R434): Both buffer offers are received; each end sets its credits, confirms and returns the link to UP. -/
  | reconOffer (node link : Nat)
  /-- RECON_TIMEOUT (R434): No confirmation within 100 µs returns the link to DOWN. -/
  | reconTimeout (node link : Nat)
  /-- DETOUR_REWRITE (R427): Trunk firmware rewrites every router's detour tables within 100 µs of a link state change. -/
  | detourRewrite (site : Nat)
  /-- FLIT_RECEIVE (R439): A bough flit is accepted in order or discarded with a nack; its ack, nack and credits are processed. -/
  | flitReceive (port flit corr unc : Nat)
  /-- FLIT_SEND_TIMER (R440): Each end sends at least one flit, IDLE if nothing else, every 64 ns. -/
  | flitSendTimer (port : Nat)
  /-- FLIT_GAP_TIMEOUT (R440): No good flit, or no codeword lock, for 10 µs marks the bough link DOWN. -/
  | flitGapTimeout (port : Nat) (lanes : Bool)
  /-- BOUGH_RECON_OFFER (R443): A CTRL RECON offer decides between lossless resumption and a reset with counted loss. -/
  | boughReconOffer (port : Nat)
  /-- BOUGH_RECON_CONFIRM (R442): A CTRL RECON confirm lets the ends set their credits per VC. -/
  | boughReconConfirm (port : Nat)
  /-- HELLO (R442): A HELLO management frame is checked for roles, tags and layers; on agreement the port enters RUN and grants frame credits. -/
  | hello (port : Nat)
  /-- BOUGH_START_TIMEOUT (R442): No lock, or a missing or mismatched HELLO, 100 ms after START ends START FAILED. -/
  | boughStartTimeout (port : Nat)
  /-- ACTIVATION_FRAME (R446): A complete activation frame is written to its entry slot and signals entry_tok, or is dropped with a reason. -/
  | activationFrame (port : Nat)
  /-- REG_RD (R451): A REG_RD management frame reads up to 32 registers and is answered with REG_RSP. -/
  | regRd (port : Nat)
  /-- REG_WR (R451): A REG_WR management frame writes registers with origin class 5 while wr_in is 1. -/
  | regWr (port : Nat)
  /-- REG_RSP (R451): A REG_RSP frame completes a REMOTE access. -/
  | regRsp (port : Nat)
  /-- FRAME_CREDIT (R449): Frame credits received in fcred are added to credit_tok on the exit core of the stand whose down is 0xFE. -/
  | frameCredit (port : Nat)
  /-- BGH_OPT_WARN (R705): A lane's receive power stays out of range for 1 s, and the warning is raised. -/
  | bghOptWarn (port lane tx rx : Nat)
  /-- SEND (R454): The send instruction SEND moves data in BULK packets to another site and signals a token on completion. -/
  | send (core th w : Nat)
  /-- SEND_RETRY (R454): A SEND packet answered RETRY_LATER is retried every 10 µs. -/
  | sendRetry (core : Nat)
  /-- BSEND (R455): The send instruction BSEND sends a frame image through a bough port once it holds a frame credit. -/
  | bsend (core th w : Nat)
  /-- BCRED (R449): The send instruction BCRED returns one frame slot to the peer through the port. -/
  | bcred (core th w : Nat)
  /-- LINK_RECON (R456): The LINK_RECON command runs the reconciliation of a mesh link. -/
  | linkRecon (o : Origin) (site arg : Nat)
  /-- RTR_CLEAR_COUNTS (R456): The RTR_CLEAR_COUNTS command clears the router counters and loss counts. -/
  | rtrClearCounts (o : Origin) (site arg : Nat)
  /-- PEER_RECON (R456): The PEER_RECON command runs the reconciliation for one express peer. -/
  | peerRecon (o : Origin) (site arg : Nat)
  /-- XPR_CLEAR_COUNTS (R456): The XPR_CLEAR_COUNTS command clears XPR_CNT_*. -/
  | xprClearCounts (o : Origin) (site arg : Nat)
  /-- LINK_RETRAIN (R456): The LINK_RETRAIN command of a bough port retrains its lanes and then runs R443. -/
  | linkRetrain (o : Origin) (port arg : Nat)
  /-- BGH_CLEAR_COUNTS (R456): The BGH_CLEAR_COUNTS command clears BGH_CNT_* and BGH_LOST. -/
  | bghClearCounts (o : Origin) (port arg : Nat)
  /-- REMOTE (R456): The REMOTE command reads or writes one register on the peer module. -/
  | remote (o : Origin) (port arg : Nat)
  /-- REMOTE_TIMEOUT (R456): No REG_RSP within BGH_TIMEOUT ends REMOTE FAILED. -/
  | remoteTimeout (port : Nat)
  /-- CONFIG_READ (R544): A PCIe configuration read is answered, or gets Retry Status until the configuration space answers. -/
  | configRead (co : Nat)
  /-- CONFIG_WRITE (R469): A PCIe configuration write is journaled at offset 0x2000_0000 + its offset and applied. -/
  | configWrite (rid co be4 val : Nat)
  /-- BAR2_READ (R467): A host read through BAR2 reads device memory through the window, with poison and dead-DPA handling. -/
  | bar2Read (rid bo blen : Nat)
  /-- BAR2_WRITE (R467): A host write through BAR2 writes device memory through the window. -/
  | bar2Write (rid bo blen be bytes : Nat) (ep : Bool)
  /-- BAR2_RETRY (R467): A BAR2 request answered RETRY_LATER is retried every 10 µs. -/
  | bar2Retry (wi : Nat)
  /-- HIF_REQ_TIMEOUT_EXPIRY (R467): A BAR2 request still retried at HIF_REQ_TIMEOUT ends in Completer Abort, or is discarded, with HIF_req_timeout. -/
  | hifReqTimeoutExpiry (wi : Nat)
  /-- DOORBELL_WRITE (R469): A write through a BAR4 doorbell alias acts exactly as a write to the aliased register. -/
  | doorbellWrite (rid mo size val : Nat)
  /-- MSIX_TABLE_WRITE (R469): A write to the MSI-X table or PBA is journaled as config-class and applied, or refused for the PBA. -/
  | msixTableWrite (rid mo size val64 : Nat)
  /-- HIF_WIN_BASE_WRITE (R466): A write to HIF_WIN_BASE moves the BAR2 window for every later request, or is refused for range. -/
  | hifWinBaseWrite (o : Origin) (hi : Bool) (val : Nat)
  /-- HOT_RESET (R462): A hot reset or link-down resets only the configuration space and discards the LQ1's outstanding requests. -/
  | hotReset (down : Bool)
  /-- LINK_UPWARD_RETRAIN (R463): Once bring-up reports full service, the link retrains upward once. -/
  | linkUpwardRetrain (rate width : Nat) (fm : Bool)
  /-- CQ_PROD_WRITE (R472): A write to CQ_PROD advances a copy queue, or is refused for range. -/
  | cqProdWrite (o : Origin) (cq val : Nat)
  /-- COPY_START (R474): The copy engine starts the next descriptor of a running queue once the previous one has completed. -/
  | copyStart (cq : Nat)
  /-- COPY_COMPLETION (R475): A copy finishes, writes its status and CQ_CONS shadow, and signals a token if requested. -/
  | copyCompletion (cq : Nat)
  /-- HOST_READ_COMPLETION (R478): A completion for a read that the LQ1 issued to host memory arrives, or is discarded if late. -/
  | hostReadCompletion (cq blen : Nat) (ep : Bool)
  /-- HIF_CPL_TIMEOUT_EXPIRY (R478): A host read not completed within HIF_CPL_TIMEOUT raises its requester's timeout source. -/
  | hifCplTimeoutExpiry (asker inst : Nat)
  /-- ER_CONS_WRITE (R482): A write to ER_CONS consumes records, frees ring room and lets held records be written. -/
  | erConsWrite (o : Origin) (ring val : Nat)
  /-- ER_PROD_WRITE (R491): A write of 0 to ER_PROD restarts a disabled ring; every other write is refused as read-only. -/
  | erProdWrite (o : Origin) (ring val : Nat)
  /-- MSIX_MESSAGE (R483): Ring n's MSI-X vector is sent once the count reaches mod_cnt or mod_us has passed, or its PBA bit is set. -/
  | msixMessage (ring : Nat)
  /-- GET_VERSION (R487): The SPDM request GET_VERSION is answered. -/
  | getVersion
  /-- GET_CAPABILITIES (R487): The SPDM request GET_CAPABILITIES is answered. -/
  | getCapabilities
  /-- NEGOTIATE_ALGORITHMS (R487): The SPDM request NEGOTIATE_ALGORITHMS selects P-384 and SHA-384. -/
  | negotiateAlgorithms
  /-- GET_DIGESTS (R487): The SPDM request GET_DIGESTS returns the digest of certificate slot 0. -/
  | getDigests
  /-- GET_CERTIFICATE (R487): The SPDM request GET_CERTIFICATE returns the slot 0 chain. -/
  | getCertificate (cslot : Nat)
  /-- CHALLENGE (R487): The SPDM request CHALLENGE is signed with the device identity key. -/
  | challenge (cslot nonce : Nat)
  /-- GET_MEASUREMENTS (R488): The SPDM request GET_MEASUREMENTS returns the six measurement blocks, signed. -/
  | getMeasurements (mi : Nat) (signed : Bool) (nonce : Nat)
  /-- SPDM_UNSUPPORTED_REQUEST (R487): Any other SPDM request is answered with an ERROR of UnsupportedRequest. -/
  | spdmUnsupportedRequest
  /-- CQ_RESET (R489): The CQ_RESET command ends one queue's copy with status 3 and sets CQ_CONS to CQ_PROD. -/
  | cqReset (o : Origin) (arg : Nat)
  /-- HIF_LINK_RETRAIN (R489): The LINK_RETRAIN command of HIF retrains the host link up to a given rate. -/
  | hifLinkRetrain (o : Origin) (arg : Nat)
  /-- HIF_CLEAR_COUNTS (R489): The HIF_CLEAR_COUNTS command clears HIF_CNT_*. -/
  | hifClearCounts (o : Origin) (arg : Nat)
  /-- PTM_EXCHANGE (R508): Every period_ms, a PTM exchange measures the host time offset; three misses in a row raise TIM_ptm_fail. -/
  | ptmExchange (host delay : Nat) (ok : Bool)
  /-- PTM_NOW (R516): The PTM_NOW command runs one PTM exchange at once. -/
  | ptmNow (o : Origin) (arg : Nat)
  /-- FREQ_STEP (R499): Every 100 ns, a core island moves one 25 MHz step towards its effective frequency. -/
  | freqStep (core : Nat)
  /-- CLOCK_MONITOR_WINDOW (R501): Each 1 µs window, the trunk compares every island's edge count with its effective frequency. -/
  | clockMonitorWindow (kind site idx edges : Nat) (ok : Bool)
  /-- ISLAND_CLOCK_LOST (R502): An island with no edge for 100 ns, or off frequency, is declared lost, and the fixed actions for its kind follow. -/
  | islandClockLost (kind site idx : Nat) (ok : Bool)
  /-- HANDSHAKE_TIMEOUT (R496): A crossing FIFO entry not acknowledged within 2 µs raises CLK_hs_timeout, and its island is treated as lost. -/
  | handshakeTimeout (kind site idx : Nat) (ok : Bool)
  /-- SYSREF_LOST (R504): No SYSREF edge for 400 ns, or SYSREF out of range, starts holdover on the internal oscillator. -/
  | sysrefLost
  /-- SYSREF_RETURN (R504): SYSREF good for 10 ms ends holdover, and time returns to SYSREF by slewing. -/
  | sysrefReturn (diff : Int)
  /-- REFCLK_LOST (R505): The loss of REFCLK stops the host link and raises CLK_refclk_lost. -/
  | refclkLost
  /-- TIME_CORRECTION (R507): Every 1 µs, each island's local copy of device time is corrected from the trunk without running backwards. -/
  | timeCorrection (dt : Nat)
  /-- FREQ_SET (R514): The FREQ_SET command sets the frequency code of one core, a site or every site. -/
  | freqSet (o : Origin) (arg : Nat)
  /-- TILE_RESET (R512): The TILE_RESET command of CLK runs a tile reset of one site. -/
  | tileReset (o : Origin) (arg : Nat)
  /-- CLK_CLEAR_COUNTS (R514): The CLK_CLEAR_COUNTS command clears CLK_CNT_*. -/
  | clkClearCounts (o : Origin) (arg : Nat)
  /-- UNDERVOLTAGE_WARNING (R518): The bus below 42 V for 50 µs raises PWR_UNDERVOLT. -/
  | undervoltageWarning (a b bus : Nat)
  /-- BROWN_OUT (R518): The bus below 40 V for 50 µs enters brown-out, where the current limit governs. -/
  | brownOut (a b bus : Nat)
  /-- PAIR_LOST (R518): One blade pair low for 5 µs brings in the single-pair current limit and raises PWR_pair_lost. -/
  | pairLost (pair a b bus : Nat)
  /-- OVERVOLTAGE_WARNING (R518): Either pair above 58 V for 50 µs raises PWR_OVERVOLT. -/
  | overvoltageWarning (a b bus : Nat)
  /-- PAIR_OVERVOLTAGE (R518): A pair above 62 V for 1 µs opens its input stage and is treated as lost. -/
  | pairOvervoltage (pair a b bus : Nat)
  /-- INPUT_CONDITION_RELEASE (R518): An input condition other than power-fail clears once its release condition has held for 1 ms. -/
  | inputConditionRelease (cond a b bus : Nat)
  /-- POWER_FAIL (R533): Power-fail declared after 5 µs runs the unstoppable power-loss sequence up to the flash save and PWRGD low. -/
  | powerFail (a b bus : Nat) (ok : Bool)
  /-- PWR_EN_LOW (R697): PWR_EN low for 10 µs runs the power-loss sequence with cause 1, or turns the rails off without a save before Xazara runs. -/
  | pwrEnLow (ok : Bool)
  /-- POWER_GOVERNOR_TICK (R526): Every 100 µs, the trunk recomputes P_lim and lowers or raises the power frequency cap. -/
  | powerGovernorTick (a b bus avg : Nat) (tele : List (Nat × Nat × Nat × Nat))
  /-- FAST_CUT (R527): A 10 µs power sample above 8,600 W, a sustained excess, or a pair loss under load sets the cap to code 0 at once. -/
  | fastCut (sample : Nat)
  /-- PAIR_OVERCURRENT (R540): A pair above 120 A for 10 ms raises PWR_overcurrent. -/
  | pairOvercurrent (ia ib : Nat)
  /-- STAGE_FAULT (R530): A carrier stage shuts down, and its four sites lose all power and are fenced. -/
  | stageFault (stage cause : Nat)
  /-- RAIL_FAULT (R531): A root plate rail out of tolerance for 1 µs turns off its domain and every domain nested in it. -/
  | railFault (site rail c mv : Nat)
  /-- TELEMETRY_LOSS (R529): A site whose root plate telemetry has not reported for 100 µs has its cores held at code 0. -/
  | telemetryLoss (site : Nat)
  /-- STAGE_RESTART (R539): The STAGE_RESTART command soft-starts a stage that has shut down. -/
  | stageRestart (o : Origin) (arg : Nat)
  /-- SAVE_RELEASE (R539): The SAVE_RELEASE command erases the slot of the found save record. -/
  | saveRelease (o : Origin) (arg : Nat)
  /-- PWR_CLEAR_COUNTS (R539): The PWR_CLEAR_COUNTS command clears PWR_CNT_* and peak_w. -/
  | pwrClearCounts (o : Origin) (arg : Nat)
  /-- CORES_APPLY (R539): The CORES_APPLY command switches the core domains of a site to TPWR_CORE_REQ. -/
  | coresApply (o : Origin) (site arg : Nat)
  /-- DOM_SET (R539): The DOM_SET command switches a site's tile-common and memory domains. -/
  | domSet (o : Origin) (site arg : Nat)
  /-- TPWR_CLEAR_COUNTS (R539): The TPWR_CLEAR_COUNTS command clears TPWR_CNT_*. -/
  | tpwrClearCounts (o : Origin) (site arg : Nat)
  /-- INPUT_POWER_APPLIED (R689): 50 V appears at the blades and the hold-up capacitors pre-charge. -/
  | inputPowerApplied
  /-- COLD_START (R542): PWR_EN high with 50 V held for 5 ms starts the always-on rails, the seed ROM, image verification and Xazara. -/
  | coldStart
  /-- RESET_N_ASSERT (R510): RESET_N low begins and holds a chip reset. -/
  | resetNAssert
  /-- RESET_N_RELEASE (R698): RESET_N high ends a chip reset, and bring-up runs again. -/
  | resetNRelease
  /-- PERST_N_ASSERT (R543): PERST_N low holds the sites and the host interface in chip reset. -/
  | perstNAssert
  /-- PERST_N_RELEASE (R542): PERST_N high after the minimum time lets the host link train and the tile waves begin. -/
  | perstNRelease
  /-- TILE_WAVE (R547): A wave of up to 8 sites begins once the previous wave has trained and no thermal hold applies, and runs each site's bring-up steps. -/
  | tileWave (site : Nat) (bad : List Nat) (fail : Option Nat)
  /-- TILE_STEP_TIMEOUT (R548): A bring-up step that exceeds its limit raises TILE_step_timeout and fails the site. -/
  | tileStepTimeout (site : Nat)
  /-- THERMAL_HOLD_RELEASE (R552): A wave held for heat or flow begins once the condition has cleared for 10 ms. -/
  | thermalHoldRelease
  /-- BOOT_WAVE_STALL (R552): A thermal hold longer than 10 s raises BOOT_wave_stall. -/
  | bootWaveStall
  /-- SETTINGS_SAVE (R573): The SETTINGS_SAVE command writes every full-rate channel's training record. -/
  | settingsSave (o : Origin) (arg : Nat)
  /-- SETTINGS_ERASE (R573): The SETTINGS_ERASE command erases every saved training record. -/
  | settingsErase (o : Origin) (arg : Nat)
  /-- LIC_INSTALL (R564): The LIC_INSTALL command checks a staged licence blob in order and stores it as pending, or refuses it. -/
  | licInstall (o : Origin) (arg : Nat)
  /-- LIC_CANCEL (R575): The LIC_CANCEL command deletes the pending licence. -/
  | licCancel (o : Origin) (arg : Nat)
  /-- LIC_STAGE_CLEAR (R575): The LIC_STAGE_CLEAR command zeroes the staging registers. -/
  | licStageClear (o : Origin) (arg : Nat)
  /-- SCRUB_GRANULE (R588): Every FUS_SCRUB_INT, a channel's scrubber reads the next granule, writes back corrections and poisons uncorrectable codewords. -/
  | scrubGranule (core chan : Nat) (e1 e2 : List (Nat × Nat)) (bad : List Nat)
  /-- ROW_REMAP (R595): A triggered row is copied to a field spare and its remap entry is set, or the channel's repair is exhausted. -/
  | rowRemap (core chan : Nat) (e1 e2 : List (Nat × Nat))
  /-- TILE_RETIREMENT (R600): A site is fenced, powered down to RETIRED, fused as retired, reported from the LPT and, if allowed, replaced by coppice. -/
  | tileRetirement (ok : Bool)
  /-- COPPICE_PROMOTION (R602): The nearest dormant site is promoted against the allowance and brought up alone with full training. -/
  | coppicePromotion
  /-- RETIRE (R605): The RETIRE command retires an enabled site. -/
  | retire (o : Origin) (arg : Nat)
  /-- COPPICE (R605): The COPPICE command promotes a named or chosen dormant site. -/
  | coppice (o : Origin) (arg : Nat)
  /-- REMAP_ROW (R605): The REMAP_ROW command remaps one row of the selected channel. -/
  | remapRow (o : Origin) (arg : Nat)
  /-- STEER_WIRE (R605): The STEER_WIRE command steers one wire of the selected channel onto a spare. -/
  | steerWire (o : Origin) (arg : Nat)
  /-- FUS_CLEAR_COUNTS (R605): The FUS_CLEAR_COUNTS command clears FUS_CNT_*. -/
  | fusClearCounts (o : Origin) (arg : Nat)
  /-- SENSOR_SAMPLE (R611): A die sensor is sampled at its band's rate, checked for breakage and disagreement, and its effective reading drives bands, halts and trips. -/
  | sensorSample (site n : Nat) (mc : Int)
  /-- HALT_RELEASE (R618): A halt ends once both readings have stayed below 97 °C and 105 °C for 10 ms. -/
  | haltRelease (site q : Nat)
  /-- COOLANT_SAMPLE (R610): The coolant thermistors are read at 1 kHz, averaged and checked for breakage, and the inlet limit is tested. -/
  | coolantSample (i : Nat) (cc : Int) (opened : Bool)
  /-- LOGIC_CAP_TICK (R617): Every 100 µs, each quadrant's logic cap code is set from its logic reading or prediction. -/
  | logicCapTick (site : Nat)
  /-- CANOPY_MODEL_TICK (R624): Every 100 µs, the canopy model advances, predicts at the horizon and adapts its resistances. -/
  | canopyModelTick (site : Nat)
  /-- FLOW_ESTIMATE (R626): Every 10 ms, the coolant capacity flow is estimated and the flow warning and flow low conditions are evaluated. -/
  | flowEstimate (ph : Nat)
  /-- FLOW_CAP_TICK (R627): While flow is low, every 100 µs the flow cap follows the step rule against P_flow. -/
  | flowCapTick
  /-- SUDDEN_STOP_TEST (R629): Every 1 ms, a jump in ΔT together with a predicted trip declares flow lost and halts every quadrant. -/
  | suddenStopTest
  /-- FLOW_AUTO_RESUME (R630): With auto_resume set, flow-lost ends once flow and temperatures have held for 1 s. -/
  | flowAutoResume
  /-- RING_COUNT_TICK (R632): Each second, the rainflow counter takes each site's highest logic reading and bins its thermal cycles. -/
  | ringCountTick
  /-- RING_SAVE_TIMER (R632): Every 60 s, the ring counts are saved to flash as an A/B record. -/
  | ringSaveTimer (ok : Bool)
  /-- FLOW_RESUME (R634): The FLOW_RESUME command ends flow-lost when R630 is met. -/
  | flowResume (o : Origin) (arg : Nat)
  /-- RING_SAVE (R634): The RING_SAVE command saves the ring counts now. -/
  | ringSave (o : Origin) (arg : Nat)
  /-- MODEL_RESET (R634): The MODEL_RESET command returns every adapted coefficient to its starting value. -/
  | modelReset (o : Origin) (arg : Nat)
  /-- THM_CLEAR_COUNTS (R634): The THM_CLEAR_COUNTS command clears THM_CNT_*. -/
  | thmClearCounts (o : Origin) (arg : Nat)
  /-- LEDGER_SNAPSHOT (R650): At each whole millisecond, every reporting unit freezes its ledger terms and LDG and LDGD check every invariant. -/
  | ledgerSnapshot (late : List (Nat × Nat))
  /-- LEDGER_SNAP_TIMEOUT (R652): A snapshot not delivered within 100 µs raises _snap_timeout, and that ledger is not checked for the millisecond. -/
  | ledgerSnapTimeout (lp lid : Nat)
  /-- TRAP_SERVICE (R648): Xazara serves an unserved trap entry and raises FAULT_TRAPPED. -/
  | trapService
  /-- FIRST_FAULT_CLEAR (R645): Writing 1 to the valid bit of TFLT_FIRST or DFLT_FIRST clears the latch, overflow and count. -/
  | firstFaultClear (o : Origin) (lp : Nat)
  /-- TRAP_CLEAR (R656): The TRAP_CLEAR command empties the trap log. -/
  | trapClear (o : Origin) (arg : Nat)
  /-- LDG_CLEAR_COUNTS (R656): The LDG_CLEAR_COUNTS command clears the mismatch and reconciliation counts. -/
  | ldgClearCounts (o : Origin) (lp arg : Nat)
  /-- IMAGE_WRITE (R664): The IMAGE_WRITE command verifies a staged Xazara image, programs the idle slot and records it as newest. -/
  | imageWrite (o : Origin) (arg : Nat)
  /-- SVN_COMMIT (R666): The SVN_COMMIT command burns the minimum security version up to that of the running image. -/
  | svnCommit (o : Origin) (arg : Nat)
  /-- BCAST_SAP (R673): The BCAST_SAP command broadcasts a sap micro-program to the targeted units with repair, prepare and activate phases. -/
  | bcastSap (o : Origin) (arg : Nat)
  /-- BCAST_ABORT (R684): The BCAST_ABORT command sends ABORT to the receivers of the broadcast. -/
  | bcastAbort (o : Origin) (arg : Nat)
  /-- FWU_CLEAR_COUNTS (R684): The FWU_CLEAR_COUNTS command clears FWU_CNT_*. -/
  | fwuClearCounts (o : Origin) (arg : Nat)
  /-- BCST_CLEAR_COUNTS (R684): The BCST_CLEAR_COUNTS command clears BCST_CNT_*. -/
  | bcstClearCounts (o : Origin) (site arg : Nat)
  /-- MGT_CLEAR_COUNTS (R684): The MGT_CLEAR_COUNTS command clears MGT_CNT_*. -/
  | mgtClearCounts (o : Origin) (arg : Nat)
  /-- CHUNK (R669): A broadcast CHUNK message is checked and staged by a target receiver. -/
  | chunk (site chunk flip : Nat)
  /-- REDUCE (R669): A REDUCE message from the north is merged with the receiver's own missing set and sent south. -/
  | reduce (site : Nat)
  /-- REDUCE_TIMEOUT (R669): A receiver whose north REDUCE has not arrived within 20 µs sends without it. -/
  | reduceTimeout (site : Nat)
  /-- BROADCAST_ROUND_TIMEOUT (R670): A broadcast round or reply ends at FWU_BC_TIMEOUT, and sites still missing chunks are fenced for the broadcast. -/
  | broadcastRoundTimeout
  /-- PREPARE (R671): A PREPARE message makes each complete receiver check its digest and answer. -/
  | prepare (site : Nat)
  /-- CONFIRM (R671): A CONFIRM reply tells the trunk that a receiver's digest matches. -/
  | confirm (site : Nat)
  /-- DENY (R671): A DENY reply fences its receiver for the broadcast. -/
  | deny (site : Nat)
  /-- ACTIVATE (R674): An ACTIVATE message makes each confirmed receiver load its targets from staging. -/
  | activate (site : Nat)
  /-- ABORT (R671): A broadcast ABORT message makes receivers discard the broadcast before ACTIVATE. -/
  | bcAbort (site : Nat)
  /-- MCTP_CONTROL (R677): An MCTP control message is handled by the endpoint on its binding. -/
  | mctpControl (bnd mc mcd : Nat)
  /-- GET_TID (R678): The PLDM command GetTID is answered. -/
  | getTid (bnd : Nat)
  /-- SET_TID (R678): The PLDM command SetTID sets the terminus ID. -/
  | setTid (bnd tid : Nat)
  /-- GET_PLDM_VERSION (R678): The PLDM command GetPLDMVersion is answered. -/
  | getPldmVersion (bnd typ : Nat)
  /-- GET_PLDM_TYPES (R678): The PLDM command GetPLDMTypes returns the supported types. -/
  | getPldmTypes (bnd : Nat)
  /-- GET_PLDM_COMMANDS (R678): The PLDM command GetPLDMCommands returns the supported commands. -/
  | getPldmCommands (bnd typ : Nat)
  /-- GET_SENSOR_READING (R679): The PLDM command GetSensorReading returns a numeric sensor. -/
  | getSensorReading (bnd sid : Nat)
  /-- GET_STATE_SENSOR_READINGS (R679): The PLDM command GetStateSensorReadings returns the cooling or service state. -/
  | getStateSensorReadings (bnd sid : Nat)
  /-- SET_NUMERIC_EFFECTER_VALUE (R679): The PLDM command SetNumericEffecterValue sets PWR_CAP. -/
  | setNumericEffecterValue (bnd sid val : Nat)
  /-- GET_NUMERIC_EFFECTER_VALUE (R679): The PLDM command GetNumericEffecterValue returns PWR_CAP. -/
  | getNumericEffecterValue (bnd sid : Nat)
  /-- GET_PDR_REPOSITORY_INFO (R678): The PLDM command GetPDRRepositoryInfo is answered. -/
  | getPdrRepositoryInfo (bnd : Nat)
  /-- GET_PDR (R679): The PLDM command GetPDR returns a PDR. -/
  | getPdr (bnd hdl : Nat)
  /-- POLL_FOR_PLATFORM_EVENT_MESSAGE (R679): The PLDM command PollForPlatformEventMessage returns a queued platform event. -/
  | pollForPlatformEventMessage (bnd ack : Nat)
  /-- EVENT_MESSAGE_BUFFER_SIZE (R678): The PLDM command EventMessageBufferSize is answered. -/
  | eventMessageBufferSize (bnd : Nat)
  /-- SET_EVENT_RECEIVER (R678): The PLDM command SetEventReceiver names the event receiver. -/
  | setEventReceiver (bnd eid : Nat)
  /-- GET_FRU_RECORD_TABLE_METADATA (R680): The PLDM command GetFRURecordTableMetadata is answered. -/
  | getFruRecordTableMetadata (bnd : Nat)
  /-- GET_FRU_RECORD_TABLE (R680): The PLDM command GetFRURecordTable returns the FRU records. -/
  | getFruRecordTable (bnd : Nat)
  /-- QUERY_DEVICE_IDENTIFIERS (R678): The PLDM command QueryDeviceIdentifiers is answered. -/
  | queryDeviceIdentifiers (bnd : Nat)
  /-- GET_FIRMWARE_PARAMETERS (R681): The PLDM command GetFirmwareParameters reports the two components. -/
  | getFirmwareParameters (bnd : Nat)
  /-- REQUEST_UPDATE (R681): The PLDM command RequestUpdate enters update mode, or is refused while IMAGE_WRITE is BUSY. -/
  | requestUpdate (bnd : Nat)
  /-- PASS_COMPONENT_TABLE (R681): The PLDM command PassComponentTable is answered. -/
  | passComponentTable (bnd comp : Nat) (last : Bool)
  /-- UPDATE_COMPONENT (R681): The PLDM command UpdateComponent begins the transfer of one component. -/
  | updateComponent (bnd comp fsz : Nat)
  /-- REQUEST_FIRMWARE_DATA (R681): A response to the LQ1's RequestFirmwareData delivers up to 1,024 B of the component. -/
  | requestFirmwareData (bnd blen bytes : Nat)
  /-- ACTIVATE_FIRMWARE (R681): The PLDM command ActivateFirmware answers with a pending activation. -/
  | activateFirmware (bnd : Nat) (self : Bool)
  /-- GET_STATUS (R678): The PLDM command GetStatus reports the update state. -/
  | getStatus (bnd : Nat)
  /-- CANCEL_UPDATE_COMPONENT (R678): The PLDM command CancelUpdateComponent cancels one component's update. -/
  | cancelUpdateComponent (bnd : Nat)
  /-- CANCEL_UPDATE (R678): The PLDM command CancelUpdate leaves update mode. -/
  | cancelUpdate (bnd : Nat)
  /-- PLDM_UNSUPPORTED (R678): Any other PLDM command is answered with ERROR_UNSUPPORTED_PLDM_CMD. -/
  | pldmUnsupported (bnd typ pcmd : Nat)
  /-- PLDM_UPDATE_TIMEOUT (R681): An update agent that makes no request for 120 s ends the update. -/
  | pldmUpdateTimeout
  /-- VDM_REG_RD (R682): A vendor-defined REG_RD request reads up to 16 registers with origin class 1. -/
  | vdmRegRd (bnd iana cnt rsv off : Nat)
  /-- VDM_REG_WR (R682): A vendor-defined REG_WR request writes registers with origin class 1 while wr_in is 1. -/
  | vdmRegWr (bnd iana cnt rsv off bytes : Nat)
  /-- MGT_BUS_TIMEOUT (R685): SMBus or I3C held low for 35 ms raises MGT_bus and resets the binding. -/
  | mgtBusTimeout (bnd : Nat) (clock : Bool)
  /-- JTAG_TEST_ACCESS (R32): A JTAG access reaches boundary scan of MZ and the trunk's test controller only. -/
  | jtagTestAccess
  /-- DOE_DISCOVERY (R460): A DOE Discovery request over the DOE mailbox is answered with the supported data objects. -/
  | doeDiscovery (di : Nat)
  /-- CODEWORD_LOCK (R442): All 8 lanes of a bough port reach codeword lock after training, and each end sends its RECON offer. -/
  | codewordLock (port : Nat)
  /-- DRET_NOT_ACCEPTED (R249): A DRET not accepted by its home within the issuing tile's DSP_TIMEOUT is abandoned and raises DSP_ret_lost on the issuing tile. -/
  | dretNotAccepted (core pos : Nat)
  /-- STAGING_FETCH_TIMEOUT (R182): A staging fetch of the array load path that exceeds MXU_FEED_TIMEOUT raises MXU_arr_load_path and aborts passes in both halves. -/
  | stagingFetchTimeout (core : Nat)
  /-- EYE_MARGIN_LOW (R290): The continuously measured worst eye of a channel wire falls below 0.40 UI, and with rt_auto set a lane-group retraining starts. -/
  | eyeMarginLow (core chan wire eye : Nat)
  /-- OPTICAL_ENGINE_OUT_OF_RANGE (R457): A bough port's laser bias or optical engine temperature goes out of range, BGH_optics is raised and the engine is shut down. -/
  | opticalEngineOutOfRange (port : Nat)
  /-- EXPRESS_LASER_OUT_OF_RANGE (R457): A laser or receiver of a site's express port goes out of range on a lane and XPR_laser is raised. -/
  | expressLaserOutOfRange (site lane : Nat)
  /-- ECRC_FAILURE (R490): A received TLP that fails ECRC is discarded and HIF_ecrc is raised. -/
  | ecrcFailure
  /-- PCIE_LINK_UP (R483): The host link comes up again after a link-down, HIF_LINK is updated and pending MSI-X messages may be sent. -/
  | pcieLinkUp (rate width : Nat) (fm : Bool) (top : Nat)
  /-- REFCLK_RETURN (R701): REFCLK becomes present again, CLK_STATUS.refclk_ok sets, and the host link can train. -/
  | refclkReturn
  /-- PERST_N_HOLDOFF_END (R694): A PERST_N released early is treated as low until 100 ms after PWRGD, and the release then takes effect. -/
  | perstNHoldoffEnd
  /-- CARRIER_BUS_DISCHARGED (R691): The carrier bus falls below 5 V after 50 V is removed, and a latched THERMTRIP_N is released. -/
  | carrierBusDischarged
  /-- ACC_INSTRUCTION_COMPLETE (R155): An ACCZ, ACCLD or ACCST completes when its last row or byte is written, releasing rows for waiting passes and counting for WAITENG. -/
  | accInstructionComplete (core half : Nat)
  /-- MVST_COMPLETE (R206): An MVST or MVZ completes when its last byte is written or its bank is zeroed, letting later instructions on that bank start. -/
  | mvstComplete (core : Nat)
deriving DecidableEq, Repr

end Sys2Proof
end

