-- ==== Sys2Proof/Decode.lean ====
section
/-! DEFINITION. Sys2Proof/Decode.lean: the commands that words of spec/opcode_table.json spell. No row of the table gives
bits: a command is an event, not a word, so no word spells one (log 1). -/
namespace Sys2Proof

/-- The command that the word `w` of `nbits` bits spells: none, for every row's bits are not given. -/
def decodeTableWord (_nbits _w : Nat) : Option Instr := none

end Sys2Proof
end

