-- ==== Sys2Proof/Config.lean ====
section
/-! DEFINITION. Sys2Proof/Config.lean: what the spec leaves open. Every constant here is opaque: it has no body that Lean
could evaluate, so a proof that uses one holds for every value. The assumption log has a row for each. -/
namespace Sys2Proof.Config

/-- A fresh value the spec does not fix, by the number the machine's counter of such values gives it (log 3). -/
opaque freeNat : Nat → Nat

/-- Which of the allowed results an approximated function gives, by function and input; and the whole result where the spec
states none (log 13). -/
opaque approx : Nat → Nat → Nat

/-- The 128-bit key that the trunk's random source gives a site's prefix unit at its n-th draw (R365, log 50). -/
opaque drawnKey : Nat → Nat → Nat

/-- Does the ECDSA P-384 signature of a licence blob, by its length and bytes, verify against the licence public key? (R562,
log 31) -/
opaque licenceSigned : Nat → Nat → Bool

/-- The SHA-384 digests of what the state does not hold the bytes of, by what is measured and two numbers that name it; and the
certificate chain of slot 0 (R487, R488, log 61). -/
opaque digest : Nat → Nat → Nat → Nat

/-- Does the ECDSA P-384 signature of an image, by its length and bytes, verify against the firmware public key? (R662, log 64) -/
opaque imageSigned : Nat → Nat → Bool

/-- The number of chunks of the tile part of an image, by its version (R662, log 65). -/
opaque tilePart : Nat → Nat

end Sys2Proof.Config
end

