-- ==== Sys2Proof/Machine/Num.lean ====
section
/-! DEFINITION. Sys2Proof/Machine/Num.lean: the number formats of every engine: exact values, round-to-nearest-even, the
encodings of R209 to R213, block scales, and the arithmetic policies of R139. -/
namespace Sys2Proof

/-- An exact value: a NaN, an infinity, or (-1)^neg * m * 2^e. Zero keeps its sign. -/
inductive Num where
  | nan
  | inf (neg : Bool)
  | fin (neg : Bool) (m : Nat) (e : Int)
deriving DecidableEq, Repr

namespace Num

/-- Positive zero. -/
abbrev zero : Num := .fin false 0 0
/-- An integer. -/
def ofInt (i : Int) : Num := .fin (decide (i < 0)) i.natAbs 0
/-- A power of two. -/
def pow2 (e : Int) : Num := .fin false 1 e
/-- One. -/
abbrev one : Num := .fin false 1 0

/-- The signed significand at exponent `q`, which is at most `e`. -/
def align (n : Bool) (m : Nat) (e q : Int) : Int :=
  let x : Int := ((m * 2 ^ (e - q).toNat : Nat) : Int)
  if n then -x else x

/-- The exact sum. -/
def add (x y : Num) : Num :=
  match x, y with
  | .nan, _ => .nan
  | _, .nan => .nan
  | .inf a, .inf b => if a = b then .inf a else .nan
  | .inf a, .fin _ _ _ => .inf a
  | .fin _ _ _, .inf b => .inf b
  | .fin a m e, .fin b n f =>
    let q := min e f
    let z := align a m e q + align b n f q
    if z = 0 then .fin (a && b && m = 0) 0 q else .fin (decide (z < 0)) z.natAbs q

/-- The exact product. -/
def mul (x y : Num) : Num :=
  match x, y with
  | .nan, _ => .nan
  | _, .nan => .nan
  | .inf a, .inf b => .inf (a != b)
  | .inf a, .fin b n _ => if n = 0 then .nan else .inf (a != b)
  | .fin a m _, .inf b => if m = 0 then .nan else .inf (a != b)
  | .fin a m e, .fin b n f => .fin (a != b) (m * n) (e + f)

/-- Minus. -/
def neg : Num → Num
  | .nan => .nan
  | .inf a => .inf (!a)
  | .fin a m e => .fin (!a) m e
/-- Magnitude. -/
def abs : Num → Num
  | .nan => .nan
  | .inf _ => .inf false
  | .fin _ m e => .fin false m e
/-- Is it zero of either sign? -/
def isZero : Num → Bool
  | .fin _ m _ => m = 0
  | _ => false
/-- Is it a NaN? -/
def isNan : Num → Bool
  | .nan => true
  | _ => false
/-- Is its sign negative? -/
def isNeg : Num → Bool
  | .nan => false
  | .inf n => n
  | .fin n _ _ => n
/-- `x < y`; false with a NaN. -/
def lt (x y : Num) : Bool :=
  match x, y with
  | .nan, _ => false
  | _, .nan => false
  | .inf a, .inf b => a && !b
  | .inf a, .fin _ _ _ => a
  | .fin _ _ _, .inf b => !b
  | .fin a m e, .fin b n f => decide (align a m e (min e f) < align b n f (min e f))

/-- The exponent of the leading bit of a magnitude, of a nonzero significand. -/
def topExp (m : Nat) (e : Int) : Int := (Nat.log2 m : Int) + e

/-- `m / 2^k` rounded to nearest, ties to even. -/
def rneShift (m k : Nat) : Nat :=
  let h := m / 2 ^ k
  let r := m % 2 ^ k
  if k = 0 then m else if 2 * r > 2 ^ k ∨ (2 * r = 2 ^ k ∧ h % 2 = 1) then h + 1 else h
/-- `m * 2^e` in units of `2^q`, rounded to nearest even. -/
def rneTo (m : Nat) (e q : Int) : Nat := if q ≤ e then m * 2 ^ (e - q).toNat else rneShift m (q - e).toNat

/-- Rounded to `p` significant bits with an unbounded exponent (R137). -/
def sig (p : Nat) (x : Num) : Num :=
  match x with
  | .fin n m e => if m = 0 ∨ Nat.log2 m < p then x else
      let q := e + ((Nat.log2 m + 1 - p : Nat) : Int)
      .fin n (rneTo m e q) q
  | x => x

/-- The quotient with far more bits than any format keeps, its last bit sticky, so that one rounding of it is right. -/
def divWide (x y : Num) : Num :=
  match x, y with
  | .nan, _ => .nan
  | _, .nan => .nan
  | .inf _, .inf _ => .nan
  | .inf a, .fin b _ _ => .inf (a != b)
  | .fin a _ _, .inf b => .fin (a != b) 0 0
  | .fin a m e, .fin b n f =>
    if n = 0 then (if m = 0 then .nan else .inf (a != b))
    else
      let k := 64 + Nat.log2 n
      let w := m * 2 ^ k
      .fin (a != b) (2 * (w / n) + b2n (w % n ≠ 0)) (e - f - k - 1)

/-- The larger of two values as an order of numbers, a NaN giving a NaN. -/
def max (x y : Num) : Num := if x.isNan || y.isNan then .nan else if x.lt y then y else x
/-- The smaller. -/
def min (x y : Num) : Num := if x.isNan || y.isNan then .nan else if y.lt x then y else x
/-- The exact sum of a list. -/
def sum (l : List Num) : Num := l.foldl add zero

end Num

/-! ## Formats (R209) -/

/-- A floating-point element layout: exponent bits, mantissa bits, bias, and its special values: 0 none, 1 the one NaN of
E4M3, 2 infinities and NaNs. -/
structure Fmt where
  eb : Nat
  mb : Nat
  bias : Int
  spec : Nat
deriving DecidableEq, Repr

namespace Fmt
def f32 : Fmt := ⟨8, 23, 127, 2⟩
def f64 : Fmt := ⟨11, 52, 1023, 2⟩
def bf16 : Fmt := ⟨8, 7, 127, 2⟩
def f16 : Fmt := ⟨5, 10, 15, 2⟩
def e4m3 : Fmt := ⟨4, 3, 7, 1⟩
def e5m2 : Fmt := ⟨5, 2, 15, 2⟩
def e3m2 : Fmt := ⟨3, 2, 3, 0⟩
def e2m3 : Fmt := ⟨2, 3, 1, 0⟩
def e2m1 : Fmt := ⟨2, 1, 1, 0⟩

/-- The value that a bit pattern encodes. -/
def decode (f : Fmt) (v : Nat) : Num :=
  let n := bit v (f.eb + f.mb)
  let x := v / 2 ^ f.mb % 2 ^ f.eb
  let m := v % 2 ^ f.mb
  if f.spec = 2 ∧ x = 2 ^ f.eb - 1 then (if m = 0 then .inf n else .nan)
  else if f.spec = 1 ∧ v % 2 ^ (f.eb + f.mb) = 2 ^ (f.eb + f.mb) - 1 then .nan
  else if x = 0 then .fin n m (1 - f.bias - f.mb)
  else .fin n (2 ^ f.mb + m) (x - f.bias - f.mb)

/-- The pattern of the largest finite magnitude. -/
def maxPat (f : Fmt) : Nat :=
  match f.spec with
  | 2 => (2 ^ f.eb - 1) * 2 ^ f.mb - 1
  | 1 => 2 ^ (f.eb + f.mb) - 2
  | _ => 2 ^ (f.eb + f.mb) - 1
/-- The canonical NaN (R212); 0 where the format has none. -/
def nanPat (f : Fmt) : Nat :=
  match f.spec with
  | 2 => (2 ^ f.eb - 1) * 2 ^ f.mb + 2 ^ (f.mb - 1)
  | 1 => 2 ^ (f.eb + f.mb) - 1
  | _ => 0
/-- The pattern of infinity. -/
def infPat (f : Fmt) : Nat := (2 ^ f.eb - 1) * 2 ^ f.mb
/-- A magnitude rounded to nearest even, as a pattern that may pass the largest finite one. -/
def magPat (f : Fmt) (m : Nat) (e : Int) : Nat :=
  if m = 0 then 0
  else
    let q0 := 1 - f.bias - f.mb
    let q := max (Num.topExp m e - f.mb) q0
    (q - q0).toNat * 2 ^ f.mb + Num.rneTo m e q
/-- A sign in front of a magnitude. -/
def signed (f : Fmt) (n : Bool) (p : Nat) : Nat := b2n n * 2 ^ (f.eb + f.mb) + p

/-- Does a finite value round above the largest finite one? -/
def overflows (f : Fmt) (x : Num) : Bool :=
  match x with
  | .fin _ m e => f.magPat m e > f.maxPat
  | _ => false

/-- Conversion with RNE and the saturation of R212. -/
def encode (f : Fmt) (x : Num) : Nat :=
  match x with
  | .nan => f.nanPat
  | .inf n => f.signed n (if f.spec = 2 then f.infPat else f.maxPat)
  | .fin n m e => f.signed n (min (f.magPat m e) f.maxPat)
/-- Bits of an element. -/
def width (f : Fmt) : Nat := 1 + f.eb + f.mb
end Fmt

/-- FP32 value of a 32-bit pattern. -/
def f32 (v : Nat) : Num := Fmt.f32.decode (v % 2 ^ 32)
/-- FP32 pattern of a value, saturating (R212). -/
def toF32 (x : Num) : Nat := Fmt.f32.encode x

/-! ## Format codes -/

/-- The element layout of a floating-point code. -/
def elemFmt : Nat → Fmt
  | 0 => .f32 | 1 => .bf16 | 2 => .f16 | 3 | 5 | 12 => .e4m3 | 4 | 6 => .e5m2 | 7 => .e3m2 | 8 => .e2m3 | _ => .e2m1
/-- INT8, INT4 and KV4 INT4. -/
def isInt (c : Nat) : Bool := c = 0xA || c = 0xB || c = 0xE
/-- Bits of an element. -/
def elemBits (c : Nat) : Nat := if c = 0xA then 8 else if c = 0xB ∨ c = 0xE then 4 else (elemFmt c).width
/-- Do its elements carry block scales? -/
def scaled (c : Nat) : Bool := decide (5 ≤ c ∧ c ≤ 14)
/-- Is the scale an E4M3 value rather than E8M0? (R210) -/
def scaleE4m3 (c : Nat) : Bool := c = 0xA || c = 0xB || c = 0xD || c = 0xE
/-- The value of an element, its scale apart. -/
def elemVal (c v : Nat) : Num := if isInt c then Num.ofInt (sext (elemBits c) v) else (elemFmt c).decode v
/-- Element `i` of elements packed from the least significant bit up (R211). -/
def elemAt (c data i : Nat) : Num := elemVal c (data / 2 ^ (elemBits c * i) % 2 ^ elemBits c)
/-- An E8M0 scale. -/
def e8m0 (b : Nat) : Num := if b % 256 = 255 then .nan else .pow2 ((b % 256 : Nat) - 127)
/-- The scale byte of a format, 1 where it has none. -/
def scaleVal (c b : Nat) : Num := if !scaled c then .one else if scaleE4m3 c then Fmt.e4m3.decode (b % 256) else e8m0 b
/-- Byte `i` of data. -/
def byteAt (data i : Nat) : Nat := data / 256 ^ i % 256

/-- A result in an element of a format, scale apart: saturating, symmetric for integers; NaN of an integer is 0. -/
def elemEnc (c : Nat) (x : Num) : Nat :=
  if isInt c then
    let m : Nat := 2 ^ (elemBits c - 1) - 1
    match x with
    | .nan => 0
    | .inf n => wrap (elemBits c) (if n then -(m : Int) else m)
    | .fin n k e =>
      let r := min (Num.rneTo k e 0) m
      wrap (elemBits c) (if n then -(r : Int) else r)
  else (elemFmt c).encode x

/-! ## Block scales of outputs (R151, R308) -/

/-- The largest exponent of a block, an infinity counting as 128; none if every value is zero. -/
def blockExp (xs : List Num) : Option Int :=
  xs.foldl (fun b x =>
    let e : Option Int := match x with | .nan => none | .inf _ => some 128 | .fin _ m e => if m = 0 then none else some (Num.topExp m e)
    match b, e with
    | none, e => e
    | b, none => b
    | some p, some q => some (max p q)) none

/-- The E8M0 scale of a block: its largest exponent less the largest of the element format, NaN if it holds a NaN. -/
def mxScale (c : Nat) (xs : List Num) : Nat :=
  let top : Int := match c with | 5 | 3 | 12 => 8 | 6 | 4 => 15 | 7 => 4 | _ => 2
  if xs.any Num.isNan then 255
  else match blockExp xs with
    | none => 0
    | some e => (min (max (e - top + 127) 0) 254).toNat

/-- Pack elements of `b` bits from the least significant bit up. -/
def packBits (b : Nat) : List Nat → Nat
  | [] => 0
  | x :: xs => x % 2 ^ b + 2 ^ b * packBits b xs

/-- The part of a product more than 64 binary places below the group's largest is discarded (R136, R194). -/
def cut64 (l : List Num) : List Num :=
  let tops := l.filterMap (fun x => match x with | .fin _ m e => if m = 0 then none else some (Num.topExp m e) | _ => none)
  match tops with
  | [] => l
  | t :: ts =>
    let q := ts.foldl max t - 64
    l.map (fun x => match x with | .fin n m e => if q ≤ e then x else .fin n (m / 2 ^ (q - e).toNat) q | x => x)

/-! ## Arithmetic under a policy (R139) -/

/-- A value brought to FP32 under policy `exc` (0 IEEE, 1 SAT, 2 TRAP): its pattern, and whether that was an exception: an
overflow, or a NaN, which an invalid operation also gives. -/
def policy32 (exc : Nat) (x : Num) : Nat × Bool :=
  if x.isNan then (Fmt.f32.nanPat, true)
  else if Fmt.f32.overflows x then (if exc = 1 then toF32 x else Fmt.f32.signed x.isNeg Fmt.f32.infPat, true)
  else (toF32 x, false)

end Sys2Proof
end

