-- ==== Sys2Proof/Machine/Approx.lean ====
section
/-! DEFINITION. Sys2Proof/Machine/Approx.lean: the approximated functions (R242, R307, R309): each is some FP32 value within
the stated number of units in the last place of the true one, the same for the same input on every LQ1. Which one is open
(`Config.approx`, log 13); the true value is computed here to far more bits than FP32 holds. -/
namespace Sys2Proof
namespace Approx

/-- ln 2 in units of 2^-256. -/
def ln2 : Nat := 80260960185991308862233904206310070533990667611589946606122867505419956976172
/-- The square root of 2/pi in units of 2^-256. -/
def sqrt2Pi : Nat := 92388720265562225100004042351473451001048276763068025688572742865826802514525

/-- The series of exp from a term on: `n` the term's number, values in units of 2^-256. -/
def taylor (r : Nat) : Nat → Nat → Nat → Nat
  | 0, _, _ => 0
  | fuel + 1, n, t => t + taylor r fuel (n + 1) (t * r / 2 ^ 256 / (n + 1))

/-- exp, very precisely; far outside FP32's range a power of two that is as far outside. -/
def exp (x : Num) : Num :=
  match x with
  | .nan => .nan
  | .inf n => if n then .zero else .inf false
  | .fin n m e =>
    if m = 0 then .one
    else if Num.topExp m e > 10 then .fin false 1 (if n then -1100 else 1100)
    else
      let q : Nat := if -256 ≤ e then m * 2 ^ (e + 256).toNat else m / 2 ^ (-256 - e).toNat
      let v : Int := if n then -(q : Int) else q
      let k : Int := v / (ln2 : Int)
      .fin false (taylor (v - k * (ln2 : Int)).toNat 80 0 (2 ^ 256)) (k - 256)

/-- 1 / (1 + exp(-x)). -/
def sigmoid (x : Num) : Num := Num.divWide .one (Num.add .one (exp x.neg))
/-- tanh, through exp(2x). -/
def tanh (x : Num) : Num :=
  match x with
  | .inf n => .fin n 1 0
  | .fin _ 0 _ => x
  | _ =>
    let y := exp (x.mul (.pow2 1))
    (y.add (Num.neg .one)).divWide (y.add .one)
/-- GELU in its tanh form: x * sigmoid(2 * sqrt(2/pi) * (x + 0.044715 x^3)). -/
def gelu (x : Num) : Num :=
  match x with
  | .inf true => .fin true 0 0
  | _ =>
    let c := (Num.ofInt 44715).divWide (.ofInt 1000000)
    let y := (x.add (c.mul (x.mul (x.mul x)))).mul (.fin false sqrt2Pi (-255))
    x.mul (sigmoid y)
/-- x * sigmoid(x). -/
def silu (x : Num) : Num := match x with | .inf true => .fin true 0 0 | _ => x.mul (sigmoid x)

/-- The integer square root by bits, from bit `k` down. -/
def isqrt (n : Nat) : Nat → Nat → Nat
  | 0, r => r
  | k + 1, r => let c := r + 2 ^ k; isqrt n k (if c * c ≤ n then c else r)
/-- 1 / sqrt x of a positive value. -/
def rsqrt (x : Num) : Num :=
  match x with
  | .fin false m e =>
    let (m', e') := if e % 2 = 0 then (m, e) else (2 * m, e - 1)
    let w := m' * 2 ^ 256
    Num.divWide .one (.fin false (isqrt w (Nat.log2 w / 2 + 1) 0) (e' / 2 - 128))
  | x => x

/-- The FP32 pattern of a magnitude cut off, and whether nothing was cut. -/
def floorPat (m : Nat) (e : Int) : Nat × Bool :=
  if m = 0 then (0, true)
  else
    let q := max (Num.topExp m e - 23) (-149)
    let r := if q ≤ e then m * 2 ^ (e - q).toNat else m / 2 ^ (q - e).toNat
    ((q + 149).toNat * 2 ^ 23 + r, q ≤ e || m % 2 ^ (q - e).toNat = 0)

/-- A result within `n` units in the last place of `v`, saturating (R212): which, function `fn` of the input pattern decides. -/
def within (fn n input : Nat) (v : Num) : Nat :=
  match v with
  | .nan => Fmt.f32.nanPat
  | .inf s => Fmt.f32.signed s Fmt.f32.infPat
  | .fin s m e =>
    let (p, exact) := floorPat m e
    let lo := p - (if exact then n else n - 1)
    let hi := p + n
    Fmt.f32.signed s (min (lo + Config.approx fn input % (hi - lo + 1)) Fmt.f32.maxPat)

/-- A function's result where the spec states none: open, the same for the same input. -/
def unstated (fn input : Nat) : Nat := Config.approx fn input % 2 ^ 32

/-- exp of an FP32 pattern (1 ulp). -/
def exp32 (v : Nat) : Nat := within 5 1 v (exp (f32 v))
/-- 1/x (1 ulp); of zero it is unstated. -/
def recip32 (v : Nat) : Nat := if (f32 v).isZero then unstated 6 v else within 6 1 v (Num.divWide .one (f32 v))
/-- 1/sqrt x (1 ulp); of zero and negative values it is unstated. -/
def rsqrt32 (v : Nat) : Nat :=
  match f32 v with
  | .inf false => 0
  | .fin false m e => if m = 0 then unstated 7 v else within 7 1 v (rsqrt (.fin false m e))
  | .nan => Fmt.f32.nanPat
  | _ => unstated 7 v
/-- The functions of 2 ulp. -/
def gelu32 (v : Nat) : Nat := within 1 2 v (gelu (f32 v))
def silu32 (v : Nat) : Nat := within 2 2 v (silu (f32 v))
def sigmoid32 (v : Nat) : Nat := within 3 2 v (sigmoid (f32 v))
def tanh32 (v : Nat) : Nat := within 4 2 v (tanh (f32 v))

end Approx

/-! ## Values the spec does not state -/

/-- An element of a block under an E8M0 scale byte; under a NaN scale the element's bits are open. -/
def mxElem (c scale : Nat) (x : Num) : Nat :=
  if scale = 255 then Config.approx 9 (toF32 x) % 2 ^ elemBits c else elemEnc c (x.mul (.pow2 (127 - (scale : Int))))

namespace Num
/-- The larger; of zeros of two signs, the sign is open. -/
def zmax (x y : Num) : Num := if x.isZero && y.isZero && x.isNeg != y.isNeg then .fin (Config.approx 8 (b2n x.isNeg) % 2 = 1) 0 0 else x.max y
/-- The smaller; of zeros of two signs, the sign is open. -/
def zmin (x y : Num) : Num := if x.isZero && y.isZero && x.isNeg != y.isNeg then .fin (Config.approx 8 (2 + b2n x.isNeg) % 2 = 1) 0 0 else x.min y
end Num

/-! ## FP32 operations on patterns, RNE, saturating (R212, R213) -/

def add32 (a b : Nat) : Nat := toF32 ((f32 a).add (f32 b))
def sub32 (a b : Nat) : Nat := toF32 ((f32 a).add (f32 b).neg)
def mul32 (a b : Nat) : Nat := toF32 ((f32 a).mul (f32 b))
/-- Division; by zero and of two infinities the result follows the exact quotient's infinity or NaN. -/
def div32 (a b : Nat) : Nat := toF32 ((f32 a).divWide (f32 b))
/-- The sum of patterns from +0, rounding each sum. -/
def sum32 (l : List Nat) : Nat := l.foldl add32 0

end Sys2Proof
end

