-- ==== Sys2Proof/Machine/Pages.lean ====
section
/-! DEFINITION. Sys2Proof/Machine/Pages.lean: the page list of R44 to R46, the addresses of pages, and what each page
implements of the common header: PG_CAP, the states it uses, its fault sources with their default masks (R649) and the
reset value of PG_EVT_EN. -/
namespace Sys2Proof

/-- The kinds of page of R46. -/
inductive PType where
  | TILE | TPWR | TTHM | TFLT | RTR | XPR | DSP | KVM | PFX | LDG | BCST
  | CORE | MXU | SLC | SAP
  | TRK | HIF | EVQ | JNL | DFLT | PWR | THM | BOOT | LIC | IDN | FUS | MGT | CLK | TIM | FWU | LDGD | BGH
deriving DecidableEq, Repr

namespace Page

/-- BAR0 is 256 MiB (R44). -/
def bar0Size : Nat := 0x10000000
/-- Base of a site's 2 MiB (R44). -/
def siteBase (s : Nat) : Nat := s * 0x200000
/-- Base of the trunk pages (R44). -/
def trunkBase : Nat := 0x08000000
/-- Base of core `g`'s four pages, `g` its global core number (R45). -/
def coreBase (g : Nat) : Nat := (g / 64) * 0x200000 + 0x100000 + (g % 64) * 0x4000

/-- The eleven tile pages in address order. -/
def tileTypes : List PType := [.TILE, .TPWR, .TTHM, .TFLT, .RTR, .XPR, .DSP, .KVM, .PFX, .LDG, .BCST]
/-- The four core pages in address order. -/
def coreTypes : List PType := [.CORE, .MXU, .SLC, .SAP]
/-- The trunk pages in address order, without the bough ports. -/
def trunkTypes : List PType := [.TRK, .HIF, .EVQ, .JNL, .DFLT, .PWR, .THM, .BOOT, .LIC, .IDN, .FUS, .MGT, .CLK, .TIM, .FWU, .LDGD]

/-- Type code and, for a page within a site or core, its page offset number (R46). -/
def code : PType → Nat
  | .TILE => 0x0101 | .TPWR => 0x0102 | .TTHM => 0x0103 | .TFLT => 0x0104 | .RTR => 0x0105 | .XPR => 0x0106
  | .DSP => 0x0107 | .KVM => 0x0108 | .PFX => 0x0109 | .LDG => 0x010A | .BCST => 0x010B
  | .CORE => 0x0201 | .MXU => 0x0202 | .SLC => 0x0203 | .SAP => 0x0204
  | .TRK => 0x0301 | .HIF => 0x0302 | .EVQ => 0x0303 | .JNL => 0x0304 | .DFLT => 0x0305 | .PWR => 0x0306
  | .THM => 0x0307 | .BOOT => 0x0308 | .LIC => 0x0309 | .IDN => 0x030A | .FUS => 0x030B | .MGT => 0x030C
  | .CLK => 0x030D | .TIM => 0x030E | .FWU => 0x030F | .LDGD => 0x0310 | .BGH => 0x0311

/-- Position of a page within its site, core or trunk range. -/
def slotOf (t : PType) : Nat := code t % 256 - 1

/-- Base address of a tile page of site `s`. -/
def tile (t : PType) (s : Nat) : Nat := siteBase s + slotOf t * 0x1000
/-- Base address of a core page of global core `g`. -/
def core (t : PType) (g : Nat) : Nat := coreBase g + slotOf t * 0x1000
/-- Base address of a trunk page. -/
def trunk (t : PType) : Nat := trunkBase + slotOf t * 0x1000
/-- Base address of bough port `p`. -/
def bgh (p : Nat) : Nat := 0x08010000 + p * 0x1000

/-- A page as a place: its kind and its instance number. -/
structure Ref where
  t : PType
  inst : Nat
deriving DecidableEq, Repr

/-- The page that holds BAR0 offset `off`, if any (R44 to R46). -/
def ofOff (off : Nat) : Option Ref :=
  if off < trunkBase then
    let s := off / 0x200000
    let o := off % 0x200000
    if o < 0x100000 then (tileTypes[o / 0x1000]?).map (fun t => ⟨t, s⟩)
    else
      let c := (o - 0x100000) / 0x4000
      (coreTypes[(o % 0x4000) / 0x1000]?).map (fun t => ⟨t, s * 64 + c⟩)
  else if off < 0x08010000 then (trunkTypes[(off - trunkBase) / 0x1000]?).map (fun t => ⟨t, 0⟩)
  else if off < 0x08018000 then some ⟨.BGH, (off - 0x08010000) / 0x1000⟩
  else none

/-- Is it a tile page? -/
def isTile (t : PType) : Bool := code t / 256 == 1
/-- Is it a core page? -/
def isCore (t : PType) : Bool := code t / 256 == 2
/-- Is it a trunk page? -/
def isTrunk (t : PType) : Bool := code t / 256 == 3

/-- Base address of a page. -/
def base (r : Ref) : Nat :=
  if isTile r.t then tile r.t r.inst else if isCore r.t then core r.t r.inst
  else if r.t = .BGH then bgh r.inst else trunk r.t

/-- The site of a tile or core page. -/
def siteOf (r : Ref) : Nat := if isCore r.t then r.inst / 64 else r.inst

/-- PG_CAP of each page, as its owning chapter states it. -/
def cap : PType → Nat
  | .DSP => 0xE0000003 | .KVM => 0xE0000001 | .PFX => 0xE0000001 | .TFLT => 0xC0000000
  | .MXU => 0xE000771F | .SLC => 0xE0000003 | .SAP => 0xE0000003
  | .HIF => 0xE0000003 | .DFLT => 0xE0000001 | .PWR => 0xE0000001 | .THM => 0xE0000001
  | .BOOT => 0xE0000001 | .IDN => 0 | .FUS => 0xE0000001 | .FWU => 0xE0000003 | .BGH => 0xE0000003
  | _ => 0xE0000000

/-- PG_CAP.cmd. -/
def hasCmd (t : PType) : Bool := bit (cap t) 31
/-- PG_CAP.flt. -/
def hasFlt (t : PType) : Bool := bit (cap t) 30
/-- PG_CAP.evt. -/
def hasEvt (t : PType) : Bool := bit (cap t) 29

/-- The pages of R709, which take RUN wherever IDLE is named. -/
def noIdle : PType → Bool
  | .TRK | .DFLT | .TFLT | .LDG | .LDGD | .PWR | .TPWR | .THM | .TTHM | .FUS | .CLK | .TIM | .BOOT | .LIC
  | .FWU | .BCST | .MGT | .IDN => true
  | _ => false

/-- Sources whose default mask is not 0b00001: (bit, mask) (R649, R685). -/
def fltOther : PType → List (Nat × Nat)
  | .TRK => [(0, 17)] | .JNL => [(2, 19)] | .MXU => [(25, 3)] | .SLC => [(0, 19), (1, 19), (2, 3)]
  | .SAP => [(3, 3), (7, 3)] | .TPWR => [(0, 17)] | .TTHM => [(0, 17), (1, 17)] | .TFLT => [(0, 3)]
  | .RTR => [(2, 3), (3, 3)] | .XPR => [(1, 17), (3, 3)] | .DSP => [(6, 3)] | .KVM => [(4, 3)] | .PFX => [(3, 3)]
  | .LDG | .LDGD => [(0, 19), (1, 19)] | .HIF => [(7, 19)] | .EVQ => [(1, 3)] | .DFLT => [(0, 19)]
  | .PWR => [(0, 17), (1, 17), (2, 17), (3, 17), (4, 17)] | .THM => [(0, 17), (2, 17)] | .BOOT => [(0, 17)]
  | .LIC => [(1, 17)] | .FUS => [(1, 17), (2, 17), (3, 19)] | .CLK => [(0, 17), (1, 17), (2, 17), (4, 17)]
  | .BGH => [(4, 3), (5, 17)] | .MGT => [(1, 3)]
  | _ => []

/-- The fault sources a page implements, as a bit mask (R649, R685). -/
def fltMask : PType → Nat
  | .TRK => 0x1 | .JNL => 0x7 | .CORE => 0x3FF | .MXU => 0x3F7F1FF | .SLC => 0x7 | .SAP => 0xFF | .TILE => 0x3
  | .TPWR => 0x3 | .TTHM => 0xF | .TFLT => 0x1 | .RTR => 0x1F | .XPR => 0xF | .DSP => 0x7F | .KVM => 0x1F
  | .PFX => 0xF | .LDG | .LDGD => 0x7 | .HIF => 0xFF | .EVQ => 0x3 | .DFLT => 0x3 | .PWR => 0x3F | .THM => 0x3F
  | .BOOT => 0x7 | .LIC => 0x3 | .FUS => 0x1F | .CLK => 0x1F | .TIM => 0x1 | .BGH => 0x3F
  | .FWU => 0x3 | .BCST => 0x3 | .MGT => 0x3 | .IDN => 0

/-- Default mask of source `n`. -/
def fltDefault (t : PType) (n : Nat) : Nat :=
  if bit (fltMask t) n then ((fltOther t).lookup n).getD 1 else 0

/-- Reset value of PG_FLT_ROUTE register `i`. -/
def routeReset (t : PType) (i : Nat) : Nat :=
  fltDefault t (4 * i) + fltDefault t (4 * i + 1) * 2 ^ 8 + fltDefault t (4 * i + 2) * 2 ^ 16
    + fltDefault t (4 * i + 3) * 2 ^ 24

/-- Reset value of PG_EVT_EN: the common enables and the owning chapter's. -/
def evtEnReset : PType → Nat
  | .JNL | .DSP | .TTHM => 0xF000001F | .SLC => 0xF0000078 | .SAP | .LIC | .FWU => 0xF000000F
  | .KVM | .PFX | .LDGD | .RTR => 0xF0000007 | .MXU | .TPWR | .DFLT | .LDG | .XPR => 0xF0000003
  | .PWR | .THM => 0xF000007F | .BOOT | .FUS | .BGH => 0xF000003F | .MGT => 0xF0000001
  | .TFLT | .IDN => 0
  | _ => 0xF0000000

end Page
end Sys2Proof
end

