-- ==== Sys2Proof/Machine/RegTable.lean ====
section
/-! DEFINITION. Sys2Proof/Machine/RegTable.lean: the registers of every page, from the register tables of the spec's
chapters: offset, how many and how far apart, flow class (R65), half of a 64-bit pair (R50), and the writable and
readable fields with their access codes (R9), reset values and ranges. Bits that no field names are reserved (R49). -/
namespace Sys2Proof

/-- The access codes of R9. -/
inductive Acc where
  | ro | rw | wo | w1c | w1s | rc | rwi
deriving DecidableEq, Repr

/-- One field: bits `hi:lo`, access, reset value, and the range a written value must lie in, if the spec gives one. -/
structure Fld where
  hi : Nat
  lo : Nat
  acc : Acc
  rst : Nat := 0
  rng : Option (Nat × Nat) := none
deriving DecidableEq, Repr

/-- One register, or `cnt` of them `st` bytes apart. `pair`: 1 the low half of a 64-bit pair, 2 the high half. -/
structure RegDef where
  off : Nat
  cnt : Nat := 1
  st : Nat := 4
  flow : Bool := false
  pair : Nat := 0
  flds : List Fld
deriving DecidableEq, Repr

/-! ## Offsets within the page, under the names the spec gives the registers -/
namespace R

abbrev PG_ID : Nat := 0x0
abbrev PG_VER : Nat := 0x4
abbrev PG_CAP : Nat := 0x8
abbrev PG_LASTCHG : Nat := 0xc
abbrev PG_CTRL : Nat := 0x10
abbrev PG_STATE : Nat := 0x14
abbrev PG_CMD : Nat := 0x18
abbrev PG_CMD_STATUS : Nat := 0x1c
abbrev PG_EVT : Nat := 0x20
abbrev PG_EVT_EN : Nat := 0x24
abbrev PG_EVT_CNT : Nat := 0x28
abbrev PG_EVT_RING : Nat := 0x2c
abbrev PG_FLT : Nat := 0x30
abbrev PG_FLT_EN : Nat := 0x34
abbrev PG_FLT_ROUTE (i : Nat) : Nat := 0x40 + 4 * i
abbrev TRK_DEVICE : Nat := 0x100
abbrev TRK_STEPPING : Nat := 0x104
abbrev TRK_RESET_CAUSE : Nat := 0x108
abbrev TRK_FW_STATE : Nat := 0x10c
abbrev TRK_SCRATCH (n : Nat) : Nat := 0x110 + 0x4 * n
abbrev JNL_RING_BASE_LO : Nat := 0x100
abbrev JNL_RING_BASE_HI : Nat := 0x104
abbrev JNL_RING_SIZE : Nat := 0x108
abbrev JNL_HOLD_LIMIT : Nat := 0x10c
abbrev JNL_CONS_ADDR_LO : Nat := 0x110
abbrev JNL_CONS_ADDR_HI : Nat := 0x114
abbrev JNL_RING_PROD : Nat := 0x118
abbrev JNL_RING_CONS : Nat := 0x11c
abbrev JNL_FILL : Nat := 0x120
abbrev JNL_HIGH_WM : Nat := 0x124
abbrev JNL_NEXT_SEQ : Nat := 0x128
abbrev JNL_DRAINED_SEQ : Nat := 0x12c
abbrev JNL_REFUSED : Nat := 0x130
abbrev JNL_HOLDS : Nat := 0x134
abbrev JNL_HOLD_MAX : Nat := 0x138
abbrev JNL_OPEN_WIN : Nat := 0x13c
abbrev CORE_INFO : Nat := 0x100
abbrev CORE_LEAF_SPLIT : Nat := 0x104
abbrev CORE_RUNAHEAD : Nat := 0x108
abbrev CORE_MEM_TIMEOUT : Nat := 0x10c
abbrev CORE_KEEP_LINES : Nat := 0x110
abbrev CORE_ACTIVE : Nat := 0x114
abbrev CORE_REG_SEL : Nat := 0x118
abbrev CORE_REG_DATA_LO : Nat := 0x120
abbrev CORE_REG_DATA_HI : Nat := 0x124
abbrev CORE_REG_STATUS : Nat := 0x128
abbrev CORE_DESC_FINFO : Nat := 0x12c
abbrev CORE_TOK (n : Nat) : Nat := 0x200 + 0x4 * n
abbrev RING_BASE_LO (n : Nat) : Nat := 0x300 + 0x20 * n
abbrev RING_BASE_HI (n : Nat) : Nat := 0x304 + 0x20 * n
abbrev RING_SIZE (n : Nat) : Nat := 0x308 + 0x20 * n
abbrev RING_PROD (n : Nat) : Nat := 0x30c + 0x20 * n
abbrev RING_CONS (n : Nat) : Nat := 0x310 + 0x20 * n
abbrev RING_CTRL (n : Nat) : Nat := 0x314 + 0x20 * n
abbrev THR_STATUS (n : Nat) : Nat := 0x400 + 0x10 * n
abbrev THR_PC_LO (n : Nat) : Nat := 0x404 + 0x10 * n
abbrev THR_PC_HI (n : Nat) : Nat := 0x408 + 0x10 * n
abbrev THR_FINFO (n : Nat) : Nat := 0x40c + 0x10 * n
abbrev CORE_CNT_LEAF_HIT : Nat := 0x130
abbrev CORE_CNT_LEAF_MISS : Nat := 0x134
abbrev CORE_CNT_RA_PREF : Nat := 0x138
abbrev CORE_CNT_RA_SQUASH : Nat := 0x13c
abbrev CORE_CNT_RA_SUPPR : Nat := 0x140
abbrev CORE_CNT_KEEP_REFUSED : Nat := 0x144
abbrev CORE_CNT_NOALLOC : Nat := 0x148
abbrev MXU_ARR_INFO : Nat := 0x100
abbrev MXU_PASS_CTRL : Nat := 0x104
abbrev MXU_FEED_TIMEOUT : Nat := 0x108
abbrev MXU_ARR_STATUS : Nat := 0x10c
abbrev MXU_ARR_QUEUE : Nat := 0x110
abbrev MXU_SKID_MAX : Nat := 0x148
abbrev MXU_ACC_VALID (n : Nat) : Nat := 0x150 + 0x4 * n
abbrev MXU_ABORT_N : Nat := 0x170
abbrev MXU_ABORT_S : Nat := 0x174
abbrev MXU_ACC_SEL : Nat := 0x178
abbrev MXU_ACC_DATA : Nat := 0x17c
abbrev MXU_MV_INFO : Nat := 0x800
abbrev MXU_MV_CTRL : Nat := 0x804
abbrev MXU_MV_TIMEOUT : Nat := 0x808
abbrev MXU_MV_STATUS : Nat := 0x80c
abbrev MXU_MV_ABORT : Nat := 0x830
abbrev MXU_MV_SEL : Nat := 0x834
abbrev MXU_MV_DATA : Nat := 0x838
abbrev MXU_ATT_INFO : Nat := 0xc00
abbrev MXU_ATT_CTRL : Nat := 0xc04
abbrev MXU_ATT_TIMEOUT : Nat := 0xc08
abbrev MXU_ATT_STATUS : Nat := 0xc0c
abbrev MXU_ATT_ABORT : Nat := 0xc30
abbrev MXU_CNT_PASS : Nat := 0x120
abbrev MXU_CNT_ROWS : Nat := 0x124
abbrev MXU_CNT_BUB_DATA : Nat := 0x128
abbrev MXU_CNT_BUB_BLOCK : Nat := 0x12c
abbrev MXU_CNT_BUB_FLOW : Nat := 0x130
abbrev MXU_CNT_BACKP : Nat := 0x134
abbrev MXU_CNT_ABORT_N : Nat := 0x138
abbrev MXU_CNT_ABORT_S : Nat := 0x13c
abbrev MXU_CNT_EXC : Nat := 0x140
abbrev MXU_CNT_WLD : Nat := 0x144
abbrev MXU_MV_CNT_RUN : Nat := 0x810
abbrev MXU_MV_CNT_LINE : Nat := 0x814
abbrev MXU_MV_CNT_SKIP : Nat := 0x818
abbrev MXU_MV_CNT_SCALE : Nat := 0x81c
abbrev MXU_MV_CNT_WAIT : Nat := 0x820
abbrev MXU_MV_CNT_EXC : Nat := 0x824
abbrev MXU_MV_CNT_ABORT : Nat := 0x828
abbrev MXU_ATT_CNT_RUNS : Nat := 0xc10
abbrev MXU_ATT_CNT_BLK_ATT : Nat := 0xc14
abbrev MXU_ATT_CNT_BLK_SKIP : Nat := 0xc18
abbrev MXU_ATT_CNT_BLK_UNSEL : Nat := 0xc1c
abbrev MXU_ATT_CNT_SUM_READ : Nat := 0xc20
abbrev MXU_ATT_CNT_ROW_EMPTY : Nat := 0xc24
abbrev MXU_ATT_CNT_ROW_NAN : Nat := 0xc28
abbrev MXU_ATT_CNT_ABORT : Nat := 0xc2c
abbrev DSP_INFO : Nat := 0x100
abbrev DSP_CTRL : Nat := 0x104
abbrev DSP_TIMEOUT : Nat := 0x108
abbrev DSP_STATUS : Nat := 0x10c
abbrev DSP_SPILL_WM : Nat := 0x110
abbrev DSP_PIN_HELD : Nat := 0x150
abbrev DSP_LAST_ABORT : Nat := 0x154
abbrev DSP_RND_A (n : Nat) : Nat := 0x180 + 0x8 * n
abbrev DSP_RND_B (n : Nat) : Nat := 0x184 + 0x8 * n
abbrev DSP_CNT_ROUNDS : Nat := 0x120
abbrev DSP_CNT_ABORTS : Nat := 0x124
abbrev DSP_CNT_OUT : Nat := 0x128
abbrev DSP_CNT_IN : Nat := 0x12c
abbrev DSP_CNT_SPILL : Nat := 0x130
abbrev DSP_CNT_UNPLACED : Nat := 0x134
abbrev DSP_CNT_ABANDONED : Nat := 0x138
abbrev DSP_CNT_LATE_RET : Nat := 0x13c
abbrev DSP_CNT_PF_PIN : Nat := 0x140
abbrev DSP_CNT_PF_REFUSED : Nat := 0x144
abbrev DSP_CNT_PF_SQUASH : Nat := 0x148
abbrev DSP_CNT_SKIPPED : Nat := 0x14c
abbrev SLC_INFO : Nat := 0x100
abbrev SLC_CTRL : Nat := 0x104
abbrev SLC_CLASS_MAP : Nat := 0x108
abbrev SLC_AGE_LIMIT : Nat := 0x10c
abbrev SLC_RT_PERIOD : Nat := 0x110
abbrev SLC_RT_DRIFT : Nat := 0x114
abbrev SLC_THROTTLE : Nat := 0x118
abbrev SLC_STATUS : Nat := 0x11c
abbrev CH_STATUS (n : Nat) : Nat := 0x800 + 0x100 * n
abbrev CH_TEMP (n : Nat) : Nat := 0x804 + 0x100 * n
abbrev CH_MARGIN (n : Nat) : Nat := 0x808 + 0x100 * n
abbrev CH_RT_LAST (n : Nat) : Nat := 0x80c + 0x100 * n
abbrev CH_CNT_RD (n : Nat) : Nat := 0x810 + 0x100 * n
abbrev CH_CNT_WR (n : Nat) : Nat := 0x814 + 0x100 * n
abbrev CH_CNT_RMW (n : Nat) : Nat := 0x818 + 0x100 * n
abbrev CH_CNT_REF (n : Nat) : Nat := 0x81c + 0x100 * n
abbrev CH_CNT_POSTPONE (n : Nat) : Nat := 0x820 + 0x100 * n
abbrev CH_CNT_FORCED (n : Nat) : Nat := 0x824 + 0x100 * n
abbrev CH_CNT_RT_GROUP (n : Nat) : Nat := 0x828 + 0x100 * n
abbrev CH_CNT_RT_FULL (n : Nat) : Nat := 0x82c + 0x100 * n
abbrev CH_HOLD_MAX (n : Nat) : Nat := 0x830 + 0x100 * n
abbrev SLC_CNT_CLS0 : Nat := 0x120
abbrev SLC_CNT_CLS1 : Nat := 0x124
abbrev SLC_CNT_CLS2 : Nat := 0x128
abbrev SLC_CNT_CLS3 : Nat := 0x12c
abbrev SLC_CNT_AGED : Nat := 0x130
abbrev SLC_CNT_THR_WIN : Nat := 0x134
abbrev SLC_CNT_CAP_WIN : Nat := 0x138
abbrev SLC_CNT_HOLD_US : Nat := 0x13c
abbrev SAP_INFO : Nat := 0x200
abbrev SAP_TIMEOUT : Nat := 0x204
abbrev SAP_STATUS : Nat := 0x208
abbrev SAP_RED : Nat := 0x20c
abbrev SAP_PORT : Nat := 0x210
abbrev SU_STATUS (n : Nat) : Nat := 0x100 + 0x200 * n
abbrev SU_CALL (n : Nat) : Nat := 0x104 + 0x200 * n
abbrev SU_PROG_ADDR (n : Nat) : Nat := 0x108 + 0x200 * n
abbrev SU_PROG_DATA (n : Nat) : Nat := 0x10c + 0x200 * n
abbrev SU_FINFO (n : Nat) : Nat := 0x110 + 0x200 * n
abbrev SU_ATOM (n : Nat) : Nat := 0x114 + 0x200 * n
abbrev SU_POISON_CA (n : Nat) : Nat := 0x118 + 0x200 * n
abbrev SU_CNT_CALLS (n : Nat) : Nat := 0x120 + 0x200 * n
abbrev SU_CNT_SUSP (n : Nat) : Nat := 0x124 + 0x200 * n
abbrev SU_CNT_OVERRUN (n : Nat) : Nat := 0x128 + 0x200 * n
abbrev SU_CNT_CORR (n : Nat) : Nat := 0x12c + 0x200 * n
abbrev SU_CNT_UNCORR (n : Nat) : Nat := 0x130 + 0x200 * n
abbrev SU_ARG (k i : Nat) : Nat := 0x140 + 0x200 * k + 4 * i
abbrev SU_XREG (k i : Nat) : Nat := 0x180 + 0x200 * k + 4 * i
abbrev SAP_CNT_CALLS : Nat := 0x220
abbrev SAP_CNT_STEPS : Nat := 0x224
abbrev SAP_CNT_ABANDONED : Nat := 0x228
abbrev KVM_INFO : Nat := 0x100
abbrev KVM_GEOM : Nat := 0x104
abbrev KVM_META_LO : Nat := 0x108
abbrev KVM_META_HI : Nat := 0x10c
abbrev KVM_TOTAL : Nat := 0x110
abbrev KVM_FREE : Nat := 0x114
abbrev KVM_REFD : Nat := 0x118
abbrev KVM_TENT : Nat := 0x11c
abbrev KVM_LOW_WM : Nat := 0x120
abbrev KVM_TIMEOUT : Nat := 0x124
abbrev KVM_CNT_ALLOC : Nat := 0x130
abbrev KVM_CNT_FREED : Nat := 0x134
abbrev KVM_CNT_APPEND : Nat := 0x138
abbrev KVM_CNT_COMMIT : Nat := 0x13c
abbrev KVM_CNT_DISCARD : Nat := 0x140
abbrev KVM_CNT_FORK : Nat := 0x144
abbrev KVM_CNT_EMPTY : Nat := 0x148
abbrev KVM_CNT_SHARED : Nat := 0x14c
abbrev KVM_RGN (n : Nat) : Nat := 0x200 + 0x4 * n
abbrev PFX_INFO : Nat := 0x100
abbrev PFX_CTRL : Nat := 0x104
abbrev PFX_GEOM : Nat := 0x108
abbrev PFX_NODE_LO : Nat := 0x10c
abbrev PFX_NODE_HI : Nat := 0x110
abbrev PFX_NODES : Nat := 0x114
abbrev PFX_TABLE_LO : Nat := 0x118
abbrev PFX_TABLE_HI : Nat := 0x11c
abbrev PFX_BUCKETS : Nat := 0x120
abbrev PFX_LOW_WM : Nat := 0x124
abbrev PFX_FREE : Nat := 0x128
abbrev PFX_LIVE : Nat := 0x12c
abbrev PFX_HELD : Nat := 0x130
abbrev PFX_TIMEOUT : Nat := 0x134
abbrev PFX_CNT_FIND : Nat := 0x140
abbrev PFX_CNT_HIT : Nat := 0x144
abbrev PFX_CNT_COLLIDE : Nat := 0x148
abbrev PFX_CNT_INSERT : Nat := 0x14c
abbrev PFX_CNT_EXISTS : Nat := 0x150
abbrev PFX_CNT_EVICT : Nat := 0x154
abbrev PFX_CNT_FULL : Nat := 0x158
abbrev PFX_KEY (n : Nat) : Nat := 0x180 + 0x4 * n
abbrev RTR_INFO : Nat := 0x100
abbrev RTR_CTRL : Nat := 0x104
abbrev RTR_LINK : Nat := 0x108
abbrev RTR_TILE : Nat := 0x10c
abbrev RTR_DETOUR (n : Nat) : Nat := 0x110 + 0x4 * n
abbrev RTR_CNT_FWD : Nat := 0x120
abbrev RTR_CNT_EJECT : Nat := 0x124
abbrev RTR_CNT_RETRY : Nat := 0x128
abbrev RTR_CNT_DEAD : Nat := 0x12c
abbrev RTR_CNT_DETOUR_D : Nat := 0x130
abbrev RTR_CNT_DETOUR_X : Nat := 0x134
abbrev RTR_CNT_CRC : Nat := 0x138
abbrev RTR_CNT_TRUNC : Nat := 0x13c
abbrev RTR_LOST (n : Nat) : Nat := 0x140 + 0x4 * n
abbrev XPR_INFO : Nat := 0x100
abbrev XPR_CTRL : Nat := 0x104
abbrev XPR_PEER_LO : Nat := 0x108
abbrev XPR_PEER_HI : Nat := 0x10c
abbrev XPR_CNT_TX : Nat := 0x110
abbrev XPR_CNT_RX : Nat := 0x114
abbrev XPR_CNT_LOST : Nat := 0x118
abbrev XPR_CNT_PROBE_MISS : Nat := 0x11c
abbrev BGH_INFO : Nat := 0x100
abbrev BGH_CTRL : Nat := 0x104
abbrev BGH_STATUS : Nat := 0x108
abbrev BGH_TIMEOUT : Nat := 0x10c
abbrev BGH_PEER_SN (n : Nat) : Nat := 0x110 + 0x4 * n
abbrev BGH_PEER_LAYER : Nat := 0x120
abbrev BGH_FSEQ : Nat := 0x124
abbrev BGH_RACC_OFF : Nat := 0x128
abbrev BGH_RACC_DATA : Nat := 0x12c
abbrev BGH_CNT (n : Nat) : Nat := 0x130 + 0x4 * n
abbrev BGH_LOST : Nat := 0x150
abbrev BGH_OPT (n : Nat) : Nat := 0x180 + 0x4 * n
abbrev HIF_INFO : Nat := 0x100
abbrev HIF_LINK : Nat := 0x104
abbrev HIF_CTRL : Nat := 0x108
abbrev HIF_WIN_SIZE : Nat := 0x10c
abbrev HIF_WIN_BASE_LO : Nat := 0x110
abbrev HIF_WIN_BASE_HI : Nat := 0x114
abbrev HIF_REQ_TIMEOUT : Nat := 0x118
abbrev HIF_CPL_TIMEOUT : Nat := 0x11c
abbrev HIF_CNT_BAR0_RD : Nat := 0x120
abbrev HIF_CNT_BAR0_WR : Nat := 0x124
abbrev HIF_CNT_BAR2_RD : Nat := 0x128
abbrev HIF_CNT_BAR2_WR : Nat := 0x12c
abbrev HIF_CNT_POISON_IN : Nat := 0x130
abbrev HIF_CNT_POISON_OUT : Nat := 0x134
abbrev HIF_CNT_ECRC : Nat := 0x138
abbrev HIF_CNT_RETRY : Nat := 0x13c
abbrev HIF_SPDM : Nat := 0x140
abbrev CQ_BASE_LO (n : Nat) : Nat := 0x200 + 0x20 * n
abbrev CQ_BASE_HI (n : Nat) : Nat := 0x204 + 0x20 * n
abbrev CQ_SIZE (n : Nat) : Nat := 0x208 + 0x20 * n
abbrev CQ_PROD (n : Nat) : Nat := 0x20c + 0x20 * n
abbrev CQ_CONS (n : Nat) : Nat := 0x210 + 0x20 * n
abbrev CQ_SHADOW_LO (n : Nat) : Nat := 0x214 + 0x20 * n
abbrev CQ_SHADOW_HI (n : Nat) : Nat := 0x218 + 0x20 * n
abbrev CQ_CTRL (n : Nat) : Nat := 0x21c + 0x20 * n
abbrev EVQ_INFO : Nat := 0x100
abbrev EVQ_HELD : Nat := 0x104
abbrev EVQ_HELD_MAX : Nat := 0x108
abbrev EVQ_DROPPED : Nat := 0x10c
abbrev EVQ_HOLD_RINGS_LO : Nat := 0x110
abbrev EVQ_HOLD_RINGS_HI : Nat := 0x114
abbrev ER_BASE_LO (n : Nat) : Nat := 0x400 + 0x20 * n
abbrev ER_BASE_HI (n : Nat) : Nat := 0x404 + 0x20 * n
abbrev ER_SIZE (n : Nat) : Nat := 0x408 + 0x20 * n
abbrev ER_PROD (n : Nat) : Nat := 0x40c + 0x20 * n
abbrev ER_CONS (n : Nat) : Nat := 0x410 + 0x20 * n
abbrev ER_SHADOW_LO (n : Nat) : Nat := 0x414 + 0x20 * n
abbrev ER_SHADOW_HI (n : Nat) : Nat := 0x418 + 0x20 * n
abbrev ER_CTRL (n : Nat) : Nat := 0x41c + 0x20 * n
abbrev EVQ_DROP (n : Nat) : Nat := 0xc00 + 0x4 * n
abbrev EVQ_SEQ (n : Nat) : Nat := 0xd00 + 0x4 * n
abbrev CLK_INFO : Nat := 0x100
abbrev CLK_LIMIT : Nat := 0x104
abbrev CLK_STATUS : Nat := 0x108
abbrev CLK_SEL : Nat := 0x10c
abbrev CLK_ISL : Nat := 0x110
abbrev CLK_ISL_CNT : Nat := 0x114
abbrev CLK_LAST : Nat := 0x118
abbrev CLK_FENCED_LO : Nat := 0x120
abbrev CLK_FENCED_HI : Nat := 0x124
abbrev CLK_CNT_LOST : Nat := 0x130
abbrev CLK_CNT_HS_TIMEOUT : Nat := 0x134
abbrev CLK_CNT_FREQ_CHANGE : Nat := 0x138
abbrev TIM_INFO : Nat := 0x100
abbrev TIM_CTRL : Nat := 0x104
abbrev TIM_NOW_LO : Nat := 0x108
abbrev TIM_NOW_HI : Nat := 0x10c
abbrev TIM_PTM_OFFSET_LO : Nat := 0x110
abbrev TIM_PTM_OFFSET_HI : Nat := 0x114
abbrev TIM_PTM_AT_LO : Nat := 0x118
abbrev TIM_PTM_AT_HI : Nat := 0x11c
abbrev TIM_PTM_STATUS : Nat := 0x120
abbrev TIM_SLEW_TARGET_LO : Nat := 0x124
abbrev TIM_SLEW_TARGET_HI : Nat := 0x128
abbrev TIM_RATE : Nat := 0x12c
abbrev TIM_STATUS : Nat := 0x130
abbrev PWR_INFO : Nat := 0x100
abbrev PWR_CTRL : Nat := 0x104
abbrev PWR_CAP : Nat := 0x108
abbrev PWR_LIMIT : Nat := 0x10c
abbrev PWR_VIN : Nat := 0x110
abbrev PWR_VBUS : Nat := 0x114
abbrev PWR_IIN : Nat := 0x118
abbrev PWR_POWER : Nat := 0x11c
abbrev PWR_STAGES : Nat := 0x120
abbrev PWR_STATE : Nat := 0x124
abbrev PWR_SAVE_STATUS : Nat := 0x128
abbrev PWR_SAVE_SEL : Nat := 0x12c
abbrev PWR_SAVE_DATA : Nat := 0x130
abbrev PWR_CNT_UV : Nat := 0x140
abbrev PWR_CNT_PAIR_LOST : Nat := 0x144
abbrev PWR_CNT_FAST_CUT : Nat := 0x148
abbrev PWR_CNT_CAP_MS : Nat := 0x14c
abbrev TPWR_INFO : Nat := 0x100
abbrev TPWR_DOM : Nat := 0x104
abbrev TPWR_CORE_ON_LO : Nat := 0x108
abbrev TPWR_CORE_ON_HI : Nat := 0x10c
abbrev TPWR_CORE_REQ_LO : Nat := 0x110
abbrev TPWR_CORE_REQ_HI : Nat := 0x114
abbrev TPWR_CAP : Nat := 0x118
abbrev TPWR_P0 : Nat := 0x11c
abbrev TPWR_P1 : Nat := 0x120
abbrev TPWR_RAIL : Nat := 0x124
abbrev TPWR_FCAP : Nat := 0x128
abbrev TPWR_CNT_ON : Nat := 0x130
abbrev TPWR_CNT_OFF : Nat := 0x134
abbrev BOOT_INFO : Nat := 0x100
abbrev BOOT_CTRL : Nat := 0x104
abbrev BOOT_STATUS : Nat := 0x108
abbrev BOOT_SERVE_LO : Nat := 0x110
abbrev BOOT_SERVE_HI : Nat := 0x114
abbrev BOOT_FULL_LO : Nat := 0x118
abbrev BOOT_FULL_HI : Nat := 0x11c
abbrev BOOT_FAIL_LO : Nat := 0x120
abbrev BOOT_FAIL_HI : Nat := 0x124
abbrev BOOT_CAP : Nat := 0x128
abbrev BOOT_BW : Nat := 0x12c
abbrev BOOT_T_VERIFY : Nat := 0x130
abbrev BOOT_T_PERST : Nat := 0x134
abbrev BOOT_T_FIRST : Nat := 0x138
abbrev BOOT_T_ALL : Nat := 0x13c
abbrev BOOT_T_FULL : Nat := 0x140
abbrev BOOT_TRAIN : Nat := 0x144
abbrev BOOT_CHECK_FAIL : Nat := 0x148
abbrev BOOT_SETTINGS : Nat := 0x14c
abbrev LIC_STATE : Nat := 0x100
abbrev LIC_ACTIVE0 : Nat := 0x104
abbrev LIC_ACTIVE1 : Nat := 0x108
abbrev LIC_PEND : Nat := 0x10c
abbrev LIC_ID_LO : Nat := 0x110
abbrev LIC_ID_HI : Nat := 0x114
abbrev LIC_STAGE_LEN : Nat := 0x118
abbrev LIC_STAGE (n : Nat) : Nat := 0x400 + 0x4 * n
abbrev LIC_ACT (n : Nat) : Nat := 0x800 + 0x4 * n
abbrev IDN_SERIAL (n : Nat) : Nat := 0x100 + 0x4 * n
abbrev IDN_ECID (n : Nat) : Nat := 0x110 + 0x4 * n
abbrev IDN_PANEL_LOT (n : Nat) : Nat := 0x120 + 0x4 * n
abbrev IDN_PANEL : Nat := 0x128
abbrev IDN_TEST : Nat := 0x12c
abbrev IDN_GOOD_LO : Nat := 0x130
abbrev IDN_GOOD_HI : Nat := 0x134
abbrev IDN_TRUNK_DIE (n : Nat) : Nat := 0x140 + 0x4 * n
abbrev IDN_MFG_DATE : Nat := 0x150
abbrev TILE_INFO : Nat := 0x100
abbrev TILE_POS : Nat := 0x104
abbrev TILE_TRAIN : Nat := 0x108
abbrev TILE_CHAN : Nat := 0x10c
abbrev TILE_SERVE_T : Nat := 0x110
abbrev TILE_FULL_T : Nat := 0x114
abbrev TILE_DIE (n : Nat) : Nat := 0x140 + 0x4 * n
abbrev FUS_INFO : Nat := 0x100
abbrev FUS_CTRL : Nat := 0x104
abbrev FUS_SCRUB_INT : Nat := 0x108
abbrev FUS_LAP_LIMIT : Nat := 0x10c
abbrev FUS_LIMITS : Nat := 0x110
abbrev FUS_SEL : Nat := 0x114
abbrev FUS_CH_CE : Nat := 0x118
abbrev FUS_CH_UE : Nat := 0x11c
abbrev FUS_CH_LAP : Nat := 0x120
abbrev FUS_CH_SCRUB : Nat := 0x124
abbrev FUS_CH_REPAIR : Nat := 0x128
abbrev FUS_CH_STEER : Nat := 0x12c
abbrev FUS_RMAP (n : Nat) : Nat := 0x140 + 0x4 * n
abbrev FUS_ENABLED_LO : Nat := 0x180
abbrev FUS_ENABLED_HI : Nat := 0x184
abbrev FUS_DORMANT_LO : Nat := 0x188
abbrev FUS_DORMANT_HI : Nat := 0x18c
abbrev FUS_RETIRED_LO : Nat := 0x190
abbrev FUS_RETIRED_HI : Nat := 0x194
abbrev FUS_COPPICE : Nat := 0x198
abbrev FUS_CNT_CE : Nat := 0x1a0
abbrev FUS_CNT_UE : Nat := 0x1a4
abbrev FUS_CNT_REMAP : Nat := 0x1a8
abbrev FUS_CNT_STEER : Nat := 0x1ac
abbrev THM_INFO : Nat := 0x100
abbrev THM_CTRL : Nat := 0x104
abbrev THM_COOLANT : Nat := 0x108
abbrev THM_FLOW_MIN : Nat := 0x10c
abbrev THM_INLET_MAX : Nat := 0x110
abbrev THM_TH : Nat := 0x114
abbrev THM_TH_OPT : Nat := 0x118
abbrev THM_FLOW : Nat := 0x11c
abbrev THM_HEAT : Nat := 0x120
abbrev THM_STATUS : Nat := 0x124
abbrev THM_HOT : Nat := 0x128
abbrev THM_HOT_SITE : Nat := 0x12c
abbrev THM_RING_SEL : Nat := 0x130
abbrev THM_RING_CNT : Nat := 0x134
abbrev THM_LIFE : Nat := 0x138
abbrev THM_RING_SAVE : Nat := 0x13c
abbrev THM_CNT_FLOW_WARN : Nat := 0x150
abbrev THM_CNT_FLOW_LOW_S : Nat := 0x154
abbrev THM_CNT_FLOW_LOST : Nat := 0x158
abbrev THM_CNT_TRIP : Nat := 0x15c
abbrev TTHM_INFO : Nat := 0x100
abbrev TTHM_Q (n : Nat) : Nat := 0x110 + 0x4 * n
abbrev TTHM_PRED (n : Nat) : Nat := 0x120 + 0x4 * n
abbrev TTHM_CAP : Nat := 0x130
abbrev TTHM_STATE : Nat := 0x134
abbrev TTHM_BROKEN_LO : Nat := 0x138
abbrev TTHM_BROKEN_HI : Nat := 0x13c
abbrev TTHM_GUARD_LO : Nat := 0x140
abbrev TTHM_GUARD_HI : Nat := 0x144
abbrev TTHM_R : Nat := 0x148
abbrev TTHM_SENS (n : Nat) : Nat := 0x180 + 0x4 * n
abbrev TFLT_FIRST : Nat := 0x100
abbrev TFLT_FIRST_T_LO : Nat := 0x104
abbrev TFLT_FIRST_T_HI : Nat := 0x108
abbrev TFLT_FIRST_DETAIL : Nat := 0x10c
abbrev TFLT_COUNT : Nat := 0x110
abbrev TFLT_PAGES : Nat := 0x114
abbrev TFLT_CORES_LO : Nat := 0x118
abbrev TFLT_CORES_HI : Nat := 0x11c
abbrev TFLT_FAULTN : Nat := 0x120
abbrev DFLT_SITES_LO : Nat := 0x114
abbrev DFLT_SITES_HI : Nat := 0x118
abbrev DFLT_TRUNK : Nat := 0x11c
abbrev DFLT_FAULTN : Nat := 0x120
abbrev DFLT_CTRL : Nat := 0x124
abbrev DFLT_GUARD : Nat := 0x128
abbrev DFLT_TRAP_STATUS : Nat := 0x12c
abbrev DFLT_TRAP_SEL : Nat := 0x130
abbrev DFLT_TRAP_DATA : Nat := 0x134
abbrev LDG_INFO : Nat := 0x100
abbrev LDG_SNAP_T_LO : Nat := 0x104
abbrev LDG_SNAP_T_HI : Nat := 0x108
abbrev LDG_MISMATCH : Nat := 0x10c
abbrev LDG_SEL : Nat := 0x110
abbrev LDG_TERM (n : Nat) : Nat := 0x120 + 0x4 * n
abbrev LDG_DIFF (n : Nat) : Nat := 0x140 + 0x4 * n
abbrev LDG_CNT_MISMATCH : Nat := 0x148
abbrev LDG_CNT_RECON : Nat := 0x14c
abbrev LDG_STALE : Nat := 0x150
abbrev FWU_INFO : Nat := 0x100
abbrev FWU_RUNNING : Nat := 0x104
abbrev FWU_SLOTA : Nat := 0x108
abbrev FWU_SLOTB : Nat := 0x10c
abbrev FWU_VERA : Nat := 0x110
abbrev FWU_VERB : Nat := 0x114
abbrev FWU_MIN_SVN : Nat := 0x118
abbrev FWU_SRC_LO : Nat := 0x11c
abbrev FWU_SRC_HI : Nat := 0x120
abbrev FWU_LEN : Nat := 0x124
abbrev FWU_STATUS : Nat := 0x128
abbrev FWU_BC_SRC_LO : Nat := 0x130
abbrev FWU_BC_SRC_HI : Nat := 0x134
abbrev FWU_BC_WORDS : Nat := 0x138
abbrev FWU_BC_UNITS : Nat := 0x13c
abbrev FWU_BC_SITES_LO : Nat := 0x140
abbrev FWU_BC_SITES_HI : Nat := 0x144
abbrev FWU_BC_CORES_LO : Nat := 0x148
abbrev FWU_BC_CORES_HI : Nat := 0x14c
abbrev FWU_BC_TIMEOUT : Nat := 0x150
abbrev FWU_BC_STATE : Nat := 0x154
abbrev FWU_BC_FENCED_LO : Nat := 0x158
abbrev FWU_BC_FENCED_HI : Nat := 0x15c
abbrev FWU_CNT_CHUNKS : Nat := 0x160
abbrev FWU_CNT_REPAIRS : Nat := 0x164
abbrev FWU_CNT_BROADCASTS : Nat := 0x168
abbrev BCST_INFO : Nat := 0x100
abbrev BCST_STATE : Nat := 0x104
abbrev BCST_TP_VER : Nat := 0x108
abbrev BCST_CNT_RX : Nat := 0x110
abbrev BCST_CNT_CRC : Nat := 0x114
abbrev BCST_CNT_DUP : Nat := 0x118
abbrev BCST_CNT_REPAIR_RX : Nat := 0x11c
abbrev MGT_CTRL : Nat := 0x100
abbrev MGT_SMB_ADDR : Nat := 0x104
abbrev MGT_EID : Nat := 0x108
abbrev MGT_VDM_ID : Nat := 0x10c
abbrev MGT_ALERT : Nat := 0x110
abbrev MGT_ALERT_EN : Nat := 0x114
abbrev MGT_CNT_RX : Nat := 0x120
abbrev MGT_CNT_TX : Nat := 0x124
abbrev MGT_CNT_BAD : Nat := 0x128
abbrev MGT_CNT_VDM_RD : Nat := 0x12c
abbrev MGT_CNT_VDM_WR : Nat := 0x130
end R

namespace RegTable

/-- The registers of the common header that hold state (R53); PG_ID, PG_VER and PG_CAP are constants of the page. -/
def header (t : PType) : List RegDef :=
  [ { off := R.PG_ID, flds := [⟨31, 0, .ro, 0, none⟩] }, { off := R.PG_VER, flds := [⟨31, 0, .ro, 0x100, none⟩] },
    { off := R.PG_CAP, flds := [⟨31, 0, .ro, Page.cap t, none⟩] }, { off := R.PG_LASTCHG, flds := [⟨31, 0, .ro, 0, none⟩] },
    { off := R.PG_CTRL, flds := [⟨0, 0, .rw, 0, none⟩] },
    { off := R.PG_STATE, flds := [⟨15, 8, .ro, 0, none⟩, ⟨3, 0, .ro, 1, none⟩] },
    { off := R.PG_CMD, flds := [⟨31, 8, .wo, 0, none⟩, ⟨7, 0, .wo, 0, none⟩] },
    { off := R.PG_CMD_STATUS, flds := [⟨31, 28, .ro, 0, none⟩, ⟨27, 16, .ro, 0, none⟩, ⟨15, 8, .ro, 0, none⟩, ⟨7, 0, .ro, 0, none⟩] },
    { off := R.PG_EVT, flow := true, flds := [⟨31, 0, .w1c, 0, none⟩] },
    { off := R.PG_EVT_EN, flds := [⟨31, 0, .rw, Page.evtEnReset t, none⟩] },
    { off := R.PG_EVT_CNT, flds := [⟨31, 0, .rc, 0, none⟩] }, { off := R.PG_EVT_RING, flds := [⟨5, 0, .rw, 0, none⟩] },
    { off := R.PG_FLT, flds := [⟨31, 0, .w1c, 0, none⟩] }, { off := R.PG_FLT_EN, flds := [⟨31, 0, .rw, Page.fltMask t, none⟩] } ]
  ++ (List.range 8).map (fun i => { off := R.PG_FLT_ROUTE i, flds :=
      [⟨28, 24, .rw, Page.fltDefault t (4 * i + 3), none⟩, ⟨20, 16, .rw, Page.fltDefault t (4 * i + 2), none⟩,
       ⟨12, 8, .rw, Page.fltDefault t (4 * i + 1), none⟩, ⟨4, 0, .rw, Page.fltDefault t (4 * i), none⟩] })

/-- Registers of the TRK page (tables about R77). -/
def TRK : List RegDef :=
  [ { off := 0x100, flds := [⟨31, 16, .ro, 0x4c51, none⟩, ⟨15, 0, .ro, 1, none⟩] },
    { off := 0x104, flds := [⟨15, 8, .ro, 1, none⟩, ⟨7, 0, .ro, 1, none⟩] },
    { off := 0x108, flds := [⟨31, 16, .ro, 0, none⟩, ⟨4, 4, .ro, 0, none⟩, ⟨3, 3, .ro, 0, none⟩, ⟨2, 2, .ro, 0, none⟩, ⟨1, 1, .ro, 0, none⟩, ⟨0, 0, .ro, 1, none⟩] },
    { off := 0x10c, flds := [⟨31, 8, .ro, 0, none⟩, ⟨7, 0, .ro, 0, none⟩] },
    { off := 0x110, cnt := 4, st := 0x4, flds := [⟨31, 0, .rw, 0, none⟩] } ]

/-- Registers of the JNL page (tables about R78). -/
def JNL : List RegDef :=
  [ { off := 0x100, pair := 1, flds := [⟨31, 12, .rwi, 0, none⟩] },
    { off := 0x104, pair := 2, flds := [⟨31, 0, .rwi, 0, none⟩] },
    { off := 0x108, flds := [⟨4, 0, .rwi, 0xc, some (7, 20)⟩] },
    { off := 0x10c, flds := [⟨3, 0, .rw, 0xa, some (1, 10)⟩] },
    { off := 0x110, pair := 1, flds := [⟨31, 2, .rwi, 0, none⟩] },
    { off := 0x114, pair := 2, flds := [⟨31, 0, .rwi, 0, none⟩] },
    { off := 0x118, flds := [⟨31, 0, .ro, 0, none⟩] },
    { off := 0x11c, flds := [⟨31, 0, .ro, 0, none⟩] },
    { off := 0x120, flds := [⟨16, 0, .ro, 0, none⟩] },
    { off := 0x124, flds := [⟨16, 0, .rw, 0xc000, some (1, 65536)⟩] },
    { off := 0x128, flds := [⟨31, 0, .ro, 1, none⟩] },
    { off := 0x12c, flds := [⟨31, 0, .ro, 0, none⟩] },
    { off := 0x130, flds := [⟨31, 0, .ro, 0, none⟩] },
    { off := 0x134, flds := [⟨31, 0, .ro, 0, none⟩] },
    { off := 0x138, flds := [⟨23, 0, .ro, 0, none⟩] },
    { off := 0x13c, flds := [⟨9, 0, .ro, 0, none⟩] } ]

/-- Registers of the CORE page (tables about R125). -/
def CORE0 : List RegDef :=
  [ { off := 0x100, flds := [⟨31, 24, .ro, 0x40, none⟩, ⟨23, 16, .ro, 0x20, none⟩, ⟨15, 12, .ro, 4, none⟩, ⟨11, 0, .ro, 0x600, none⟩] },
    { off := 0x104, flds := [⟨3, 0, .rwi, 4, some (2, 12)⟩] },
    { off := 0x108, flds := [⟨13, 8, .rw, 0x20, some (1, 32)⟩, ⟨0, 0, .rw, 1, none⟩] },
    { off := 0x10c, flds := [⟨5, 0, .rw, 0x14, some (11, 50)⟩] },
    { off := 0x110, flds := [⟨31, 16, .ro, 0x400, none⟩, ⟨15, 0, .ro, 0, none⟩] },
    { off := 0x114, flds := [⟨24, 16, .ro, 0, none⟩, ⟨6, 0, .ro, 0, none⟩] },
    { off := 0x118, flds := [⟨13, 8, .rw, 0, none⟩, ⟨4, 0, .rw, 0, none⟩] },
    { off := 0x120, pair := 1, flds := [⟨31, 0, .ro, 0, none⟩] },
    { off := 0x124, pair := 2, flds := [⟨31, 0, .ro, 0, none⟩] },
    { off := 0x128, flds := [⟨0, 0, .ro, 0, none⟩] },
    { off := 0x12c, flds := [⟨31, 24, .ro, 0xff, none⟩, ⟨17, 16, .ro, 0, none⟩, ⟨15, 0, .ro, 0, none⟩] },
    { off := 0x200, cnt := 64, st := 0x4, flds := [⟨15, 0, .rwi, 0, none⟩] },
    { off := 0x300, cnt := 4, st := 0x20, pair := 1, flds := [⟨31, 10, .rwi, 0, none⟩] },
    { off := 0x304, cnt := 4, st := 0x20, pair := 2, flds := [⟨31, 0, .rwi, 0, none⟩] },
    { off := 0x308, cnt := 4, st := 0x20, flds := [⟨4, 0, .rwi, 8, some (4, 16)⟩] },
    { off := 0x30c, cnt := 4, st := 0x20, flow := true, flds := [⟨31, 0, .rw, 0, none⟩] },
    { off := 0x310, cnt := 4, st := 0x20, flds := [⟨31, 0, .ro, 0, none⟩] },
    { off := 0x314, cnt := 4, st := 0x20, flds := [⟨1, 1, .rwi, 0, none⟩, ⟨0, 0, .rwi, 0, none⟩] },
    { off := 0x400, cnt := 64, st := 0x10, flds := [⟨17, 16, .ro, 0, none⟩, ⟨15, 14, .ro, 0, none⟩, ⟨13, 8, .ro, 0, none⟩, ⟨7, 7, .ro, 0, none⟩, ⟨6, 4, .ro, 0, none⟩, ⟨3, 0, .ro, 0, none⟩] },
    { off := 0x404, cnt := 64, st := 0x10, pair := 1, flds := [⟨31, 0, .ro, 0, none⟩] },
    { off := 0x408, cnt := 64, st := 0x10, pair := 2, flds := [⟨31, 0, .ro, 0, none⟩] },
    { off := 0x40c, cnt := 64, st := 0x10, flds := [⟨31, 24, .ro, 0xff, none⟩, ⟨23, 0, .ro, 0, none⟩] },
    { off := 0x130, flds := [⟨31, 0, .ro, 0, none⟩] },
    { off := 0x134, flds := [⟨31, 0, .ro, 0, none⟩] } ]
/-- Registers of the CORE page (tables about R125). -/
def CORE1 : List RegDef :=
  [ { off := 0x138, flds := [⟨31, 0, .ro, 0, none⟩] },
    { off := 0x13c, flds := [⟨31, 0, .ro, 0, none⟩] },
    { off := 0x140, flds := [⟨31, 0, .ro, 0, none⟩] },
    { off := 0x144, flds := [⟨31, 0, .ro, 0, none⟩] },
    { off := 0x148, flds := [⟨31, 0, .ro, 0, none⟩] } ]
def CORE : List RegDef := CORE0 ++ CORE1

/-- Registers of the MXU page (tables about R178). -/
def MXU0 : List RegDef :=
  [ { off := 0x100, flds := [⟨31, 24, .ro, 0x40, none⟩, ⟨23, 16, .ro, 0x20, none⟩, ⟨15, 8, .ro, 0x60, none⟩, ⟨7, 0, .ro, 0x20, none⟩] },
    { off := 0x104, flds := [⟨2, 1, .rwi, 0, some (0, 2)⟩, ⟨0, 0, .rwi, 0, none⟩] },
    { off := 0x108, flds := [⟨15, 0, .rw, 0x4e20, some (100, 50000)⟩] },
    { off := 0x10c, flds := [⟨31, 25, .ro, 0, none⟩, ⟨24, 18, .ro, 0, none⟩, ⟨17, 14, .ro, 0, none⟩, ⟨13, 10, .ro, 0, none⟩, ⟨9, 9, .ro, 0, none⟩, ⟨8, 8, .ro, 0, none⟩, ⟨5, 3, .ro, 0, none⟩, ⟨2, 0, .ro, 0, none⟩] },
    { off := 0x110, flds := [⟨21, 16, .ro, 0, none⟩, ⟨9, 8, .ro, 0, none⟩, ⟨4, 0, .ro, 0, none⟩] },
    { off := 0x148, flds := [⟨14, 8, .ro, 0, none⟩, ⟨6, 0, .ro, 0, none⟩] },
    { off := 0x150, cnt := 8, st := 0x4, flds := [⟨31, 0, .ro, 0, none⟩] },
    { off := 0x170, flds := [⟨31, 24, .ro, 0xff, none⟩, ⟨23, 16, .ro, 0, none⟩, ⟨15, 8, .ro, 0, none⟩, ⟨7, 6, .ro, 0, none⟩, ⟨5, 0, .ro, 0, none⟩] },
    { off := 0x174, flds := [⟨31, 24, .ro, 0xff, none⟩, ⟨23, 16, .ro, 0, none⟩, ⟨15, 8, .ro, 0, none⟩, ⟨7, 6, .ro, 0, none⟩, ⟨5, 0, .ro, 0, none⟩] },
    { off := 0x178, flds := [⟨12, 8, .rw, 0, none⟩, ⟨7, 0, .rw, 0, none⟩] },
    { off := 0x17c, flds := [⟨31, 0, .ro, 0, none⟩] },
    { off := 0x800, flds := [⟨31, 24, .ro, 0x40, none⟩, ⟨23, 16, .ro, 8, none⟩, ⟨15, 8, .ro, 0x30, none⟩, ⟨7, 0, .ro, 0x10, none⟩] },
    { off := 0x804, flds := [⟨3, 3, .rw, 0, none⟩, ⟨2, 1, .rwi, 0, some (0, 2)⟩, ⟨0, 0, .rw, 0, none⟩] },
    { off := 0x808, flds := [⟨15, 0, .rw, 0x4e20, some (100, 50000)⟩] },
    { off := 0x80c, flds := [⟨25, 20, .ro, 0, none⟩, ⟨19, 15, .ro, 0, none⟩, ⟨14, 12, .ro, 0, none⟩, ⟨3, 3, .ro, 0, none⟩, ⟨2, 2, .ro, 0, none⟩, ⟨1, 1, .ro, 0, none⟩, ⟨0, 0, .ro, 0, none⟩] },
    { off := 0x830, flds := [⟨31, 24, .ro, 0xff, none⟩, ⟨23, 8, .ro, 0, none⟩, ⟨6, 6, .ro, 0, none⟩, ⟨5, 0, .ro, 0, none⟩] },
    { off := 0x834, flds := [⟨12, 12, .rw, 0, none⟩, ⟨11, 9, .rw, 0, none⟩, ⟨8, 0, .rw, 0, none⟩] },
    { off := 0x838, flds := [⟨31, 0, .ro, 0, none⟩] },
    { off := 0xc00, flds := [⟨31, 24, .ro, 8, none⟩, ⟨23, 16, .ro, 8, none⟩, ⟨15, 0, .ro, 0x40, none⟩] },
    { off := 0xc04, flds := [⟨0, 0, .rw, 0, none⟩] },
    { off := 0xc08, flds := [⟨15, 0, .rw, 0x4e20, some (100, 50000)⟩] },
    { off := 0xc0c, flds := [⟨23, 20, .ro, 0, none⟩, ⟨19, 18, .ro, 0, none⟩, ⟨17, 17, .ro, 0, none⟩, ⟨16, 16, .ro, 0, none⟩, ⟨8, 0, .ro, 0, none⟩] },
    { off := 0xc30, flds := [⟨31, 24, .ro, 0xff, none⟩, ⟨21, 16, .ro, 0, none⟩, ⟨15, 0, .ro, 0, none⟩] },
    { off := 0x120, flds := [⟨31, 0, .ro, 0, none⟩] } ]
/-- Registers of the MXU page (tables about R178). -/
def MXU1 : List RegDef :=
  [ { off := 0x124, flds := [⟨31, 0, .ro, 0, none⟩] },
    { off := 0x128, flds := [⟨31, 0, .ro, 0, none⟩] },
    { off := 0x12c, flds := [⟨31, 0, .ro, 0, none⟩] },
    { off := 0x130, flds := [⟨31, 0, .ro, 0, none⟩] },
    { off := 0x134, flds := [⟨31, 0, .ro, 0, none⟩] },
    { off := 0x138, flds := [⟨31, 0, .ro, 0, none⟩] },
    { off := 0x13c, flds := [⟨31, 0, .ro, 0, none⟩] },
    { off := 0x140, flds := [⟨31, 0, .ro, 0, none⟩] },
    { off := 0x144, flds := [⟨31, 0, .ro, 0, none⟩] },
    { off := 0x810, flds := [⟨31, 0, .ro, 0, none⟩] },
    { off := 0x814, flds := [⟨31, 0, .ro, 0, none⟩] },
    { off := 0x818, flds := [⟨31, 0, .ro, 0, none⟩] },
    { off := 0x81c, flds := [⟨31, 0, .ro, 0, none⟩] },
    { off := 0x820, flds := [⟨31, 0, .ro, 0, none⟩] },
    { off := 0x824, flds := [⟨31, 0, .ro, 0, none⟩] },
    { off := 0x828, flds := [⟨31, 0, .ro, 0, none⟩] },
    { off := 0xc10, flds := [⟨31, 0, .ro, 0, none⟩] },
    { off := 0xc14, flds := [⟨31, 0, .ro, 0, none⟩] },
    { off := 0xc18, flds := [⟨31, 0, .ro, 0, none⟩] },
    { off := 0xc1c, flds := [⟨31, 0, .ro, 0, none⟩] },
    { off := 0xc20, flds := [⟨31, 0, .ro, 0, none⟩] },
    { off := 0xc24, flds := [⟨31, 0, .ro, 0, none⟩] },
    { off := 0xc28, flds := [⟨31, 0, .ro, 0, none⟩] },
    { off := 0xc2c, flds := [⟨31, 0, .ro, 0, none⟩] } ]
def MXU : List RegDef := MXU0 ++ MXU1

/-- Registers of the DSP page (tables about R260). -/
def DSP : List RegDef :=
  [ { off := 0x100, flds := [⟨31, 24, .ro, 0x10, none⟩, ⟨23, 16, .ro, 8, none⟩, ⟨15, 0, .ro, 0x400, none⟩] },
    { off := 0x104, flds := [⟨15, 8, .rw, 0x10, some (1, 64)⟩, ⟨0, 0, .rw, 0, none⟩] },
    { off := 0x108, flds := [⟨15, 0, .rw, 0x4e20, some (100, 50000)⟩] },
    { off := 0x10c, flds := [⟨31, 16, .ro, 0, none⟩, ⟨15, 0, .ro, 0, none⟩] },
    { off := 0x110, flds := [⟨13, 0, .rw, 0, some (0, 8192)⟩] },
    { off := 0x150, flds := [⟨31, 0, .ro, 0, none⟩] },
    { off := 0x154, flds := [⟨31, 24, .ro, 0xff, none⟩, ⟨23, 20, .ro, 0, none⟩, ⟨15, 0, .ro, 0, none⟩] },
    { off := 0x180, cnt := 16, st := 0x8, flds := [⟨31, 16, .ro, 0, none⟩, ⟨10, 0, .ro, 0, none⟩] },
    { off := 0x184, cnt := 16, st := 0x8, flds := [⟨31, 30, .ro, 0, none⟩, ⟨26, 16, .ro, 0, none⟩, ⟨15, 0, .ro, 0, none⟩] },
    { off := 0x120, flds := [⟨31, 0, .ro, 0, none⟩] },
    { off := 0x124, flds := [⟨31, 0, .ro, 0, none⟩] },
    { off := 0x128, flds := [⟨31, 0, .ro, 0, none⟩] },
    { off := 0x12c, flds := [⟨31, 0, .ro, 0, none⟩] },
    { off := 0x130, flds := [⟨31, 0, .ro, 0, none⟩] },
    { off := 0x134, flds := [⟨31, 0, .ro, 0, none⟩] },
    { off := 0x138, flds := [⟨31, 0, .ro, 0, none⟩] },
    { off := 0x13c, flds := [⟨31, 0, .ro, 0, none⟩] },
    { off := 0x140, flds := [⟨31, 0, .ro, 0, none⟩] },
    { off := 0x144, flds := [⟨31, 0, .ro, 0, none⟩] },
    { off := 0x148, flds := [⟨31, 0, .ro, 0, none⟩] },
    { off := 0x14c, flds := [⟨31, 0, .ro, 0, none⟩] } ]

/-- Registers of the SLC page (tables about R296). -/
def SLC0 : List RegDef :=
  [ { off := 0x100, flds := [⟨31, 24, .ro, 8, none⟩, ⟨23, 16, .ro, 0x10, none⟩, ⟨15, 12, .ro, 0xc, none⟩, ⟨11, 0, .ro, 0x200, none⟩] },
    { off := 0x104, flds := [⟨2, 2, .rw, 1, none⟩, ⟨1, 1, .rw, 1, none⟩, ⟨0, 0, .rw, 1, none⟩] },
    { off := 0x108, flds := [⟨11, 10, .rwi, 1, none⟩, ⟨9, 8, .rwi, 1, none⟩, ⟨7, 6, .rwi, 1, none⟩, ⟨5, 4, .rwi, 0, none⟩, ⟨3, 2, .rwi, 1, none⟩, ⟨1, 0, .rwi, 1, none⟩] },
    { off := 0x10c, flds := [⟨7, 0, .rw, 0x14, some (5, 200)⟩] },
    { off := 0x110, flds := [⟨11, 0, .rw, 0xa, some (0, 3600)⟩] },
    { off := 0x114, flds := [⟨4, 0, .rw, 0xa, some (2, 30)⟩] },
    { off := 0x118, flds := [⟨31, 16, .ro, 0, none⟩, ⟨15, 14, .ro, 0, none⟩, ⟨8, 0, .ro, 0x140, none⟩] },
    { off := 0x11c, flds := [⟨31, 24, .ro, 0, none⟩, ⟨23, 16, .ro, 0xff, none⟩, ⟨15, 8, .ro, 0, none⟩, ⟨7, 0, .ro, 0, none⟩] },
    { off := 0x800, cnt := 8, st := 0x100, flds := [⟨31, 28, .ro, 0, none⟩, ⟨27, 26, .ro, 0, none⟩, ⟨25, 25, .ro, 0, none⟩, ⟨24, 22, .ro, 4, none⟩, ⟨21, 19, .ro, 0, none⟩, ⟨18, 16, .ro, 0, none⟩, ⟨6, 0, .ro, 0x7f, none⟩] },
    { off := 0x804, cnt := 8, st := 0x100, flds := [⟨31, 16, .ro, 0, none⟩, ⟨15, 0, .ro, 0, none⟩] },
    { off := 0x808, cnt := 8, st := 0x100, flds := [⟨15, 8, .ro, 0, none⟩, ⟨7, 0, .ro, 0, none⟩] },
    { off := 0x80c, cnt := 8, st := 0x100, flds := [⟨31, 0, .ro, 0, none⟩] },
    { off := 0x810, cnt := 8, st := 0x100, flds := [⟨31, 0, .ro, 0, none⟩] },
    { off := 0x814, cnt := 8, st := 0x100, flds := [⟨31, 0, .ro, 0, none⟩] },
    { off := 0x818, cnt := 8, st := 0x100, flds := [⟨31, 0, .ro, 0, none⟩] },
    { off := 0x81c, cnt := 8, st := 0x100, flds := [⟨31, 0, .ro, 0, none⟩] },
    { off := 0x820, cnt := 8, st := 0x100, flds := [⟨31, 0, .ro, 0, none⟩] },
    { off := 0x824, cnt := 8, st := 0x100, flds := [⟨31, 0, .ro, 0, none⟩] },
    { off := 0x828, cnt := 8, st := 0x100, flds := [⟨31, 0, .ro, 0, none⟩] },
    { off := 0x82c, cnt := 8, st := 0x100, flds := [⟨31, 0, .ro, 0, none⟩] },
    { off := 0x830, cnt := 8, st := 0x100, flds := [⟨8, 0, .ro, 0, none⟩] },
    { off := 0x120, flds := [⟨31, 0, .ro, 0, none⟩] },
    { off := 0x124, flds := [⟨31, 0, .ro, 0, none⟩] },
    { off := 0x128, flds := [⟨31, 0, .ro, 0, none⟩] } ]
/-- Registers of the SLC page (tables about R296). -/
def SLC1 : List RegDef :=
  [ { off := 0x12c, flds := [⟨31, 0, .ro, 0, none⟩] },
    { off := 0x130, flds := [⟨31, 0, .ro, 0, none⟩] },
    { off := 0x134, flds := [⟨31, 0, .ro, 0, none⟩] },
    { off := 0x138, flds := [⟨31, 0, .ro, 0, none⟩] },
    { off := 0x13c, flds := [⟨31, 0, .ro, 0, none⟩] } ]
def SLC : List RegDef := SLC0 ++ SLC1

/-- Registers of the SAP page (tables about R332). -/
def SAP0 : List RegDef :=
  [ { off := 0x200, flds := [⟨31, 28, .ro, 8, none⟩, ⟨27, 20, .ro, 0x10, none⟩, ⟨19, 8, .ro, 0x800, none⟩, ⟨7, 0, .ro, 0x10, none⟩] },
    { off := 0x204, flds := [⟨15, 0, .rw, 0x4e20, some (100, 50000)⟩] },
    { off := 0x208, flds := [⟨23, 16, .ro, 0, none⟩, ⟨15, 8, .ro, 0, none⟩, ⟨7, 0, .ro, 0, none⟩] },
    { off := 0x20c, flds := [⟨31, 16, .ro, 0, none⟩, ⟨15, 0, .ro, 0, none⟩] },
    { off := 0x210, flds := [⟨3, 0, .ro, 0, none⟩] },
    { off := 0x100, cnt := 8, st := 0x200, flds := [⟨31, 28, .ro, 0, none⟩, ⟨27, 25, .ro, 0, none⟩, ⟨24, 22, .ro, 0, none⟩, ⟨21, 20, .ro, 0, none⟩, ⟨11, 11, .ro, 0, none⟩, ⟨10, 0, .ro, 0, none⟩] },
    { off := 0x104, cnt := 8, st := 0x200, flds := [⟨27, 16, .ro, 0, none⟩, ⟨15, 15, .ro, 0, none⟩, ⟨14, 11, .ro, 0, none⟩, ⟨10, 0, .ro, 0, none⟩] },
    { off := 0x108, cnt := 8, st := 0x200, flds := [⟨10, 0, .rw, 0, none⟩] },
    { off := 0x10c, cnt := 8, st := 0x200, flow := true, flds := [⟨31, 0, .rw, 0, none⟩] },
    { off := 0x110, cnt := 8, st := 0x200, flds := [⟨31, 24, .ro, 0xff, none⟩, ⟨10, 0, .ro, 0, none⟩] },
    { off := 0x114, cnt := 8, st := 0x200, flds := [⟨31, 16, .ro, 0, none⟩, ⟨9, 0, .ro, 0x280, none⟩] },
    { off := 0x118, cnt := 8, st := 0x200, flds := [⟨25, 0, .ro, 0, none⟩] },
    { off := 0x120, cnt := 8, st := 0x200, flds := [⟨31, 0, .ro, 0, none⟩] },
    { off := 0x124, cnt := 8, st := 0x200, flds := [⟨31, 0, .ro, 0, none⟩] },
    { off := 0x128, cnt := 8, st := 0x200, flds := [⟨31, 0, .ro, 0, none⟩] },
    { off := 0x12c, cnt := 8, st := 0x200, flds := [⟨31, 0, .ro, 0, none⟩] },
    { off := 0x130, cnt := 8, st := 0x200, flds := [⟨31, 0, .ro, 0, none⟩] },
    { off := 0x220, flds := [⟨31, 0, .ro, 0, none⟩] },
    { off := 0x224, flds := [⟨31, 0, .ro, 0, none⟩] },
    { off := 0x228, flds := [⟨31, 0, .ro, 0, none⟩] } ]
/-- The argument words and scalar registers of a unit, 16 of each per unit (R332). -/
def SAPargs : List RegDef :=
  (List.range 16).map (fun i => { off := 0x140 + 4 * i, cnt := 8, st := 0x200, flds := [⟨31, 0, .rw, 0, none⟩] })
  ++ (List.range 16).map (fun i => { off := 0x180 + 4 * i, cnt := 8, st := 0x200, flds := [⟨31, 0, .ro, 0, none⟩] })
def SAP : List RegDef := SAP0 ++ SAPargs

/-- Registers of the KVM page (tables about R379). -/
def KVM : List RegDef :=
  [ { off := 0x100, flds := [⟨31, 16, .ro, 0x100, none⟩, ⟨15, 0, .ro, 0x40, none⟩] },
    { off := 0x104, flds := [⟨11, 0, .rwi, 0x44, some (1, 4095)⟩] },
    { off := 0x108, pair := 1, flds := [⟨31, 12, .rwi, 0, none⟩] },
    { off := 0x10c, pair := 2, flds := [⟨8, 0, .rwi, 0, none⟩] },
    { off := 0x110, flds := [⟨23, 0, .ro, 0, none⟩] },
    { off := 0x114, flds := [⟨23, 0, .ro, 0, none⟩] },
    { off := 0x118, flds := [⟨23, 0, .ro, 0, none⟩] },
    { off := 0x11c, flds := [⟨23, 0, .ro, 0, none⟩] },
    { off := 0x120, flds := [⟨23, 0, .rw, 0, none⟩] },
    { off := 0x124, flds := [⟨15, 0, .rw, 0x4e20, some (100, 50000)⟩] },
    { off := 0x130, flds := [⟨31, 0, .ro, 0, none⟩] },
    { off := 0x134, flds := [⟨31, 0, .ro, 0, none⟩] },
    { off := 0x138, flds := [⟨31, 0, .ro, 0, none⟩] },
    { off := 0x13c, flds := [⟨31, 0, .ro, 0, none⟩] },
    { off := 0x140, flds := [⟨31, 0, .ro, 0, none⟩] },
    { off := 0x144, flds := [⟨31, 0, .ro, 0, none⟩] },
    { off := 0x148, flds := [⟨31, 0, .ro, 0, none⟩] },
    { off := 0x14c, flds := [⟨31, 0, .ro, 0, none⟩] },
    { off := 0x200, cnt := 64, st := 0x4, flds := [⟨31, 19, .rwi, 0, none⟩, ⟨17, 0, .rwi, 0, none⟩] } ]

/-- Registers of the PFX page (tables about R380). -/
def PFX : List RegDef :=
  [ { off := 0x100, flds := [⟨31, 0, .ro, 0x804000, none⟩] },
    { off := 0x104, flds := [⟨0, 0, .rwi, 1, none⟩] },
    { off := 0x108, flds := [⟨15, 8, .ro, 7, none⟩, ⟨7, 0, .rwi, 0x14, some (1, 128)⟩] },
    { off := 0x10c, pair := 1, flds := [⟨31, 6, .rwi, 0, none⟩] },
    { off := 0x110, pair := 2, flds := [⟨8, 0, .rwi, 0, none⟩] },
    { off := 0x114, flds := [⟨23, 0, .rwi, 0, some (1, 16777214)⟩] },
    { off := 0x118, pair := 1, flds := [⟨31, 6, .rwi, 0, none⟩] },
    { off := 0x11c, pair := 2, flds := [⟨8, 0, .rwi, 0, none⟩] },
    { off := 0x120, flds := [⟨4, 0, .rwi, 0x10, some (4, 24)⟩] },
    { off := 0x124, flds := [⟨23, 0, .rw, 0, none⟩] },
    { off := 0x128, flds := [⟨23, 0, .ro, 0, none⟩] },
    { off := 0x12c, flds := [⟨23, 0, .ro, 0, none⟩] },
    { off := 0x130, flds := [⟨23, 0, .ro, 0, none⟩] },
    { off := 0x134, flds := [⟨15, 0, .rw, 0x4e20, some (100, 50000)⟩] },
    { off := 0x140, flds := [⟨31, 0, .ro, 0, none⟩] },
    { off := 0x144, flds := [⟨31, 0, .ro, 0, none⟩] },
    { off := 0x148, flds := [⟨31, 0, .ro, 0, none⟩] },
    { off := 0x14c, flds := [⟨31, 0, .ro, 0, none⟩] },
    { off := 0x150, flds := [⟨31, 0, .ro, 0, none⟩] },
    { off := 0x154, flds := [⟨31, 0, .ro, 0, none⟩] },
    { off := 0x158, flds := [⟨31, 0, .ro, 0, none⟩] },
    { off := 0x180, cnt := 4, st := 0x4, flds := [⟨31, 0, .wo, 0, none⟩] } ]

/-- Registers of the RTR page (tables about R455). -/
def RTR : List RegDef :=
  [ { off := 0x100, flds := [⟨31, 0, .ro, 0x4100405, none⟩] },
    { off := 0x104, flds := [⟨3, 0, .rw, 4, some (1, 14)⟩] },
    { off := 0x108, flds := [⟨9, 0, .ro, 0, none⟩] },
    { off := 0x10c, flds := [⟨1, 1, .ro, 0, none⟩, ⟨0, 0, .ro, 0, none⟩] },
    { off := 0x110, cnt := 4, st := 0x4, flds := [⟨31, 0, .rw, 0, none⟩] },
    { off := 0x120, flds := [⟨31, 0, .ro, 0, none⟩] },
    { off := 0x124, flds := [⟨31, 0, .ro, 0, none⟩] },
    { off := 0x128, flds := [⟨31, 0, .ro, 0, none⟩] },
    { off := 0x12c, flds := [⟨31, 0, .ro, 0, none⟩] },
    { off := 0x130, flds := [⟨31, 0, .ro, 0, none⟩] },
    { off := 0x134, flds := [⟨31, 0, .ro, 0, none⟩] },
    { off := 0x138, flds := [⟨31, 0, .ro, 0, none⟩] },
    { off := 0x13c, flds := [⟨31, 0, .ro, 0, none⟩] },
    { off := 0x140, cnt := 4, st := 0x4, flds := [⟨31, 0, .ro, 0, none⟩] } ]

/-- Registers of the XPR page (tables about R455). -/
def XPR : List RegDef :=
  [ { off := 0x100, flds := [⟨31, 0, .ro, 0x8400200, none⟩] },
    { off := 0x104, flds := [⟨0, 0, .rwi, 1, none⟩] },
    { off := 0x108, pair := 1, flds := [⟨31, 0, .ro, 0, none⟩] },
    { off := 0x10c, pair := 2, flds := [⟨31, 0, .ro, 0, none⟩] },
    { off := 0x110, flds := [⟨31, 0, .ro, 0, none⟩] },
    { off := 0x114, flds := [⟨31, 0, .ro, 0, none⟩] },
    { off := 0x118, flds := [⟨31, 0, .ro, 0, none⟩] },
    { off := 0x11c, flds := [⟨31, 0, .ro, 0, none⟩] } ]

/-- Registers of the BGH page (tables about R455). -/
def BGH : List RegDef :=
  [ { off := 0x100, flds := [⟨31, 0, .ro, 0x8000400, none⟩] },
    { off := 0x104, flds := [⟨4, 4, .rw, 1, none⟩, ⟨3, 3, .rw, 1, none⟩, ⟨2, 2, .rw, 1, none⟩, ⟨1, 0, .rwi, 0, none⟩] },
    { off := 0x108, flds := [⟨31, 24, .ro, 0, none⟩, ⟨23, 20, .ro, 0, none⟩, ⟨19, 18, .ro, 0, none⟩, ⟨15, 5, .ro, 0, none⟩, ⟨4, 0, .ro, 0, none⟩] },
    { off := 0x10c, flds := [⟨15, 0, .rw, 0x3e8, some (10, 50000)⟩] },
    { off := 0x110, cnt := 4, st := 0x4, flds := [⟨31, 0, .ro, 0, none⟩] },
    { off := 0x120, flds := [⟨31, 0, .ro, 0, none⟩] },
    { off := 0x124, flds := [⟨31, 0, .rwi, 0, none⟩] },
    { off := 0x128, flds := [⟨31, 0, .rw, 0, none⟩] },
    { off := 0x12c, flow := true, flds := [⟨31, 0, .rw, 0, none⟩] },
    { off := 0x130, cnt := 8, st := 0x4, flds := [⟨31, 0, .ro, 0, none⟩] },
    { off := 0x150, flds := [⟨31, 0, .ro, 0, none⟩] },
    { off := 0x180, cnt := 8, st := 0x4, flds := [⟨31, 16, .ro, 0, none⟩, ⟨15, 0, .ro, 0, none⟩] } ]

/-- Registers of the HIF page (tables about R488). -/
def HIF0 : List RegDef :=
  [ { off := 0x100, flds := [⟨31, 0, .ro, 0x10044004, none⟩] },
    { off := 0x104, flds := [⟨31, 29, .ro, 0, none⟩, ⟨28, 24, .ro, 0, none⟩, ⟨23, 23, .ro, 0, none⟩, ⟨22, 20, .ro, 0, none⟩, ⟨15, 0, .ro, 0, none⟩] },
    { off := 0x108, flds := [⟨1, 1, .rw, 1, none⟩, ⟨0, 0, .rw, 1, none⟩] },
    { off := 0x10c, flds := [⟨4, 0, .ro, 0x1c, none⟩] },
    { off := 0x110, pair := 1, flds := [⟨31, 28, .rw, 0, none⟩] },
    { off := 0x114, pair := 2, flds := [⟨8, 0, .rw, 0, none⟩] },
    { off := 0x118, flds := [⟨15, 0, .rw, 0x1388, some (100, 50000)⟩] },
    { off := 0x11c, flds := [⟨5, 0, .rw, 0xa, some (1, 50)⟩] },
    { off := 0x120, flds := [⟨31, 0, .ro, 0, none⟩] },
    { off := 0x124, flds := [⟨31, 0, .ro, 0, none⟩] },
    { off := 0x128, flds := [⟨31, 0, .ro, 0, none⟩] },
    { off := 0x12c, flds := [⟨31, 0, .ro, 0, none⟩] },
    { off := 0x130, flds := [⟨31, 0, .ro, 0, none⟩] },
    { off := 0x134, flds := [⟨31, 0, .ro, 0, none⟩] },
    { off := 0x138, flds := [⟨31, 0, .ro, 0, none⟩] },
    { off := 0x13c, flds := [⟨31, 0, .ro, 0, none⟩] },
    { off := 0x140, flds := [⟨31, 16, .ro, 0, none⟩, ⟨3, 0, .ro, 0, none⟩] },
    { off := 0x200, cnt := 4, st := 0x20, pair := 1, flds := [⟨31, 12, .rw, 0, none⟩] },
    { off := 0x204, cnt := 4, st := 0x20, pair := 2, flds := [⟨31, 0, .rw, 0, none⟩] },
    { off := 0x208, cnt := 4, st := 0x20, flds := [⟨4, 0, .rw, 8, some (4, 16)⟩] },
    { off := 0x20c, cnt := 4, st := 0x20, flow := true, flds := [⟨31, 0, .rw, 0, none⟩] },
    { off := 0x210, cnt := 4, st := 0x20, flds := [⟨31, 0, .ro, 0, none⟩] },
    { off := 0x214, cnt := 4, st := 0x20, pair := 1, flds := [⟨31, 2, .rw, 0, none⟩] },
    { off := 0x218, cnt := 4, st := 0x20, pair := 2, flds := [⟨31, 0, .rw, 0, none⟩] } ]
/-- Registers of the HIF page (tables about R488). -/
def HIF1 : List RegDef :=
  [ { off := 0x21c, cnt := 4, st := 0x20, flds := [⟨1, 1, .ro, 0, none⟩, ⟨0, 0, .rw, 0, none⟩] } ]
def HIF : List RegDef := HIF0 ++ HIF1

/-- Registers of the EVQ page (tables about R490). -/
def EVQ : List RegDef :=
  [ { off := 0x100, flds := [⟨31, 0, .ro, 0x40001000, none⟩] },
    { off := 0x104, flds := [⟨12, 0, .ro, 0, none⟩] },
    { off := 0x108, flds := [⟨12, 0, .ro, 0, none⟩] },
    { off := 0x10c, flds := [⟨31, 0, .ro, 0, none⟩] },
    { off := 0x110, flds := [⟨31, 0, .ro, 0, none⟩] },
    { off := 0x114, flds := [⟨31, 0, .ro, 0, none⟩] },
    { off := 0x400, cnt := 64, st := 0x20, pair := 1, flds := [⟨31, 12, .rw, 0, none⟩] },
    { off := 0x404, cnt := 64, st := 0x20, pair := 2, flds := [⟨31, 0, .rw, 0, none⟩] },
    { off := 0x408, cnt := 64, st := 0x20, flds := [⟨4, 0, .rw, 8, some (6, 16)⟩] },
    { off := 0x40c, cnt := 64, st := 0x20, flds := [⟨31, 0, .ro, 0, none⟩] },
    { off := 0x410, cnt := 64, st := 0x20, flow := true, flds := [⟨31, 0, .rw, 0, none⟩] },
    { off := 0x414, cnt := 64, st := 0x20, pair := 1, flds := [⟨31, 2, .rw, 0, none⟩] },
    { off := 0x418, cnt := 64, st := 0x20, pair := 2, flds := [⟨31, 0, .rw, 0, none⟩] },
    { off := 0x41c, cnt := 64, st := 0x20, flds := [⟨31, 16, .rw, 0, none⟩, ⟨15, 8, .rw, 1, some (1, 255)⟩, ⟨0, 0, .rw, 0, none⟩] },
    { off := 0xc00, cnt := 64, st := 0x4, flds := [⟨31, 0, .ro, 0, none⟩] },
    { off := 0xd00, cnt := 64, st := 0x4, flds := [⟨31, 0, .ro, 1, none⟩] } ]

/-- Registers of the CLK page (tables about R513). -/
def CLK : List RegDef :=
  [ { off := 0x100, flds := [⟨31, 16, .ro, 0x1000, none⟩, ⟨15, 8, .ro, 6, none⟩, ⟨7, 0, .ro, 0x19, none⟩] },
    { off := 0x104, flds := [⟨5, 0, .ro, 0x30, none⟩] },
    { off := 0x108, flds := [⟨31, 31, .ro, 0, none⟩, ⟨30, 30, .ro, 0, none⟩, ⟨29, 29, .ro, 0, none⟩, ⟨15, 0, .ro, 0, none⟩] },
    { off := 0x10c, flds := [⟨18, 16, .rw, 0, some (0, 5)⟩, ⟨14, 9, .rw, 0, none⟩, ⟨8, 0, .rw, 0, none⟩] },
    { off := 0x110, flds := [⟨31, 28, .ro, 0, none⟩, ⟨27, 16, .ro, 0, none⟩, ⟨11, 0, .ro, 0, none⟩] },
    { off := 0x114, flds := [⟨31, 0, .ro, 0, none⟩] },
    { off := 0x118, flds := [⟨31, 30, .ro, 0, none⟩, ⟨18, 16, .ro, 0, none⟩, ⟨14, 9, .ro, 0, none⟩, ⟨8, 0, .ro, 0, none⟩] },
    { off := 0x120, pair := 1, flds := [⟨31, 0, .ro, 0, none⟩] },
    { off := 0x124, pair := 2, flds := [⟨31, 0, .ro, 0, none⟩] },
    { off := 0x130, flds := [⟨31, 0, .ro, 0, none⟩] },
    { off := 0x134, flds := [⟨31, 0, .ro, 0, none⟩] },
    { off := 0x138, flds := [⟨31, 0, .ro, 0, none⟩] } ]

/-- Registers of the TIM page (tables about R515). -/
def TIM : List RegDef :=
  [ { off := 0x100, flds := [⟨31, 16, .ro, 0x61a8, none⟩, ⟨15, 0, .ro, 4, none⟩] },
    { off := 0x104, flds := [⟨15, 8, .rw, 0xa, some (1, 255)⟩, ⟨1, 1, .rw, 0, none⟩, ⟨0, 0, .rw, 0, none⟩] },
    { off := 0x108, pair := 1, flds := [⟨31, 0, .ro, 0, none⟩] },
    { off := 0x10c, pair := 2, flds := [⟨31, 0, .ro, 0, none⟩] },
    { off := 0x110, pair := 1, flds := [⟨31, 0, .ro, 0, none⟩] },
    { off := 0x114, pair := 2, flds := [⟨31, 0, .ro, 0, none⟩] },
    { off := 0x118, pair := 1, flds := [⟨31, 0, .ro, 0, none⟩] },
    { off := 0x11c, pair := 2, flds := [⟨31, 0, .ro, 0, none⟩] },
    { off := 0x120, flds := [⟨31, 31, .ro, 0, none⟩, ⟨15, 0, .ro, 0, none⟩] },
    { off := 0x124, pair := 1, flds := [⟨31, 0, .rw, 0, none⟩] },
    { off := 0x128, pair := 2, flds := [⟨31, 0, .rw, 0, none⟩] },
    { off := 0x12c, flds := [⟨15, 0, .ro, 0, none⟩] },
    { off := 0x130, flds := [⟨2, 2, .ro, 0, none⟩, ⟨1, 1, .ro, 0, none⟩, ⟨0, 0, .ro, 0, none⟩] } ]

/-- Registers of the PWR page (tables about R538). -/
def PWR : List RegDef :=
  [ { off := 0x100, flds := [⟨31, 16, .ro, 0x1c20, none⟩, ⟨15, 8, .ro, 0x10, none⟩, ⟨7, 0, .ro, 2, none⟩] },
    { off := 0x104, flds := [⟨0, 0, .rw, 1, none⟩] },
    { off := 0x108, flds := [⟨15, 0, .rw, 0x1c20, some (1000, 7200)⟩] },
    { off := 0x10c, flds := [⟨31, 29, .ro, 0, none⟩, ⟨21, 16, .ro, 0x30, none⟩, ⟨15, 0, .ro, 0x1c20, none⟩] },
    { off := 0x110, flds := [⟨31, 16, .ro, 0, none⟩, ⟨15, 0, .ro, 0, none⟩] },
    { off := 0x114, flds := [⟨15, 0, .ro, 0, none⟩] },
    { off := 0x118, flds := [⟨31, 16, .ro, 0, none⟩, ⟨15, 0, .ro, 0, none⟩] },
    { off := 0x11c, flds := [⟨31, 16, .ro, 0, none⟩, ⟨15, 0, .ro, 0, none⟩] },
    { off := 0x120, flds := [⟨31, 16, .ro, 0, none⟩, ⟨15, 0, .ro, 0, none⟩] },
    { off := 0x124, flds := [⟨4, 4, .ro, 0, none⟩, ⟨3, 3, .ro, 0, none⟩, ⟨2, 2, .ro, 0, none⟩, ⟨1, 1, .ro, 0, none⟩, ⟨0, 0, .ro, 0, none⟩] },
    { off := 0x128, flds := [⟨31, 31, .ro, 0, none⟩, ⟨30, 30, .ro, 0, none⟩, ⟨15, 0, .ro, 0, none⟩] },
    { off := 0x12c, flds := [⟨11, 0, .rw, 0, some (0, 2351)⟩] },
    { off := 0x130, flds := [⟨31, 0, .ro, 0, none⟩] },
    { off := 0x140, flds := [⟨31, 0, .ro, 0, none⟩] },
    { off := 0x144, flds := [⟨31, 0, .ro, 0, none⟩] },
    { off := 0x148, flds := [⟨31, 0, .ro, 0, none⟩] },
    { off := 0x14c, flds := [⟨31, 0, .ro, 0, none⟩] } ]

/-- Registers of the TPWR page (tables about R538). -/
def TPWR : List RegDef :=
  [ { off := 0x100, flds := [⟨31, 0, .ro, 0x40020069, none⟩] },
    { off := 0x104, flds := [⟨2, 2, .ro, 0, none⟩, ⟨1, 1, .ro, 0, none⟩, ⟨0, 0, .ro, 0, none⟩] },
    { off := 0x108, flds := [⟨31, 0, .ro, 0, none⟩] },
    { off := 0x10c, flds := [⟨31, 0, .ro, 0, none⟩] },
    { off := 0x110, flds := [⟨31, 0, .rw, 0, none⟩] },
    { off := 0x114, flds := [⟨31, 0, .rw, 0, none⟩] },
    { off := 0x118, flds := [⟨15, 0, .rw, 0, none⟩] },
    { off := 0x11c, flds := [⟨31, 16, .ro, 0, none⟩, ⟨15, 0, .ro, 0, none⟩] },
    { off := 0x120, flds := [⟨31, 16, .ro, 0, none⟩, ⟨15, 0, .ro, 0, none⟩] },
    { off := 0x124, flds := [⟨31, 16, .ro, 0, none⟩, ⟨15, 0, .ro, 0, none⟩] },
    { off := 0x128, flds := [⟨5, 0, .ro, 0x30, none⟩] },
    { off := 0x130, flds := [⟨31, 0, .ro, 0, none⟩] },
    { off := 0x134, flds := [⟨31, 0, .ro, 0, none⟩] } ]

/-- Registers of the BOOT page (tables about R572). -/
def BOOT : List RegDef :=
  [ { off := 0x100, flds := [⟨31, 24, .ro, 8, none⟩, ⟨23, 16, .ro, 0x10, none⟩] },
    { off := 0x104, flds := [⟨1, 1, .rw, 1, none⟩, ⟨0, 0, .rw, 0, none⟩] },
    { off := 0x108, flds := [⟨31, 28, .ro, 0, none⟩, ⟨27, 27, .ro, 0, none⟩, ⟨23, 20, .ro, 0, none⟩, ⟨19, 16, .ro, 0, none⟩, ⟨6, 0, .ro, 0, none⟩] },
    { off := 0x110, flds := [⟨31, 0, .ro, 0, none⟩] },
    { off := 0x114, flds := [⟨31, 0, .ro, 0, none⟩] },
    { off := 0x118, pair := 1, flds := [⟨31, 0, .ro, 0, none⟩] },
    { off := 0x11c, pair := 2, flds := [⟨31, 0, .ro, 0, none⟩] },
    { off := 0x120, pair := 1, flds := [⟨31, 0, .ro, 0, none⟩] },
    { off := 0x124, pair := 2, flds := [⟨31, 0, .ro, 0, none⟩] },
    { off := 0x128, flds := [⟨11, 0, .ro, 0, none⟩] },
    { off := 0x12c, flds := [⟨31, 0, .ro, 0, none⟩] },
    { off := 0x130, flds := [⟨31, 0, .ro, 0, none⟩] },
    { off := 0x134, flds := [⟨31, 0, .ro, 0, none⟩] },
    { off := 0x138, flds := [⟨31, 0, .ro, 0, none⟩] },
    { off := 0x13c, flds := [⟨31, 0, .ro, 0, none⟩] },
    { off := 0x140, flds := [⟨31, 0, .ro, 0, none⟩] },
    { off := 0x144, flds := [⟨31, 16, .ro, 0, none⟩, ⟨15, 0, .ro, 0, none⟩] },
    { off := 0x148, flds := [⟨31, 16, .ro, 0, none⟩, ⟨15, 0, .ro, 0, none⟩] },
    { off := 0x14c, flds := [⟨31, 16, .ro, 0, none⟩] } ]

/-- Registers of the LIC page (tables about R574). -/
def LIC : List RegDef :=
  [ { off := 0x100, flds := [⟨31, 24, .ro, 0, none⟩, ⟨23, 16, .ro, 1, none⟩, ⟨15, 8, .ro, 1, none⟩, ⟨1, 1, .ro, 0, none⟩, ⟨0, 0, .ro, 1, none⟩] },
    { off := 0x104, flds := [⟨31, 24, .ro, 0xff, none⟩, ⟨23, 16, .ro, 0xff, none⟩, ⟨15, 8, .ro, 0x30, none⟩, ⟨7, 0, .ro, 0x3c, none⟩] },
    { off := 0x108, flds := [⟨31, 16, .ro, 0, none⟩, ⟨15, 0, .ro, 0x1c20, none⟩] },
    { off := 0x10c, flds := [⟨7, 0, .ro, 0, none⟩] },
    { off := 0x110, pair := 1, flds := [⟨31, 0, .ro, 0, none⟩] },
    { off := 0x114, pair := 2, flds := [⟨31, 0, .ro, 0, none⟩] },
    { off := 0x118, flds := [⟨10, 0, .rw, 0, none⟩] },
    { off := 0x400, cnt := 256, st := 0x4, flds := [⟨31, 0, .rw, 0, none⟩] },
    { off := 0x800, cnt := 256, st := 0x4, flds := [⟨31, 0, .ro, 0, none⟩] } ]

/-- Registers of the IDN page (tables about R576). -/
def IDN : List RegDef :=
  [ { off := 0x100, cnt := 4, st := 0x4, flds := [⟨31, 0, .ro, 0, none⟩] },
    { off := 0x110, cnt := 4, st := 0x4, flds := [⟨31, 0, .ro, 0, none⟩] },
    { off := 0x120, cnt := 2, st := 0x4, flds := [⟨31, 0, .ro, 0, none⟩] },
    { off := 0x128, flds := [⟨15, 0, .ro, 0, none⟩] },
    { off := 0x12c, flds := [⟨15, 8, .ro, 0x3f, none⟩, ⟨7, 0, .ro, 0x3c, none⟩] },
    { off := 0x130, pair := 1, flds := [⟨31, 0, .ro, 0xffffffff, none⟩] },
    { off := 0x134, pair := 2, flds := [⟨31, 0, .ro, 0xffffdfff, none⟩] },
    { off := 0x140, cnt := 4, st := 0x4, flds := [⟨31, 0, .ro, 0, none⟩] },
    { off := 0x150, flds := [⟨31, 16, .ro, 0, none⟩, ⟨15, 8, .ro, 0, none⟩, ⟨7, 0, .ro, 0, none⟩] } ]

/-- Registers of the TILE page (tables about R576). -/
def TILE : List RegDef :=
  [ { off := 0x100, flds := [⟨31, 28, .ro, 0, none⟩, ⟨13, 8, .ro, 0, none⟩, ⟨6, 4, .ro, 0, none⟩, ⟨2, 0, .ro, 0, none⟩] },
    { off := 0x104, flds := [⟨31, 16, .ro, 0, none⟩, ⟨15, 0, .ro, 0, none⟩] },
    { off := 0x108, flds := [⟨25, 16, .ro, 0, none⟩, ⟨9, 0, .ro, 0, none⟩] },
    { off := 0x10c, flds := [⟨25, 16, .ro, 0, none⟩, ⟨9, 0, .ro, 0, none⟩] },
    { off := 0x110, flds := [⟨31, 0, .ro, 0, none⟩] },
    { off := 0x114, flds := [⟨31, 0, .ro, 0, none⟩] },
    { off := 0x140, cnt := 40, st := 0x4, flds := [⟨31, 0, .ro, 0, none⟩] } ]

/-- Registers of the FUS page (tables about R604). -/
def FUS : List RegDef :=
  [ { off := 0x100, flds := [⟨31, 0, .ro, 0x10030304, none⟩] },
    { off := 0x104, flds := [⟨0, 0, .rw, 1, none⟩] },
    { off := 0x108, flds := [⟨15, 0, .rw, 0x64, some (1, 65535)⟩] },
    { off := 0x10c, flds := [⟨13, 0, .rw, 0x18, some (1, 8760)⟩] },
    { off := 0x110, flds := [⟨15, 8, .rw, 8, some (2, 255)⟩, ⟨7, 0, .rw, 4, some (1, 255)⟩] },
    { off := 0x114, flds := [⟨14, 9, .rw, 0, none⟩, ⟨8, 3, .rw, 0, none⟩, ⟨2, 0, .rw, 0, none⟩] },
    { off := 0x118, flds := [⟨31, 0, .ro, 0, none⟩] },
    { off := 0x11c, flds := [⟨31, 0, .ro, 0, none⟩] },
    { off := 0x120, flds := [⟨31, 0, .ro, 0, none⟩] },
    { off := 0x124, flds := [⟨25, 0, .ro, 0, none⟩] },
    { off := 0x128, flds := [⟨31, 24, .ro, 0, none⟩, ⟨23, 16, .ro, 0, none⟩, ⟨15, 12, .ro, 0, none⟩, ⟨11, 8, .ro, 0, none⟩, ⟨5, 0, .ro, 0x30, none⟩] },
    { off := 0x12c, flds := [⟨31, 0, .ro, 0xffffffff, none⟩] },
    { off := 0x140, cnt := 16, st := 0x4, flds := [⟨31, 31, .ro, 0, none⟩, ⟨30, 29, .ro, 0, none⟩, ⟨27, 24, .ro, 0, none⟩, ⟨23, 12, .ro, 0, none⟩, ⟨11, 10, .ro, 0, none⟩] },
    { off := 0x180, flds := [⟨31, 0, .ro, 0, none⟩] },
    { off := 0x184, flds := [⟨31, 0, .ro, 0, none⟩] },
    { off := 0x188, pair := 1, flds := [⟨31, 0, .ro, 0, none⟩] },
    { off := 0x18c, pair := 2, flds := [⟨31, 0, .ro, 0xe0000000, none⟩] },
    { off := 0x190, pair := 1, flds := [⟨31, 0, .ro, 0, none⟩] },
    { off := 0x194, pair := 2, flds := [⟨31, 0, .ro, 0, none⟩] },
    { off := 0x198, flds := [⟨15, 8, .ro, 0xff, none⟩, ⟨7, 0, .ro, 0xff, none⟩] },
    { off := 0x1a0, flds := [⟨31, 0, .ro, 0, none⟩] },
    { off := 0x1a4, flds := [⟨31, 0, .ro, 0, none⟩] },
    { off := 0x1a8, flds := [⟨31, 0, .ro, 0, none⟩] },
    { off := 0x1ac, flds := [⟨31, 0, .ro, 0, none⟩] } ]

/-- Registers of the THM page (tables about R633). -/
def THM : List RegDef :=
  [ { off := 0x100, flds := [⟨31, 0, .ro, 0x4200804, none⟩] },
    { off := 0x104, flds := [⟨10, 5, .rw, 8, some (2, 32)⟩, ⟨4, 3, .rw, 0, none⟩, ⟨1, 1, .rw, 0, none⟩, ⟨0, 0, .rw, 1, none⟩] },
    { off := 0x108, flds := [⟨31, 16, .rw, 0x410, some (500, 2000)⟩, ⟨15, 0, .rw, 0xe10, some (500, 5000)⟩] },
    { off := 0x10c, flds := [⟨15, 0, .rw, 0x2ec, some (748, 5000)⟩] },
    { off := 0x110, flds := [⟨7, 0, .rw, 0x28, some (10, 40)⟩] },
    { off := 0x114, flds := [⟨31, 16, .ro, 0, none⟩, ⟨15, 0, .ro, 0, none⟩] },
    { off := 0x118, flds := [⟨31, 16, .ro, 0, none⟩, ⟨15, 0, .ro, 0, none⟩] },
    { off := 0x11c, flds := [⟨31, 31, .ro, 0, none⟩, ⟨29, 16, .ro, 0, none⟩, ⟨15, 0, .ro, 0, none⟩] },
    { off := 0x120, flds := [⟨15, 0, .ro, 0, none⟩] },
    { off := 0x124, flds := [⟨21, 16, .ro, 0x30, none⟩, ⟨6, 6, .ro, 0, none⟩, ⟨5, 5, .ro, 0, none⟩, ⟨4, 4, .ro, 0, none⟩, ⟨3, 3, .ro, 0, none⟩, ⟨2, 2, .ro, 0, none⟩, ⟨1, 1, .ro, 0, none⟩, ⟨0, 0, .ro, 0, none⟩] },
    { off := 0x128, flds := [⟨31, 16, .ro, 0, none⟩, ⟨15, 0, .ro, 0, none⟩] },
    { off := 0x12c, flds := [⟨13, 8, .ro, 0, none⟩, ⟨5, 0, .ro, 0, none⟩] },
    { off := 0x130, flds := [⟨9, 8, .rw, 0, none⟩, ⟨5, 0, .rw, 0, none⟩] },
    { off := 0x134, flds := [⟨31, 0, .ro, 0, none⟩] },
    { off := 0x138, flds := [⟨16, 0, .ro, 0, none⟩] },
    { off := 0x13c, flds := [⟨31, 0, .ro, 0, none⟩] },
    { off := 0x150, flds := [⟨31, 0, .ro, 0, none⟩] },
    { off := 0x154, flds := [⟨31, 0, .ro, 0, none⟩] },
    { off := 0x158, flds := [⟨31, 0, .ro, 0, none⟩] },
    { off := 0x15c, flds := [⟨31, 0, .ro, 0, none⟩] } ]

/-- Registers of the TTHM page (tables about R633). -/
def TTHM : List RegDef :=
  [ { off := 0x100, flds := [⟨31, 0, .ro, 0x4200800, none⟩] },
    { off := 0x110, cnt := 4, st := 0x4, flds := [⟨31, 16, .ro, 0, none⟩, ⟨15, 0, .ro, 0, none⟩] },
    { off := 0x120, cnt := 4, st := 0x4, flds := [⟨31, 16, .ro, 0, none⟩, ⟨15, 0, .ro, 0, none⟩] },
    { off := 0x130, flds := [⟨29, 24, .ro, 0x30, none⟩, ⟨21, 16, .ro, 0x30, none⟩, ⟨13, 8, .ro, 0x30, none⟩, ⟨5, 0, .ro, 0x30, none⟩] },
    { off := 0x134, flds := [⟨31, 24, .ro, 0, none⟩, ⟨23, 16, .ro, 0, none⟩, ⟨8, 8, .ro, 0, none⟩, ⟨7, 4, .ro, 0, none⟩, ⟨3, 0, .ro, 0, none⟩] },
    { off := 0x138, flds := [⟨31, 0, .ro, 0, none⟩] },
    { off := 0x13c, flds := [⟨31, 0, .ro, 0, none⟩] },
    { off := 0x140, pair := 1, flds := [⟨31, 0, .ro, 0, none⟩] },
    { off := 0x144, pair := 2, flds := [⟨31, 0, .ro, 0, none⟩] },
    { off := 0x148, flds := [⟨31, 24, .ro, 0x3c, none⟩, ⟨23, 16, .ro, 0xa0, none⟩, ⟨15, 8, .ro, 0x28, none⟩, ⟨7, 0, .ro, 0x64, none⟩] },
    { off := 0x180, cnt := 40, st := 0x4, flds := [⟨31, 16, .ro, 0, none⟩, ⟨15, 14, .ro, 0, none⟩] } ]

/-- Registers of the TFLT page (tables about R655). -/
def TFLT : List RegDef :=
  [ { off := 0x100, flds := [⟨31, 31, .w1c, 0, none⟩, ⟨30, 30, .ro, 0, none⟩, ⟨20, 16, .ro, 0, none⟩, ⟨15, 0, .ro, 0, none⟩] },
    { off := 0x104, pair := 1, flds := [⟨31, 0, .ro, 0, none⟩] },
    { off := 0x108, pair := 2, flds := [⟨31, 0, .ro, 0, none⟩] },
    { off := 0x10c, flds := [⟨31, 16, .ro, 0, none⟩, ⟨12, 8, .ro, 0, none⟩, ⟨3, 0, .ro, 0, none⟩] },
    { off := 0x110, flds := [⟨31, 0, .ro, 0, none⟩] },
    { off := 0x114, flds := [⟨10, 0, .ro, 0, none⟩] },
    { off := 0x118, flds := [⟨31, 0, .ro, 0, none⟩] },
    { off := 0x11c, flds := [⟨31, 0, .ro, 0, none⟩] },
    { off := 0x120, flds := [⟨15, 0, .ro, 0, none⟩] } ]

/-- Registers of the DFLT page (tables about R655). -/
def DFLT : List RegDef :=
  [ { off := 0x114, flds := [⟨31, 0, .ro, 0, none⟩] },
    { off := 0x118, flds := [⟨31, 0, .ro, 0, none⟩] },
    { off := 0x11c, flds := [⟨23, 0, .ro, 0, none⟩] },
    { off := 0x120, flds := [⟨31, 31, .ro, 0, none⟩, ⟨30, 30, .ro, 0, none⟩, ⟨15, 0, .ro, 0, none⟩] },
    { off := 0x124, flds := [⟨0, 0, .rw, 0, none⟩] },
    { off := 0x128, flds := [⟨20, 16, .ro, 0, none⟩, ⟨15, 0, .ro, 0, none⟩] },
    { off := 0x12c, flds := [⟨31, 16, .ro, 0, none⟩, ⟨15, 8, .ro, 0, none⟩, ⟨4, 0, .ro, 0, none⟩] },
    { off := 0x130, flds := [⟨8, 5, .rw, 0, none⟩, ⟨4, 0, .rw, 0, none⟩] },
    { off := 0x134, flds := [⟨31, 0, .ro, 0, none⟩] } ]

/-- Registers of the LDG page (tables about R655). -/
def LDG : List RegDef :=
  [ { off := 0x100, flds := [⟨31, 24, .ro, 0xb, none⟩] },
    { off := 0x104, pair := 1, flds := [⟨31, 0, .ro, 0, none⟩] },
    { off := 0x108, pair := 2, flds := [⟨31, 0, .ro, 0, none⟩] },
    { off := 0x10c, flds := [⟨31, 0, .w1c, 0, none⟩] },
    { off := 0x110, flds := [⟨23, 16, .rw, 0, none⟩, ⟨9, 0, .rw, 0, none⟩] },
    { off := 0x120, cnt := 7, st := 0x4, flds := [⟨31, 0, .ro, 0, none⟩] },
    { off := 0x140, cnt := 2, st := 0x4, flds := [⟨31, 0, .ro, 0, none⟩] },
    { off := 0x148, flds := [⟨31, 0, .ro, 0, none⟩] },
    { off := 0x14c, flds := [⟨31, 0, .ro, 0, none⟩] },
    { off := 0x150, flds := [⟨15, 8, .ro, 0, none⟩, ⟨7, 0, .ro, 0, none⟩] } ]

/-- Registers of the FWU page (tables about R683). -/
def FWU0 : List RegDef :=
  [ { off := 0x100, flds := [⟨31, 0, .ro, 0x2000400, none⟩] },
    { off := 0x104, flds := [⟨31, 24, .ro, 0, none⟩, ⟨0, 0, .ro, 0, none⟩] },
    { off := 0x108, flds := [⟨31, 31, .ro, 1, none⟩, ⟨23, 16, .ro, 1, none⟩, ⟨15, 0, .ro, 1, none⟩] },
    { off := 0x10c, flds := [⟨31, 31, .ro, 0, none⟩, ⟨23, 16, .ro, 0, none⟩, ⟨15, 0, .ro, 0, none⟩] },
    { off := 0x110, flds := [⟨31, 0, .ro, 0x1000000, none⟩] },
    { off := 0x114, flds := [⟨31, 0, .ro, 0, none⟩] },
    { off := 0x118, flds := [⟨7, 0, .ro, 1, none⟩] },
    { off := 0x11c, pair := 1, flds := [⟨31, 0, .rw, 0, none⟩] },
    { off := 0x120, pair := 2, flds := [⟨31, 0, .rw, 0, none⟩] },
    { off := 0x124, flds := [⟨24, 0, .rw, 0, none⟩] },
    { off := 0x128, flds := [⟨31, 24, .ro, 0, none⟩, ⟨23, 16, .ro, 0, none⟩] },
    { off := 0x130, pair := 1, flds := [⟨31, 0, .rw, 0, none⟩] },
    { off := 0x134, pair := 2, flds := [⟨31, 0, .rw, 0, none⟩] },
    { off := 0x138, flds := [⟨26, 16, .rw, 0, none⟩, ⟨11, 0, .rw, 0, none⟩] },
    { off := 0x13c, flds := [⟨7, 0, .rw, 0xff, none⟩] },
    { off := 0x140, flds := [⟨31, 0, .rw, 0, none⟩] },
    { off := 0x144, flds := [⟨31, 0, .rw, 0, none⟩] },
    { off := 0x148, flds := [⟨31, 0, .rw, 0, none⟩] },
    { off := 0x14c, flds := [⟨31, 0, .rw, 0, none⟩] },
    { off := 0x150, flds := [⟨15, 0, .rw, 0x2710, some (100, 50000)⟩] },
    { off := 0x154, flds := [⟨31, 16, .ro, 0, none⟩, ⟨15, 12, .ro, 0, none⟩, ⟨11, 8, .ro, 0, none⟩] },
    { off := 0x158, pair := 1, flds := [⟨31, 0, .ro, 0, none⟩] },
    { off := 0x15c, pair := 2, flds := [⟨31, 0, .ro, 0, none⟩] },
    { off := 0x160, flds := [⟨31, 0, .ro, 0, none⟩] } ]
/-- Registers of the FWU page (tables about R683). -/
def FWU1 : List RegDef :=
  [ { off := 0x164, flds := [⟨31, 0, .ro, 0, none⟩] },
    { off := 0x168, flds := [⟨31, 0, .ro, 0, none⟩] } ]
def FWU : List RegDef := FWU0 ++ FWU1

/-- Registers of the BCST page (tables about R683). -/
def BCST : List RegDef :=
  [ { off := 0x100, flds := [⟨31, 0, .ro, 0x1000400, none⟩] },
    { off := 0x104, flds := [⟨31, 16, .ro, 0, none⟩, ⟨15, 12, .ro, 0, none⟩, ⟨11, 11, .ro, 0, none⟩, ⟨10, 0, .ro, 0, none⟩] },
    { off := 0x108, flds := [⟨31, 0, .ro, 0, none⟩] },
    { off := 0x110, flds := [⟨31, 0, .ro, 0, none⟩] },
    { off := 0x114, flds := [⟨31, 0, .ro, 0, none⟩] },
    { off := 0x118, flds := [⟨31, 0, .ro, 0, none⟩] },
    { off := 0x11c, flds := [⟨31, 0, .ro, 0, none⟩] } ]

/-- Registers of the MGT page (tables about R683). -/
def MGT : List RegDef :=
  [ { off := 0x100, flds := [⟨2, 2, .rw, 1, none⟩, ⟨1, 1, .rw, 1, none⟩, ⟨0, 0, .rw, 1, none⟩] },
    { off := 0x104, flds := [⟨6, 0, .rw, 0x31, some (8, 119)⟩] },
    { off := 0x108, flds := [⟨15, 8, .ro, 0, none⟩, ⟨7, 0, .ro, 0, none⟩] },
    { off := 0x10c, flds := [⟨31, 0, .ro, 0, none⟩] },
    { off := 0x110, flds := [⟨2, 0, .ro, 0, none⟩] },
    { off := 0x114, flds := [⟨2, 0, .rw, 7, none⟩] },
    { off := 0x120, flds := [⟨31, 0, .ro, 0, none⟩] },
    { off := 0x124, flds := [⟨31, 0, .ro, 0, none⟩] },
    { off := 0x128, flds := [⟨31, 0, .ro, 0, none⟩] },
    { off := 0x12c, flds := [⟨31, 0, .ro, 0, none⟩] },
    { off := 0x130, flds := [⟨31, 0, .ro, 0, none⟩] } ]

/-- LDGD has the layout of LDG and keeps six ledgers (R655). -/
def LDGD : List RegDef := { off := 0x100, flds := [⟨31, 24, .ro, 6, none⟩] }
  :: (LDG.drop 1).map (fun d => if d.off = 0x110 then { d with flds := ⟨31, 31, .rw, 0, none⟩ :: d.flds } else d)
/-- DFLT repeats the first five registers of TFLT (R655). -/
def DFLTall : List RegDef := TFLT.take 5 ++ DFLT

/-- The block-specific registers of a page. -/
def block : PType → List RegDef
  | .TRK => TRK
  | .JNL => JNL
  | .CORE => CORE
  | .MXU => MXU
  | .DSP => DSP
  | .SLC => SLC
  | .SAP => SAP
  | .KVM => KVM
  | .PFX => PFX
  | .RTR => RTR
  | .XPR => XPR
  | .BGH => BGH
  | .HIF => HIF
  | .EVQ => EVQ
  | .CLK => CLK
  | .TIM => TIM
  | .PWR => PWR
  | .TPWR => TPWR
  | .BOOT => BOOT
  | .LIC => LIC
  | .IDN => IDN
  | .TILE => TILE
  | .FUS => FUS
  | .THM => THM
  | .TTHM => TTHM
  | .TFLT => TFLT
  | .DFLT => DFLTall
  | .LDG => LDG
  | .FWU => FWU
  | .BCST => BCST
  | .MGT => MGT
  | .LDGD => LDGD

/-- Does the definition cover page offset `o`? -/
def covers (d : RegDef) (o : Nat) : Bool :=
  decide (d.off ≤ o) && ((o - d.off) % d.st == 0) && decide ((o - d.off) / d.st < d.cnt)

/-- The register at page offset `o`, if the page has one there. -/
def find (t : PType) (o : Nat) : Option RegDef :=
  if o < 0x100 then (header t).find? (covers · o)
  else (block t).find? (covers · o)

/-- Reset value of a register: its fields' reset values in place. -/
def resetOf (d : RegDef) : Nat := d.flds.foldl (fun v f => v + f.rst * 2 ^ f.lo) 0

/-- Reset value of the register at BAR0 offset `off`; a reserved offset reads 0 (R11). -/
def reset (off : Nat) : Word :=
  match Page.ofOff off with
  | none => 0
  | some r =>
    let o := off % 0x1000
    if o = R.PG_ID then BitVec.ofNat 32 (Page.code r.t * 0x10000 + r.inst)
    else match find r.t o with
      | none => 0
      | some d => BitVec.ofNat 32 (resetOf d)

end RegTable
end Sys2Proof
end

