-- ==== Sys2Proof/Machine/SMap.lean ====
section
/-! DEFINITION. Sys2Proof/Machine/SMap.lean: sparse data by key, as lists of (key, value) pairs in one canonical form:
keys strictly rising, and no entry that equals what an unlisted key reads as. Device memory, host memory, the register
file and every per-site, per-core and per-thread structure of the state are held so. -/
namespace Sys2Proof

/-- What is listed at key `k`. -/
def SMap.find (k : Nat) : List (Nat × α) → Option α
  | [] => none
  | (k', v) :: m => if k' = k then some v else SMap.find k m

/-- The value at `k`, `d` where nothing is listed. -/
def SMap.get (d : α) (k : Nat) (m : List (Nat × α)) : α := (SMap.find k m).getD d

/-- List `v` at `k`, keeping the keys rising. -/
def SMap.put (k : Nat) (v : α) : List (Nat × α) → List (Nat × α)
  | [] => [(k, v)]
  | (k', v') :: m =>
    if k < k' then (k, v) :: (k', v') :: m
    else if k = k' then (k, v) :: m
    else (k', v') :: SMap.put k v m

/-- Unlist `k`. -/
def SMap.del (k : Nat) (m : List (Nat × α)) : List (Nat × α) := m.filter (fun e => e.1 ≠ k)

/-- Write `v` at `k` in the canonical form: the default value `d` is never listed. -/
def SMap.set [DecidableEq α] (d : α) (k : Nat) (v : α) (m : List (Nat × α)) : List (Nat × α) :=
  if v = d then SMap.del k m else SMap.put k v m

/-- Every key listed is greater than `k`. -/
def SMap.above (k : Nat) : List (Nat × α) → Bool
  | [] => true
  | (k', _) :: m => decide (k < k') && SMap.above k m

/-- The keys rise strictly. -/
def SMap.sorted : List (Nat × α) → Bool
  | [] => true
  | (k, _) :: m => SMap.above k m && SMap.sorted m

/-- The canonical form: keys rise strictly and no listed value is what the key reads as unlisted. -/
def SMap.wf [DecidableEq α] (d : Nat → α) (m : List (Nat × α)) : Bool :=
  SMap.sorted m && m.all (fun e => decide (e.2 ≠ d e.1))

/-- The keys listed. -/
def SMap.keys (m : List (Nat × α)) : List Nat := m.map (·.1)

/-- Drop every entry whose key meets `p`. -/
def SMap.dropIf (p : Nat → Bool) (m : List (Nat × α)) : List (Nat × α) := m.filter (fun e => !p e.1)

end Sys2Proof
end

