-- ==== Sys2Proof/Machine/State.lean ====
section
/-! DEFINITION. Sys2Proof/Machine/State.lean: the state of the LQ1 as plain data, its stops, and its state after reset.
Registers live in ONE sparse map by BAR0 offset; what a register does not show stands in the records below. -/
namespace Sys2Proof.Machine

/-! ## The journal (R65 to R78) -/

/-- A journal entry (R67). -/
structure JEntry where
  seq : Nat
  time : Nat
  org : Nat
  flags : Nat
  off : Nat
  old : Nat
  new : Nat
  count : Nat
deriving DecidableEq, Repr

/-- An open coalescing window (R70). -/
structure Win where
  off : Nat
  org : Nat
  chan : Nat
  time : Nat
  old : Nat
  new : Nat
  count : Nat
deriving DecidableEq, Repr

/-- A write as it waits for the journal (R75): a BAR0 register, a configuration dword, or a BAR4 MSI-X dword. -/
inductive WReq where
  | reg (o : Origin) (off size val : Nat)
  | cfg (o : Origin) (off be val : Nat)
  | msix (o : Origin) (off size val : Nat)
deriving DecidableEq, Repr

/-- Back-pressure beside the journal store: the held writes in arrival order, when the hold began, and the refusal
episode: whether one is open, the writes it refused, when it began, and JNL_REFUSED before it (R72 to R76). -/
structure JMeta where
  held : List WReq := []
  holdAt : Option Nat := none
  refusing : Bool := false
  epCount : Nat := 0
  epAt : Nat := 0
  epBefore : Nat := 0
deriving DecidableEq, Repr

/-- The journal beside its registers: the store, the open windows (oldest first), and its back-pressure. -/
structure Jnl where
  store : List JEntry := []
  wins : List Win := []
  bp : JMeta := {}
deriving DecidableEq, Repr

/-- A _LO half staged by an origin (R51). -/
structure Staged where
  org : Nat
  off : Nat
  val : Nat
  time : Nat
deriving DecidableEq, Repr

/-- A waits command in progress on a page (R60). -/
structure Busy where
  op : Nat
  arg : Nat
  org : Nat
  seq : Nat
  time : Nat
deriving DecidableEq, Repr

/-! ## Events (R479 to R486) -/

/-- An event record (R479); `payload` is bytes 24 to 63 as one little-endian number. -/
structure EvRec where
  typ : Nat
  flags : Nat
  seq : Nat
  time : Nat
  page : Nat
  src : Nat
  payload : Nat
deriving DecidableEq, Repr

/-- The event queues beside their registers: the hold store in arrival order, the rings whose next record carries the
gap flag, the records counted for each vector with the time of the first, and the PBA (R483 to R485). -/
structure Evq where
  hold : List (Nat × EvRec) := []
  gap : List Nat := []
  counted : List (Nat × (Nat × Nat)) := []
  pba : List Nat := []
deriving DecidableEq, Repr

/-! ## Faults (R637 to R648) -/

/-- The fault machinery beside its registers: the times of bit-2 resets by page * 32 + source for the guard, when a chip
reset that reaction bit 3 caused began or completed, the 16 places of the trap log, the place the next entry takes, the
places not yet served, and whether FAULT_N keeps its level through a chip reset (R642, R647, R648). -/
structure Flt where
  resets : List (Nat × List Nat) := []
  chipAt : Option Nat := none
  traps : List (Nat × List Nat) := []
  next : Nat := 0
  unserved : List Nat := []
  frozen : Bool := false
deriving DecidableEq, Repr

/-! ## Threads and the leaf store (R80 to R124) -/

/-- What a thread waits for in T_WAIT_SYNC or T_WAIT_ENG (R82, R99). -/
inductive Wait where
  | none
  | tok (obj n : Nat)
  | bar (obj n : Nat)
  | fence
  | sig (obj n target : Nat)
  | endw
  | drain
  | eng
  | queue (q : Nat)
  | data (regs : List Nat)
  | slot
  | regs
deriving DecidableEq, Repr

/-- The kinds of memory operation that take a slot (R105, R121). -/
inductive MKind where
  | ld | st | pref | copy | fill | aadd | acas | sig | ra
deriving DecidableEq, Repr

/-- The states of a leaf cache line other than FREE (R112). -/
inductive LState where
  | plain
  | counted (m : Nat)
  | pinned
deriving DecidableEq, Repr

/-- A leaf cache line: its address / 256, its state, its 256 bytes as one little-endian number, and which of its 64-bit
words hold the poison mark. -/
structure Line where
  addr : Nat
  st : LState
  data : Nat
  pz : List Nat := []
deriving DecidableEq, Repr

/-- A memory operation in a slot: its target, the source of a COPY, its length in bytes, the size code, hint and
register of the instruction, its data (`val`, and the compare value `val2` of ACAS), whether the data is poison, the
lines that hit in the leaf cache at issue, when and where it was issued, and whether a remote signal has been delivered
or a register write handed over. A remote operation is named by `tag` once its request has entered the fabric; `again`: it was
answered RETRY_LATER and waits to be sent again. -/
structure MemOp where
  kind : MKind
  ea : Nat
  src : Nat := 0
  len : Nat
  size : Nat := 0
  hint : Nat := 0
  rd : Nat := 0
  val : Nat := 0
  val2 : Nat := 0
  pz : Bool := false
  lines : List Line := []
  time : Nat := 0
  pc : Nat := 0
  delivered : Bool := false
  tag : Option Nat := none
  again : Bool := false
deriving DecidableEq, Repr

/-- Run-ahead (R120 to R124): where it decodes, its shadow registers, the registers marked unknown, instructions decoded,
and the guesses made: register and whether it was guessed nonzero. -/
structure RunAhead where
  pc : Nat
  shadow : List (Nat × DWord) := []
  unknown : List Nat := []
  count : Nat := 0
  guesses : List (Nat × Bool) := []
  stopped : Bool := false
deriving DecidableEq, Repr

/-- A hardware thread (R80 to R84). `pend` lists the registers whose result is pending; `eng` counts its engine
instructions in progress; `ring` and `seq` name the descriptor that launched it. -/
structure Thread where
  state : Nat := 0
  kept : Nat := 0
  pc : Nat := 0
  regs : List (Nat × DWord) := []
  poison : List Nat := []
  pend : List Nat := []
  slots : List MemOp := []
  wait : Wait := .none
  eng : Nat := 0
  ring : Nat := 0
  seq : Nat := 0
  finfoSrc : Nat := 0xFF
  finfoDetail : Nat := 0
  ra : Option RunAhead := Option.none
deriving DecidableEq, Repr

/-- A fill in flight: line, the state it will take (none: it is dropped), whether it must be discarded on arrival, and
the stores to merge: offset in the line, bytes, poison (R112, R116). -/
structure Fill where
  addr : Nat
  st : Option LState
  discard : Bool := false
  stores : List (Nat × List Byte × Bool) := []
deriving DecidableEq, Repr

/-- A core's leaf store: cache lines, most recently used first; fills in flight; scratch bytes; scratch words that hold
the poison mark. -/
structure Leaf where
  lines : List Line := []
  fills : List Fill := []
  scratch : List (Nat × Byte) := []
  scratchPz : List Nat := []
deriving DecidableEq, Repr

/-! ## Descriptors (R383 to R408) -/

/-- A launched descriptor that has not completed: ring, sequence, kind, its 64 bytes as a number, the threads it holds,
whether KILL_THREAD freed one, and the buffer tokens of a chain with what each must read at its end (R396, R402). -/
structure Run where
  ring : Nat
  seq : Nat
  kind : Nat
  data : Nat
  threads : List Nat := []
  killed : Bool := false
  toks : List (Nat × Nat) := []
  time : Nat := 0
deriving DecidableEq, Repr

/-- A completion signal on its way to another core (R400). -/
structure Sig where
  ring : Nat
  seq : Nat
  target : Nat
  tok : Nat
  n : Nat
  time : Nat
deriving DecidableEq, Repr

/-- A burst in flight: ring, first sequence number, descriptors, when it was asked for (R385). -/
structure Burst where
  ring : Nat
  seq : Nat
  n : Nat
  time : Nat
deriving DecidableEq, Repr

/-- A core's descriptor machinery: fetched descriptors (ring, sequence, bytes) in order, bursts in flight, rings that fetch
nothing until START, what is running, signals on their way, and how often each ring was passed over (R385, R387, R398). -/
structure Stream where
  buf : List (Nat × Nat × Nat) := []
  bursts : List Burst := []
  stopped : List Nat := []
  running : List Run := []
  sigs : List Sig := []
  passed : List (Nat × Nat) := []
deriving DecidableEq, Repr

/-! ## Engines (R86, R129 to R218) -/

/-- An engine instruction as its queue holds it: opcode, issuing thread and the launch it belongs to (ring * 2^32 + sequence
number of its descriptor), the values of s[rd], s[ra] and b when it issued, the register it writes, when it was queued,
the lines of its source that hit in the leaf cache, and the thread's memory operations it follows (PC, time), and its PC. -/
structure EOp where
  op : Nat
  th : Nat
  own : Nat
  d : Nat := 0
  a : Nat := 0
  b : Nat := 0
  rd : Nat := 0
  time : Nat := 0
  hits : List Line := []
  after : List (Nat × Nat) := []
  pc : Nat := 0
deriving DecidableEq, Repr

/-- A stationary block of the matrix array (R145, R161, R169): its number, the half it belongs to (0 north, 1 south or
full), its WLD, its bytes as a little-endian number, whether it is wholly written, whether a pass has bound to it, and the
fault source it is marked bad with. -/
structure Blk where
  id : Nat
  unit : Nat
  op : EOp
  data : Nat := 0
  ready : Bool := false
  bound : Bool := false
  bad : Option Nat := none
deriving DecidableEq, Repr

/-- A pass in flight: its half, its tag, its PASS and the number of its block (R147, R156). -/
structure Pass where
  unit : Nat
  tag : Nat
  op : EOp
  blk : Nat
deriving DecidableEq, Repr

/-- The matrix array of a core (R129 to R182): the two queues, the blocks, the block of the previous pass of each half, the
next block number and tags, passes and ACC instructions in flight, the accumulators (row * 32 + column, FP32) and the rows
whose valid mark is set. -/
structure Arr where
  q0 : List EOp := []
  q1 : List EOp := []
  blks : List Blk := []
  last0 : Option Nat := none
  last1 : Option Nat := none
  nextBlk : Nat := 0
  tag0 : Nat := 0
  tag1 : Nat := 0
  passes : List Pass := []
  accs : List (Nat × EOp) := []
  acc : List (Nat × Nat) := []
  valid : List Nat := []
deriving DecidableEq, Repr

/-- An MV run in progress (R191 to R207): its MVRUN, the vector set and metadata it uses, the weight lines and scale-record
lines that have arrived (number, bytes, poison), and the number of 32-line blocks already added. -/
structure MvRun where
  op : EOp
  vec : EOp
  md : Option EOp
  lines : List (Nat × Nat) := []
  scales : List (Nat × Nat) := []
  done : Nat := 0
deriving DecidableEq, Repr

/-- The MV path of a core: its queue, what MVSET and MVMETA bound, the run and the store in progress, the accumulators
(bank * 4096 + token * 512 + output, FP32) and the banks' valid marks (R204 to R206). -/
structure Mv where
  q : List EOp := []
  vec : Option EOp := none
  md : Option EOp := none
  run : Option MvRun := none
  store : Option EOp := none
  acc : List (Nat × Nat) := []
  valid : List Nat := []
deriving DecidableEq, Repr

/-! ## Dispatch units (R234 to R263) -/

/-- An expert map entry (R236). -/
structure DExpert where
  home : Nat
  cap : Nat
  bias : Nat
  inBase : Nat
  retBase : Nat
  pf : Nat
  pfLines : Nat
  tok : Nat
  valid : Bool
deriving DecidableEq, Repr

/-- A placed choice: token, choice number, expert, slot (R240). -/
structure Choice where
  tok : Nat
  idx : Nat
  exp : Nat
  slot : Nat
deriving DecidableEq, Repr

/-- An open or active round (R234, R235, R250): its record and map, the skip mask, the logits read (FP32 patterns; none for
a poisoned token), the placement, and how far it has come. `state` is 1 OPEN, 2 ACTIVE. -/
structure Round where
  handle : Nat
  state : Nat := 1
  seq : Nat
  layer : Nat
  tokens : Nat
  k : Nat
  gate : Nat
  experts : List DExpert
  doneCore : Nat
  doneTok : Nat
  ofmt : Nat
  rfmt : Nat
  xBase : Nat
  oBase : Nat
  xBytes : Nat
  xPitch : Nat
  oPitch : Nat
  width : Nat
  skip : Nat
  logits : List (Nat × Option (List Nat)) := []
  choices : List Choice := []
  spills : Nat := 0
  unplaced : Nat := 0
  predicted : List Nat := []
  sent : List Nat := []
  returned : List Nat := []
  written : List Nat := []
  time : Nat := 0
deriving DecidableEq, Repr

/-- A prefetch request and its pins (R255, R256): handle, round, expert, core, first line, lines; the lines pinned once the
request has been served; whether an unpin request is on its way, by the squash or not. -/
structure DPin where
  handle : Nat
  seq : Nat
  exp : Nat
  core : Nat
  line : Nat
  n : Nat
  pinned : Option Nat := none
  unpin : Option Bool := none
deriving DecidableEq, Repr

/-- A dispatch unit: its rounds, its prefetch requests, the choices placed on each expert in the latest completed round of
the last 32 layers (latest first), and the sequence of the last round opened. -/
structure Dsp where
  rounds : List Round := []
  pins : List DPin := []
  hist : List (Nat × List (Nat × Nat)) := []
  seq : Nat := 0
deriving DecidableEq, Repr

/-- A core's dispatch port (R257): its queue, and DRETs on their way to their home. -/
structure Port where
  q : List EOp := []
  drets : List EOp := []
deriving DecidableEq, Repr

/-! ## Memory slices and their repair (R266 to R301, R580 to R598) -/

/-- A request of one granule in a channel controller's queue (R273): class, slice offset, bytes, whether it writes or adds
(an atomic), its data, origin and arrival, whether it has aged, bursts still to issue, whether the scrubber sent it, and
the symbol errors (codeword * 36 + symbol, flipped bits) that a first and a second reading of it meet. -/
structure Req where
  cls : Nat
  off : Nat
  n : Nat
  wr : Bool := false
  add : Bool := false
  data : Nat := 0
  org : Nat := 0
  time : Nat := 0
  aged : Bool := false
  left : Nat := 0
  scrub : Bool := false
  e1 : List (Nat × Nat) := []
  e2 : List (Nat × Nat) := []
deriving DecidableEq, Repr

/-- A lane-group retraining in progress (R288): the first wire not yet retrained, the group size, when it and its present
group began, whether it trains for 1.6 Gbit/s, and the worst wire and eye so far. -/
structure Retrain where
  pos : Nat := 0
  f : Nat
  began : Nat
  gAt : Nat
  fast : Bool := false
  wire : Nat := 0
  eye : Nat := 255
deriving DecidableEq, Repr

/-- A channel beside its registers: its queue, slots its sap unit took in the present window, open rows (bank, row, last access), refresh debt by bank, the bank whose
refresh falls due next, the retraining in progress and the RETRAIN waiting behind it (full or not), its hold (since; 0 a
retraining, 1 a rate change), since when its layer has been cool enough for a slower band, attributed errors by wire (row,
time), charges by row (latest first), rows that wait to be remapped and wires to be steered, error counts, the scrubber, bad spares (bank * 3 + spare), remap entries, and the
wire on each spare lane (R273 to R298, R585 to R598). -/
structure Chan where
  queue : List Req := []
  sap : Nat := 0
  rows : List (Nat × Nat × Nat) := []
  debt : List (Nat × Nat) := []
  due : Nat := 0
  rt : Option Retrain := none
  again : Option Bool := none
  hold : Option (Nat × Nat) := none
  calm : Option Nat := none
  wires : List (Nat × List (Nat × Nat)) := []
  track : List (Nat × Nat) := []
  waiting : List (Nat × Nat) := []
  toSteer : List Nat := []
  ce : Nat := 0
  ue : Nat := 0
  lap : Nat := 0
  lapAt : Nat := 0
  ca : Nat := 0
  bad : List Nat := []
  rmap : List (Nat × Nat) := []
  steer : List (Nat × Nat) := []
deriving DecidableEq, Repr

/-- A slice: its channels, and since when T has stayed below 94 °C (R282). -/
structure Slc where
  chans : List (Nat × Chan) := []
  cool : Option Nat := none
deriving DecidableEq, Repr

/-! ## Sap units (R302 to R337) -/

/-- A sap unit: state (0 U_IDLE, 1 U_RUN, 2 U_SUSP, 3 U_WAIT), PC, nonzero scalar and vector registers with their poison
tags, argument words, nonzero micro-program words, the number of its call, reduction steps sent and collected, results that
have arrived (step, value, poison), banks granted, whether the last instruction left an atom boundary, whether a forced
refresh waits for it, whether its atom has overrun, whether it met or wrote poison, and the codewords it poisoned in the
call. -/
structure SapUnit where
  state : Nat := 0
  pc : Nat := 0
  x : List (Nat × Nat) := []
  xpz : List Nat := []
  v : List (Nat × Nat) := []
  vpz : List Nat := []
  args : List Nat := []
  store : List (Nat × Nat) := []
  call : Nat := 0
  sent : Nat := 0
  got : Nat := 0
  back : List (Nat × Nat × Bool) := []
  banks : List Nat := []
  edge : Bool := false
  susp : Bool := false
  past : Bool := false
  met : Bool := false
  wrote : Nat := 0
  bad : List Nat := []
deriving DecidableEq, Repr

/-- A call or load that has started: its number, its instruction (for UNIT_CALL opcode 0x100, with no thread), when it
started, its units, those that ended by END, those that aborted, those that met poison, the step from which on its reductions
are abandoned, whether its core has been reset since, and whether a reset has counted its end (R324 to R331). -/
structure SapCall where
  id : Nat
  op : EOp
  time : Nat
  mask : Nat
  ended : Nat := 0
  aborted : Nat := 0
  poisoned : Nat := 0
  dead : Option Nat := none
  orphan : Bool := false
  tallied : Bool := false
deriving DecidableEq, Repr

/-- A partial held by a sap-reduce path: the call (for a root's path: the group), the step, the unit or core that sent it,
its operation, value and poison, when it came, and whether it is a core's (R321 to R323). -/
structure SapPart where
  key : Nat
  step : Nat
  src : Nat
  op : Nat
  val : Nat
  pz : Bool
  time : Nat
  core : Bool := false
deriving DecidableEq, Repr

/-- A core's sap units, port, running calls, held partials, and results on their way to units (unit, step, value, poison). -/
structure Sap where
  units : List (Nat × SapUnit) := []
  port : List EOp := []
  calls : List SapCall := []
  next : Nat := 1
  parts : List SapPart := []
  back : List (Nat × Nat × Nat × Bool) := []
deriving DecidableEq, Repr

/-! ## Attention, KV manager and prefix unit (R338 to R382) -/

/-- A row of an attention run (R338, R348, R349): segment, position, the query in the engine's form, and m, l and o as FP32
patterns. -/
structure AttRow where
  seg : Nat
  pos : Nat
  q : List Num
  m : Nat := 0xFF800000
  l : Nat := 0
  o : List Nat := []
deriving DecidableEq, Repr

/-- An open attention run (R347, R373, R377): the thread that opened it, its record's fields, its rows, and whether a fault has
aborted it. -/
structure AttRun where
  th : Nat
  mask : Nat
  enc : Nat
  d : Nat
  eng : Nat
  kvfmt : Nat
  scale : Nat
  slope : Nat
  pre : Nat
  first : Nat
  last : Nat
  best : Nat
  rows : List AttRow
  aborted : Bool := false
deriving DecidableEq, Repr

/-- The ATBLK or ATMERGE at the head of the score unit's queue while the unit claims its engine (R347, R353, R354): the entries
still to attend once the list has been read (entry, block id, fault source or 0, block header), and what it has counted. -/
structure AttWork where
  todo : Option (List (Nat × Nat × Nat × Nat)) := none
  att : Nat := 0
  skip : Nat := 0
  unsel : Nat := 0
deriving DecidableEq, Repr

/-- A core's score unit and KV port (R347, R372): the unit's queue, its run, the ATBLK in progress, since when a read of the head
has been waiting; the port's queue, and the same time of its head. -/
structure Att where
  q : List EOp := []
  run : Option AttRun := none
  work : Option AttWork := none
  since : Option Nat := none
  kv : List EOp := []
  kvSince : Option Nat := none
deriving DecidableEq, Repr

/-- A prefix unit beside its registers and its memory (R365, R371): the key PFX_BUILD last took from PFX_KEY0–3, how often a key
has been drawn, and the first free node and both ends of the eviction list (0xFFFFFF: none). -/
structure Pfx where
  key : Nat := 0
  draws : Nat := 0
  free : Nat := 0xFFFFFF
  head : Nat := 0xFFFFFF
  tail : Nat := 0xFFFFFF
deriving DecidableEq, Repr

/-! ## Fabric and bough ports (R417 to R458) -/

/-- A packet (R419), and where it is: the router that holds it (a site, or 64 + column at the trunk), the input it came by (0 to 3
a link, 32 + peer the express, 255 none: it was injected there), whether it was in that buffer when the link was reconciled,
whether it has been ejected at its endpoint, and whether its register write has been handed over. `cas` and `wid`: ACAS, and the
bytes of an atomic; `force`: SEND forces the express. -/
structure Pkt where
  typ : Nat
  vc : Nat
  src : Nat
  dst : Nat
  addr : Nat := 0
  tag : Nat := 0
  org : Nat := 0
  status : Nat := 0
  hops : Nat := 0
  op0 : Nat := 0
  op1 : Nat := 0
  len : Nat := 0
  data : Nat := 0
  pz : Bool := false
  cls : Nat := 0
  xpr : Bool := false
  time : Nat := 0
  cas : Bool := false
  wid : Nat := 0
  force : Bool := false
  node : Nat := 0
  via : Nat := 255
  old : Bool := false
  ejected : Bool := false
  held : Bool := false
deriving DecidableEq, Repr

/-- The packets in the fabric, oldest first, and the next transaction tag. -/
structure Fab where
  pkts : List Pkt := []
  next : Nat := 0
deriving DecidableEq, Repr

/-- A router with its express port, or a trunk port (R422 to R434). Links 0 to 3 are N, E, S, W, 32 + p is express peer p: those
not UP (2 DOWN, 3 RECON), and when a reconciliation began; by ledger index (R651) the credits unreturned, the credits on their
way back, and the buffers offered where not all; since when an express peer has answered no probe; and its resets. -/
structure Rtr where
  links : List (Nat × Nat) := []
  began : List (Nat × Nat) := []
  used : List (Nat × Nat) := []
  owed : List (Nat × Nat) := []
  offer : List (Nat × Nat) := []
  probe : List (Nat × Nat) := []
  resets : Nat := 0
deriving DecidableEq, Repr

/-- A SEND in progress (R454): its instruction, bytes sent, packets not acknowledged (tag, offset, time, answered RETRY_LATER), the
same of its signal, and whether it met poison. -/
structure SendRun where
  op : EOp
  pos : Nat := 0
  outs : List (Nat × Nat × Nat × Bool) := []
  sig : Option (Nat × Nat × Bool) := none
  met : Bool := false
deriving DecidableEq, Repr

/-- A core's send port (R453): its queue, and the SEND in progress at its head. -/
structure Snd where
  q : List EOp := []
  run : Option SendRun := none
deriving DecidableEq, Repr

/-- A flit in the replay buffer (R437, R438): sequence, type, byte 4, poison units, valid bytes, payload. -/
structure Flit where
  seq : Nat
  typ : Nat
  vcb : Nat := 0
  pz : Nat := 0
  plen : Nat := 0
  data : Nat := 0
deriving DecidableEq, Repr

/-- What a bough port has received and not yet acted on: a CTRL message, a management frame, an activation frame (bytes, image,
poisoned units), frame credits. -/
inductive BMsg where
  | ctrl (data : Nat)
  | mgmt (data : Nat)
  | frame (len data : Nat) (pz : List Nat)
  | cred (n : Nat)
deriving DecidableEq, Repr

/-- A frame being sent (R455): the core and its BSEND, the image's length, flits made, poison met, and when it began. -/
structure BFrame where
  core : Nat
  op : EOp
  bytes : Nat
  flits : Nat := 0
  met : Bool := false
  time : Nat := 0
deriving DecidableEq, Repr

/-- A bough port beside its registers (R436 to R455): the replay buffer and the next of it to send again; next sequence to send
and to receive; resends of one flit; whether a nack has been sent, and whether one is due; credits held per VC, and freed but not
yet returned; frame credits to return and held; CTRL messages and management frames waiting to be sent; the frame in
transmission; the frame being received; what waits to be acted on; this end's reset bit; the offer received, whether the peer has
confirmed; whether the link has been UP before; when START began; when the last good flit came; the remote access in progress
(tag, write, time); the next tag; and whether the optical engine is shut
down. -/
structure Bgh where
  replay : List Flit := []
  cur : Nat := 0
  txSeq : Nat := 0
  rxSeq : Nat := 0
  tries : Nat := 0
  nacked : Bool := false
  nackDue : Bool := false
  cred : List Nat := [64, 64, 512, 16]
  freed : List Nat := [0, 0, 0, 0]
  fback : Nat := 0
  fcred : Nat := 0
  ctrl : List Nat := []
  mgmt : List Nat := []
  frame : Option BFrame := none
  rxFrame : Option (Nat × Nat × List Nat) := none
  inbox : List BMsg := []
  lost : Bool := true
  offer : Option Nat := none
  conf : Bool := false
  was : Bool := false
  began : Nat := 0
  last : Nat := 0
  remote : Option (Nat × Bool × Nat) := none
  tag : Nat := 0
  dark : Bool := false
deriving DecidableEq, Repr

/-- Repair of sites (R599 to R603): retirements waiting (site, cause) in ascending order, the one in progress with the step
it has reached, the promotions asked for (the retired site or 255, and the site named), and the last promotion (promoted
site, retired site or 255). -/
structure Fus where
  retire : List (Nat × Nat) := []
  now : Option (Nat × Nat × Nat) := none
  waiting : List (Nat × Option Nat) := []
  coming : Option (Nat × Nat) := none
deriving DecidableEq, Repr

/-! ## Pins, power and bring-up (R30, R517 to R569, R687 to R706) -/

/-- The contacts (R30): 50 V at the blades, PWR_EN, RESET_N, PERST_N, PWRGD, THERMTRIP_N asserted, JTAG_TRST_N, and whether
PERST_N has been released too early; when PWRGD rose. -/
structure Pins where
  v50 : Bool := true
  pwrEn : Bool := true
  resetN : Bool := true
  perstN : Bool := false
  pwrgd : Bool := true
  thermtrip : Bool := false
  early : Bool := false
  pwrgdAt : Nat := 0
deriving DecidableEq, Repr

/-- The input monitors beside their registers (R518 to R537): pairs lost (bit 0 A, bit 1 B), pairs whose stage has opened,
and whether the overvoltage warning stands; since when the average has been below 0.95 P_lim, and above P_lim; ticks with
the cap below 48; save slots by number (sequence, record as a number, whether its CRC matches; an erased one is unlisted);
which holds the found record; writes discarded since power-fail; the same two times by site; sites whose telemetry is silent. -/
structure Pwr where
  lost : Nat := 0
  opened : Nat := 0
  past : Bool := false
  below : Option Nat := none
  above : Option Nat := none
  capTicks : Nat := 0
  slots : List (Nat × Nat × Nat × Bool) := []
  found : Option Nat := none
  discarded : Nat := 0
  siteBelow : List (Nat × Nat) := []
  siteAbove : List (Nat × Nat) := []
  silent : List Nat := []
deriving DecidableEq, Repr

/-- Bring-up beside BOOT's registers (R542 to R561): the waves, the sites under way and when their present step began, sites
that train in full and are not waited for, waves reported done, since when a hold lasts, the channel number each site
validates next, saved training records (channel, temperature), sites that come up alone, and whether the link has
retrained upward. -/
structure Boot where
  waves : List (List Nat) := []
  steps : List (Nat × Nat) := []
  freed : List Nat := []
  waveDone : List Nat := []
  holdAt : Option Nat := none
  val : List (Nat × Nat) := []
  records : List (Nat × Int) := []
  alone : List Nat := []
  linkUp : Bool := false
deriving DecidableEq, Repr

/-- A licence blob: its length and its bytes as a little-endian number (R562). -/
structure Blob where
  len : Nat
  data : Nat
deriving DecidableEq, Repr

/-- The licences in flash and the fused counter floor (R565, R566). The module is the LQ1-60 of the spec's worked example,
with its shipped licence of R563 (log 30). -/
structure Lic where
  active : Option Blob := some { len := 160, data := 0x01000000A00001 + 60 * 256 ^ 40 + 255 * 256 ^ 41 + 0xFF * 256 ^ 42 + 48 * 256 ^ 43 + 7200 * 256 ^ 44 }
  pending : Option Blob := none
deriving DecidableEq, Repr

/-! ## Clocks, time and heat (R493 to R516, R608 to R636) -/

/-- Clocks beside the CLK and TIM registers: set frequency codes (other than 36) and reached codes by core, losses by
island, PTM exchanges missed in a row, and the difference that slewing out of holdover still has to remove. -/
structure Clk where
  set : List (Nat × Nat) := []
  cur : List (Nat × Nat) := []
  losses : List ((Nat × Nat × Nat) × Nat) := []
  missed : Nat := 0
  leaving : Int := 0
deriving DecidableEq, Repr

/-- A copy in progress (R474): its queue, its descriptor number, the 32 bytes of its descriptor once they have come, bytes done, since
when a read of host memory has been outstanding, and whether it met poison, or a dead part. -/
structure Copy where
  q : Nat
  n : Nat
  desc : Option Nat := none
  pos : Nat := 0
  since : Option Nat := none
  pz : Bool := false
  dead : Bool := false
deriving DecidableEq, Repr

/-- A request of the host that waits (R467, R470): a BAR2 read or write, with the times of its first and last try; a register,
MSI-X or configuration write; a register read; a configuration read. -/
inductive HReq where
  | rd2 (org dpa n : Nat) (tried : Option (Nat × Nat))
  | wr2 (org dpa n be data : Nat) (ep : Bool) (tried : Option (Nat × Nat))
  | wr (w : WReq)
  | rd (o : Origin) (off size : Nat)
  | cfgRd (off : Nat)
deriving DecidableEq, Repr

/-- The host interface beside its registers: copies in progress, reads of copies that ended before them (queue, time), token
signals of copies on their way (core, token), and the host's waiting requests in arrival order (R467 to R475). -/
structure Hif where
  copies : List Copy := []
  stale : List (Nat × Nat) := []
  sigs : List (Nat × Nat) := []
  waiting : List HReq := []
deriving DecidableEq, Repr

/-- A site's sensors beside TTHM: for each sensor the reading, power and time of its stuck test, samples in a row that
disagree, since when it has been in a lower sampling band, its last reading's time; sensors whose sideband is lost; the
canopy model's nodes by quadrant (L, D0, D7, C in 0.25 °C); since when each quadrant has been cool, and has been drifting
or not; the second's highest logic reading; the rainflow residue and half-cycle counts; and the life thresholds passed. -/
structure Tth where
  refs : List (Nat × Int × Nat × Nat) := []
  dis : List (Nat × Nat) := []
  slow : List (Nat × Nat) := []
  last : List (Nat × Nat) := []
  lostSb : List Nat := []
  nodes : List (Nat × Int × Int × Int × Int) := []
  cool : List (Nat × Nat) := []
  drift : List (Nat × Bool × Nat) := []
  top : Option Int := none
  residue : List Int := []
  counts : List (Nat × Nat) := []
  life : Nat := 0
deriving DecidableEq, Repr

/-- The coolant beside THM: broken thermistors (bit i) with since when each has read well, averages of ΔT by time for the
sudden-stop test (0.01 K), since when each slow condition and each release has held, when flow was lost, since when R630
has held, since when the heat has been below 0.95 P_flow, and the ring counts last saved. -/
structure Thm where
  broken : Nat := 0
  good : List (Nat × Nat) := []
  dts : List (Nat × Int) := []
  since : List (Nat × Nat) := []
  lostAt : Nat := 0
  fit : Option Nat := none
  below : Option Nat := none
  saved : List (Nat × List (Nat × Nat)) := []
deriving DecidableEq, Repr

/-- The counting window of dead accesses to a site (R272). -/
structure DeadWin where
  opened : Nat
  count : Nat := 0
  dpa : Nat := 0
  org : Nat := 0
  isRead : Bool := false
deriving DecidableEq, Repr

/-- The ledger checks of a site, or of the module (R650 to R654): the last snapshot by term (`ledKey` with site 0; zeros are not
listed), the differences reported by (id, index, invariant), ledgers whose snapshot is awaited, and mismatches by id since the
last chip reset. -/
structure Ldg where
  snap : List (Nat × Nat) := []
  diffs : List ((Nat × Nat × Nat) × Nat) := []
  late : List Nat := []
  mism : List (Nat × Nat) := []
deriving DecidableEq, Repr

/-- What the trunk keeps of a chip reset (R654): LDGD_LAST, the seven sums by id; and the summaries not yet reported: id, flags, sites
summed, T0, amount moved, losses before, mismatches. -/
structure LdgLast where
  sums : List (Nat × List Nat) := []
  todo : List (Nat × List Nat) := []
deriving DecidableEq, Repr

/-- A site's broadcast receiver (R667 to R675): the broadcast it takes part in and its number of chunks, the chunks it holds (number,
256 bytes as a number), its phase as FWU_BC_STATE.phase, whether it is fenced, the reply it has sent, and whether it holds the
broadcast. -/
structure Rcv where
  id : Nat := 0
  n : Nat := 0
  parts : List (Nat × Nat) := []
  phase : Nat := 0
  fenced : Bool := false
  reply : Option Bool := none
  holds : Bool := false
deriving DecidableEq, Repr

/-- A sap broadcast in progress (R667 to R675): its id, target sites, chunks, first store word, words, unit mask, core mask, image;
phase and round as FWU_BC_STATE, and since when; what the present repair round sends (chunks, sites); the REDUCEs sent in this
round (site, missing chunks, sites missing any); sites confirmed, fenced and activated; chunks sent again; and loads entered and
made. -/
structure Bcast where
  id : Nat
  targets : List Nat
  n : Nat
  start : Nat
  words : Nat
  units : Nat
  cores : Nat
  data : Nat
  phase : Nat := 1
  round : Nat := 0
  since : Nat
  chunks : List Nat := []
  sites : List Nat := []
  sent : List (Nat × List Nat × List Nat) := []
  conf : List Nat := []
  fenced : List Nat := []
  acted : List Nat := []
  repaired : Nat := 0
  entered : Nat := 0
  made : Nat := 0
deriving DecidableEq, Repr

/-- An image that IMAGE_WRITE has taken (R664): its slot, security version, version, and why it fails (0: it verifies). -/
structure Img where
  slot : Nat
  svn : Nat
  ver : Nat
  why : Nat
deriving DecidableEq, Repr

/-- Firmware update and broadcast beside FWU's registers. -/
structure Fwu where
  bc : Option Bcast := none
  img : Option Img := none
deriving DecidableEq, Repr

/-- A PLDM firmware update (R681): its state and the one before (0 IDLE, 1 LEARN COMPONENTS, 2 READY XFER, 3 DOWNLOAD), the binding and
the time of the agent's last request, the component under way, its size, and the bytes that have come. -/
structure Update where
  state : Nat := 0
  prev : Nat := 0
  bnd : Nat := 0
  last : Nat := 0
  comp : Nat := 0
  size : Nat := 0
  pos : Nat := 0
  data : Nat := 0
deriving DecidableEq, Repr

/-- The management endpoint beside MGT's registers (R677 to R681): its terminus ID, the event receiver (binding, address), the queued
events (id, sensor, state before, state), the next event's id, the states of sensors 10 and 11 last seen, and the update. -/
structure Mgt where
  tid : Nat := 0
  receiver : Option (Nat × Nat) := none
  events : List (Nat × Nat × Nat × Nat) := []
  next : Nat := 1
  seen : Nat × Nat := (1, 1)
  upd : Update := {}
deriving DecidableEq, Repr

/-- What leaves the block. -/
inductive Out where
  | regRead (o : Origin) (off val : Nat)
  | hostWrite (addr : Nat) (data : List Byte) (poison : Bool)
  | msix (vector addr data : Nat)
  | flit (port data : Nat)
  /-- A configuration completion: `status` 0 successful, 1 Configuration Request Retry Status. -/
  | cfgCpl (off val status : Nat)
  /-- A BAR2 read's completion: `status` 0 successful, 1 with EP set, 2 Completer Abort. -/
  | bar2Cpl (dpa n data status : Nat)
  /-- A DOE Discovery response: index, vendor, data object type, next index. -/
  | discovery (index vendor obj next : Nat)
  /-- An SPDM response: its code, its parameter, and what it carries. -/
  | spdm (code param : Nat) (data : List Nat)
  /-- An MCTP control response: binding (0 SMBus, 1 I3C), command, completion code, what it carries. -/
  | mctp (bnd cmd cc : Nat) (data : List Nat)
  /-- A PLDM response: binding, type, command, completion code, what it carries. -/
  | pldm (bnd typ cmd cc : Nat) (data : List Nat)
  /-- A PLDM request of the LQ1. -/
  | pldmReq (bnd typ cmd : Nat) (data : List Nat)
  /-- A vendor-defined response: binding, command, status, registers done, offset, values. -/
  | vdm (bnd cmd status count off : Nat) (data : List Nat)
deriving DecidableEq, Repr

/-- Why a command has no meaning here. -/
inductive Refusal where
  /-- Raised by exec's arm of a command that has no meaning yet: safe, nothing is claimed of it. -/
  | notModelled (mnemonic : String)
deriving DecidableEq, Repr

/-- Why the machine stops. The LQ1 answers every access the spec describes, so no command of this model faults. -/
inductive Fault where
  /-- Raised by nobody: the spec stops the machine nowhere. -/
  | none
deriving DecidableEq, Repr

/-- The machine. -/
structure State where
  /-- The commands waiting, first in first out. -/
  pending : List Instr := []
  /-- Device time in ns (R506). -/
  now : Nat := 0
  /-- The model's own counter of free values: how many have been drawn. -/
  freeCtr : Nat := 0
  /-- Registers by BAR0 offset; an unlisted one holds its reset value. -/
  regs : List (Nat × Word) := []
  /-- High halves latched by a read of _LO, by origin and offset (R50). -/
  latch : List (Nat × Word) := []
  /-- Staged _LO writes (R51). -/
  staged : List Staged := []
  /-- Waits commands in progress, by page base (R60). -/
  busy : List (Nat × Busy) := []
  /-- Threads by global core number * 64 + thread; an unlisted one is T_FREE. -/
  threads : List (Nat × Thread) := []
  /-- Leaf stores by global core number. -/
  leaf : List (Nat × Leaf) := []
  /-- Descriptor machinery by global core number. -/
  stream : List (Nat × Stream) := []
  /-- Matrix arrays and MV paths by global core number. -/
  arr : List (Nat × Arr) := []
  mv : List (Nat × Mv) := []
  /-- Dispatch units by site, dispatch ports by global core number. -/
  dsp : List (Nat × Dsp) := []
  port : List (Nat × Port) := []
  /-- Threads waiting in WAITTOK, first to wait first, by global core number * 64 + token (R101). -/
  tokq : List (Nat × List Nat) := []
  /-- Device memory by DPA; an unlisted byte reads 0, as bring-up leaves it (R548). -/
  mem : List Host.Cell := []
  /-- Codewords (DPA / 32) that hold the poison pattern (R583). -/
  poison : List (Nat × Bool) := []
  /-- Open windows of dead accesses, by site (R272). -/
  deadWin : List (Nat × DeadWin) := []
  slc : List (Nat × Slc) := []
  /-- Sap units and paths by global core number. -/
  sap : List (Nat × Sap) := []
  /-- Score units and KV ports by global core number; prefix units by site. -/
  att : List (Nat × Att) := []
  pfx : List (Nat × Pfx) := []
  /-- The fabric's packets; routers by site, the trunk's ports at 64 + column; send ports by core; bough ports. -/
  fab : Fab := {}
  rtr : List (Nat × Rtr) := []
  snd : List (Nat × Snd) := []
  bgh : List (Nat × Bgh) := []
  /-- The host interface. -/
  hif : Hif := {}
  /-- Broadcast receivers by site, firmware update and broadcast, the management endpoint. -/
  bcst : List (Nat × Rcv) := []
  fwu : Fwu := {}
  mgt : Mgt := {}
  fus : Fus := {}
  pins : Pins := {}
  pwr : Pwr := {}
  boot : Boot := {}
  lic : Lic := {}
  clk : Clk := {}
  tth : List (Nat × Tth) := []
  thm : Thm := {}
  jnl : Jnl := {}
  evq : Evq := {}
  flt : Flt := {}
  /-- Ledger terms (R651), by `ledKey`; an unlisted one is 0. -/
  led : List (Nat × Nat) := []
  /-- Ledger checks by site (64: the module's), and what a chip reset left. -/
  ldg : List (Nat × Ldg) := []
  ldgLast : LdgLast := {}
  /-- Clock islands lost or restarting: (kind, site, index) (R493, R502). -/
  lost : List (Nat × Nat × Nat) := []
  /-- PCIe configuration space by dword offset; an unlisted dword reads 0 (log 7). -/
  cfg : List (Nat × Word) := []
  /-- The MSI-X table of BAR4 by dword (R468). -/
  msix : List (Nat × Word) := []
  /-- Host memory as the LQ1 has written it and the host has placed it; an unlisted byte reads 0. -/
  host : List Host.Cell := []
  /-- What has left the block, oldest first. -/
  out : List Out := []
deriving DecidableEq, Repr

/-- The machine right after reset. -/
def State.reset : State := {}

end Sys2Proof.Machine
end

