-- ==== Sys2Proof/Machine/Act.lean ====
section
/-! DEFINITION. Sys2Proof/Machine/Act.lean: what a step can do, said once. An `Act` is one atomic change of the state. A
meaning is an `Upd`: from a state, the list of atomic changes it makes, in order. Whatever every `Act` keeps, every
command keeps. -/
namespace Sys2Proof.Machine
open Sys2Proof

/-- One atomic change of the state. -/
inductive Act where
  /-- Write the register at a BAR0 offset. -/
  | reg (off : Nat) (v : Word)
  /-- Return to its reset value every register whose BAR0 offset meets `p`. -/
  | regsReset (p : Nat → Bool)
  | now (t : Nat)
  | drawn
  | latch (k : Nat) (v : Word)
  | dropLatch (p : Nat → Bool)
  | staged (l : List Staged)
  | busy (pg : Nat) (b : Option Busy)
  /-- Add a closed entry to the journal store, if one of its 65,536 is free. -/
  | jPush (e : JEntry)
  /-- Open a coalescing window, if an entry of the store is free for it and fewer than 512 are open. -/
  | jOpen (w : Win)
  /-- Replace the open windows by windows no more in number (a join or a closing). -/
  | jWins (ws : List Win)
  /-- Drain the `n` oldest entries. -/
  | jDrain (n : Nat)
  | jBp (m : JMeta)
  | jCold
  /-- Hold an event record, if one of the 4,096 places is free. -/
  | evHold (r : Nat) (e : EvRec)
  /-- Take the oldest held record of ring `r`. -/
  | evUnhold (r : Nat)
  | evClear
  | evGap (l : List Nat)
  | evCount (r : Nat) (c : Nat × Nat)
  | evPba (l : List Nat)
  | flt (f : Flt)
  | thread (k : Nat) (t : Thread)
  | leaf (g : Nat) (l : Leaf)
  | tokq (k : Nat) (l : List Nat)
  | stream (g : Nat) (x : Stream)
  | arr (g : Nat) (x : Arr)
  | mv (g : Nat) (x : Mv)
  | dsp (site : Nat) (x : Dsp)
  | port (g : Nat) (x : Port)
  | slc (g : Nat) (x : Slc)
  | sap (g : Nat) (x : Sap)
  | att (g : Nat) (x : Att)
  | pfx (site : Nat) (x : Pfx)
  | fab (x : Fab)
  | rtr (n : Nat) (x : Rtr)
  | snd (g : Nat) (x : Snd)
  | bgh (p : Nat) (x : Bgh)
  | hif (x : Hif)
  | bcst (site : Nat) (x : Rcv)
  | fwu (x : Fwu)
  | mgt (x : Mgt)
  | fus (x : Fus)
  | pins (x : Pins)
  | pwr (x : Pwr)
  | boot (x : Boot)
  | lic (x : Lic)
  | clk (x : Clk)
  | tth (site : Nat) (x : Tth)
  | thm (x : Thm)
  /-- Write one byte of device memory. -/
  | mem (a : Nat) (b : Byte)
  | poison (cw : Nat) (b : Bool)
  /-- Initialise device memory and its poison marks where `p` holds of the DPA. -/
  | memClear (p : Nat → Bool)
  | deadWin (site : Nat) (w : Option DeadWin)
  | led (k n : Nat)
  | ldg (n : Nat) (x : Ldg)
  | ldgLast (x : LdgLast)
  | lost (l : List (Nat × Nat × Nat))
  | cfg (off : Nat) (v : Word)
  | cfgClear
  | msix (i : Nat) (v : Word)
  /-- Write one byte of host memory. -/
  | host (a : Nat) (b : Byte)
  | out (o : Out)

/-- Entries allocated in the journal store, open windows included (R70, R72). -/
def Jnl.fill (j : Jnl) : Nat := j.store.length + j.wins.length

/-- Remove the first entry of ring `r` from a hold store. -/
def unhold (r : Nat) : List (Nat × EvRec) → List (Nat × EvRec)
  | [] => []
  | e :: l => if e.1 = r then l else e :: unhold r l

/-- Apply one atomic change. -/
def Act.apply (a : Act) (s : State) : State :=
  match a with
  | .reg off v => { s with regs := SMap.set (RegTable.reset off) off v s.regs }
  | .regsReset p => { s with regs := SMap.dropIf p s.regs }
  | .now t => { s with now := t }
  | .drawn => { s with freeCtr := s.freeCtr + 1 }
  | .latch k v => { s with latch := SMap.put k v s.latch }
  | .dropLatch p => { s with latch := SMap.dropIf p s.latch }
  | .staged l => { s with staged := l }
  | .busy pg (some b) => { s with busy := SMap.put pg b s.busy }
  | .busy pg none => { s with busy := SMap.del pg s.busy }
  | .jPush e => if s.jnl.fill < 65536 then { s with jnl := { s.jnl with store := s.jnl.store ++ [e] } } else s
  | .jOpen w => if s.jnl.fill < 65536 ∧ s.jnl.wins.length < 512 then { s with jnl := { s.jnl with wins := s.jnl.wins ++ [w] } } else s
  | .jWins ws => if ws.length ≤ s.jnl.wins.length then { s with jnl := { s.jnl with wins := ws } } else s
  | .jDrain n => { s with jnl := { s.jnl with store := s.jnl.store.drop n } }
  | .jBp m => { s with jnl := { s.jnl with bp := m } }
  | .jCold => { s with jnl := {} }
  | .evHold r e => if s.evq.hold.length < 4096 then { s with evq := { s.evq with hold := s.evq.hold ++ [(r, e)] } } else s
  | .evUnhold r => { s with evq := { s.evq with hold := unhold r s.evq.hold } }
  | .evClear => { s with evq := { s.evq with hold := [], gap := [], counted := [] } }
  | .evGap l => { s with evq := { s.evq with gap := l } }
  | .evCount r c => { s with evq := { s.evq with counted := SMap.set (0, 0) r c s.evq.counted } }
  | .evPba l => { s with evq := { s.evq with pba := l } }
  | .flt f => { s with flt := f }
  | .thread k t => { s with threads := SMap.set {} k t s.threads }
  | .leaf g l => { s with leaf := SMap.set {} g l s.leaf }
  | .stream g x => { s with stream := SMap.set {} g x s.stream }
  | .arr g x => { s with arr := SMap.set {} g x s.arr }
  | .mv g x => { s with mv := SMap.set {} g x s.mv }
  | .dsp k x => { s with dsp := SMap.set {} k x s.dsp }
  | .port g x => { s with port := SMap.set {} g x s.port }
  | .slc g x => { s with slc := SMap.set {} g x s.slc }
  | .sap g x => { s with sap := SMap.set {} g x s.sap }
  | .att g x => { s with att := SMap.set {} g x s.att }
  | .pfx k x => { s with pfx := SMap.set {} k x s.pfx }
  | .fab x => { s with fab := x }
  | .rtr k x => { s with rtr := SMap.set {} k x s.rtr }
  | .snd g x => { s with snd := SMap.set {} g x s.snd }
  | .bgh p x => { s with bgh := SMap.set {} p x s.bgh }
  | .hif x => { s with hif := x }
  | .bcst k x => { s with bcst := SMap.set {} k x s.bcst }
  | .fwu x => { s with fwu := x }
  | .mgt x => { s with mgt := x }
  | .fus x => { s with fus := x }
  | .pins x => { s with pins := x }
  | .pwr x => { s with pwr := x }
  | .boot x => { s with boot := x }
  | .lic x => { s with lic := x }
  | .clk x => { s with clk := x }
  | .tth k x => { s with tth := SMap.set {} k x s.tth }
  | .thm x => { s with thm := x }
  | .tokq k l => { s with tokq := SMap.set [] k l s.tokq }
  | .mem a b => { s with mem := SMap.set 0 a b s.mem }
  | .poison c b => { s with poison := SMap.set false c b s.poison }
  | .memClear p => { s with mem := SMap.dropIf p s.mem, poison := SMap.dropIf (fun c => p (c * 32)) s.poison }
  | .deadWin k (some w) => { s with deadWin := SMap.put k w s.deadWin }
  | .deadWin k none => { s with deadWin := SMap.del k s.deadWin }
  | .led k n => { s with led := SMap.set 0 k n s.led }
  | .ldg n x => { s with ldg := SMap.set {} n x s.ldg }
  | .ldgLast x => { s with ldgLast := x }
  | .lost l => { s with lost := l }
  | .cfg off v => { s with cfg := SMap.set 0 off v s.cfg }
  | .cfgClear => { s with cfg := [] }
  | .msix i v => { s with msix := SMap.set 0 i v s.msix }
  | .host a b => { s with host := SMap.set 0 a b s.host }
  | .out o => { s with out := s.out ++ [o] }

/-- Apply a list of changes in order. -/
def applyAll : List Act → State → State
  | [], s => s
  | a :: l, s => applyAll l (a.apply s)

/-- A meaning: the changes it makes in a state. -/
abbrev Upd := State → List Act

/-- The state after a meaning. -/
def Upd.run (u : Upd) (s : State) : State := applyAll (u s) s

/-- No change. -/
def skip : Upd := fun _ => []
/-- One change. -/
def act (a : Act) : Upd := fun _ => [a]
/-- First `u`, then `v` in the state `u` leaves. -/
def andThen (u v : Upd) : Upd := fun s => let l := u s; l ++ v (applyAll l s)
/-- One after the other. -/
def seqs : List Upd → Upd
  | [] => skip
  | [u] => u
  | u :: us => andThen u (seqs us)
/-- `u` if `c`. -/
def when (c : Bool) (u : Upd) : Upd := if c then u else skip
/-- `u` if `c`, else `v`. -/
def either (c : Bool) (u v : Upd) : Upd := if c then u else v
/-- Look at the state, then go on. -/
def read (f : State → Upd) : Upd := fun s => f s s
/-- `f` of each, in order. -/
def each (l : List α) (f : α → Upd) : Upd := seqs (l.map f)
/-- `f` of the value, if there is one. -/
def onSome (x : Option α) (f : α → Upd) : Upd := match x with | some a => f a | none => skip

end Sys2Proof.Machine
end

