-- ==== Sys2Proof/Machine/Regs.lean ====
section
/-! DEFINITION. Sys2Proof/Machine/Regs.lean: reading and changing registers and fields, block states, ledger terms and
memory of the host; the small operations everything else is written with. -/
namespace Sys2Proof.Machine
open Sys2Proof

/-! ## Registers -/

/-- The value a register holds. -/
def rd (s : State) (off : Nat) : Nat := ((SMap.find off s.regs).getD (RegTable.reset off)).toNat
/-- Bits `hi:lo` of a register. -/
def fld (s : State) (off hi lo : Nat) : Nat := bits (rd s off) hi lo
/-- The 64-bit value of a _LO/_HI pair at `off`. -/
def rd64 (s : State) (off : Nat) : Nat := rd s off + rd s (off + 4) * 2 ^ 32

/-- Set a register. -/
def setReg (off v : Nat) : Upd := act (.reg off (BitVec.ofNat 32 v))
/-- Set bits `hi:lo` of a register. -/
def setFld (off hi lo x : Nat) : Upd := fun s => [.reg off (BitVec.ofNat 32 (setBits (rd s off) hi lo x))]
/-- Set both halves of a pair. -/
def setReg64 (off v : Nat) : Upd := seqs [setReg off v, setReg (off + 4) (v / 2 ^ 32)]
/-- Add to a saturating 32-bit counter. -/
def bump (off n : Nat) : Upd := fun s => [.reg off (BitVec.ofNat 32 (satAdd (rd s off) n))]
/-- Add to a saturating counter field. -/
def bumpFld (off hi lo n : Nat) : Upd := fun s => [.reg off (BitVec.ofNat 32 (setBits (rd s off) hi lo (min (fld s off hi lo + n) (2 ^ (hi + 1 - lo) - 1))))]
/-- Return registers to their reset values. -/
def resetRegs (offs : List Nat) : Upd := each offs (fun o => act (.reg o (RegTable.reset o)))
/-- Set or clear a bit of a _LO/_HI set of 64 bits. -/
def setBit64 (off n : Nat) (b : Bool) : Upd := setFld (off + 4 * (n / 32)) (n % 32) (n % 32) (b2n b)
/-- A bit of a _LO/_HI set. -/
def getBit64 (s : State) (off n : Nat) : Bool := bit (rd s (off + 4 * (n / 32))) (n % 32)

/-! ## Block states (R53, R58) -/

abbrev stOFF : Nat := 0
abbrev stRESET : Nat := 1
abbrev stIDLE : Nat := 2
abbrev stRUN : Nat := 3
abbrev stDRAIN : Nat := 4
abbrev stHALT : Nat := 5
abbrev stFAULT : Nat := 6
abbrev stRETIRED : Nat := 7

/-- Site sets of the fuses and of FUS. -/
abbrev goodB : Nat := Page.trunk .IDN + R.IDN_GOOD_LO
abbrev dormantB : Nat := Page.trunk .FUS + R.FUS_DORMANT_LO
abbrev retiredB : Nat := Page.trunk .FUS + R.FUS_RETIRED_LO
abbrev enabledB : Nat := Page.trunk .FUS + R.FUS_ENABLED_LO

/-- TILE_INFO.phys: 0 enabled, 1 dormant, 2 fused off, 3 retired (R25, R572). -/
def phys (s : State) (site : Nat) : Nat :=
  if getBit64 s retiredB site then 3 else if !getBit64 s goodB site then 2 else if getBit64 s dormantB site then 1 else 0

/-- Has the site's retirement reached its second step? (R600) -/
def retiring (s : State) (site : Nat) : Bool := match s.fus.now with | some (x, _, n) => decide (x = site ∧ 2 ≤ n) | none => false

/-- The power domains of a site: its root plate with the bark domain, tile-common, memory, and the cores (R521). -/
inductive Dom where
  | root | common | memory | core
deriving DecidableEq, Repr

/-- The domain that holds a block of a site; TILE, TPWR and TTHM are answered whatever domain is on. -/
def domOf : PType → Option Dom
  | .CORE | .MXU => some .core
  | .SLC | .SAP => some .memory
  | .DSP | .KVM | .PFX | .BCST => some .common
  | .RTR | .XPR | .TFLT | .LDG => some .root
  | _ => none

/-- Is a domain of a site on? `c` is the core's number within the site. -/
def domOn (s : State) (site c : Nat) (d : Dom) : Bool :=
  let o := Page.tile .TPWR site
  match d with
  | .root => fld s (o + R.TPWR_DOM) 0 0 = 1
  | .common => fld s (o + R.TPWR_DOM) 1 1 = 1
  | .memory => fld s (o + R.TPWR_DOM) 2 2 = 1
  | .core => getBit64 s (o + R.TPWR_CORE_ON_LO) c

/-- The core number of a core page within its site. -/
def coreIn (r : Page.Ref) : Nat := if Page.isCore r.t then r.inst % 64 else 0

/-- The state of a block: IDN is always in RUN (R576); the blocks of a dormant or fused-off site are OFF; those of a retired
site but RTR, XPR, TPWR, TFLT and LDG are RETIRED (R600); a block whose domain is off is OFF (R523). -/
def pgState (s : State) (r : Page.Ref) : Nat :=
  let held := fld s (Page.base r + R.PG_STATE) 3 0
  if r.t = .IDN then stRUN
  else if Page.isTrunk r.t then held
  else
    let p := phys s (Page.siteOf r)
    if p = 1 ∨ p = 2 then stOFF
    else if p = 3 || retiring s (Page.siteOf r) then (if r.t = .RTR ∨ r.t = .XPR ∨ r.t = .TPWR ∨ r.t = .TFLT ∨ r.t = .LDG then held else stRETIRED)
    else match domOf r.t with
      | some d => if domOn s (Page.siteOf r) (coreIn r) d then held else stOFF
      | none => held
/-- Set the state of a block. -/
def setState (r : Page.Ref) (st : Nat) : Upd := setFld (Page.base r + R.PG_STATE) 3 0 st
/-- Where a command or reset reaches "IDLE": RUN for the pages of R709. -/
def idleOf (t : PType) : Nat := if Page.noIdle t then stRUN else stIDLE

/-- Trunk pages as places. -/
def trunkRef (t : PType) : Page.Ref := ⟨t, 0⟩
/-- The number of a page: BAR0 offset / 4096 (R64). -/
def pageNo (r : Page.Ref) : Nat := Page.base r / 0x1000

/-- Is the island lost? (R502) -/
def islandLost (s : State) (kind site idx : Nat) : Bool := s.lost.contains (kind, site, idx)
/-- Is the site fenced? (R503) -/
def fenced (s : State) (site : Nat) : Bool := getBit64 s (Page.trunk .CLK + R.CLK_FENCED_LO) site

/-- Has the page's clock been lost, so that the trunk answers it reading FAULT? (R47, R502) -/
def clockLost (s : State) (r : Page.Ref) : Bool :=
  if Page.isTrunk r.t || r.t = .TPWR || r.t = .TTHM then false
  else fenced s (Page.siteOf r)
    || ((r.t = .CORE || r.t = .MXU) && islandLost s 0 (r.inst / 64) (r.inst % 64))

/-- Does the block answer for itself? (R47; TPWR, TTHM and IDN are answered by the trunk in every state: R538, R633, R576) -/
def answers (s : State) (r : Page.Ref) : Bool :=
  if r.t = .TPWR || r.t = .TTHM || r.t = .IDN then true
  else
    let st := pgState s r
    st ≠ stOFF && st ≠ stRESET && st ≠ stRETIRED && !clockLost s r

/-! ## Sites and cores -/

/-- Sites enabled, as FUS_ENABLED shows them (R604). -/
def siteEnabled (s : State) (site : Nat) : Bool := getBit64 s enabledB site
/-- Every enabled site. -/
def enabledSites (s : State) : List Nat := (List.range 64).filter (siteEnabled s)

/-! ## Ledgers (R650, R651) -/

/-- Where term `t` of ledger `id`, instance `idx`, of a site stands; the module's ledgers take site 64. -/
def ledKey (id site idx t : Nat) : Nat := ((id * 65 + site) * 65536 + idx) * 8 + t
/-- A ledger term. -/
def led (s : State) (id site idx t : Nat) : Nat := SMap.get 0 (ledKey id site idx t) s.led
/-- Add to a free-running 32-bit term. -/
def ledAdd (id site idx t n : Nat) : Upd := fun s => [.led (ledKey id site idx t) ((led s id site idx t + n) % 2 ^ 32)]
/-- Set a term. -/
def ledSet (id site idx t n : Nat) : Upd := act (.led (ledKey id site idx t) n)

/-! ## Host memory -/

/-- A byte of host memory. -/
def hostByte (s : State) (a : Nat) : Byte := SMap.get 0 a s.host
/-- `n` bytes of host memory. -/
def hostBytes (s : State) (a n : Nat) : List Byte := (List.range n).map (fun i => hostByte s (a + i))
/-- A little-endian number in host memory. -/
def hostNum (s : State) (a n : Nat) : Nat := ofBytes (hostBytes s a n)
/-- Place bytes in host memory, with no record of who did. -/
def hostPlace (a : Nat) : List Byte → Upd
  | [] => skip
  | b :: bs => fun st => .host a b :: hostPlace (a + 1) bs st
/-- A posted write of the LQ1 to host memory (R471). -/
def hostWrite (a : Nat) (bs : List Byte) : Upd := seqs [hostPlace a bs, act (.out (.hostWrite a bs false))]

/-! ## Configuration space -/

/-- A configuration dword. -/
def cfgRd (s : State) (off : Nat) : Nat := (SMap.get 0 off s.cfg).toNat
/-- Bus Master Enable: bit 2 of the PCIe Command register. -/
def busMaster (s : State) : Bool := bit (cfgRd s 4) 2
/-- MSI-X enable: bit 15 of Message Control, which is [31:16] of the dword at 0x0B0 (R469). -/
def msixEnabled (s : State) : Bool := bit (cfgRd s 0xB0) 31
/-- MSI-X function mask: bit 14 of Message Control. -/
def msixMasked (s : State) : Bool := bit (cfgRd s 0xB0) 30
/-- Is the host link up? (HIF_LINK.rate, R488) -/
def linkUp (s : State) : Bool := fld s (Page.trunk .HIF + R.HIF_LINK) 31 29 ≠ 0

/-- A free value: the next that the machine draws (log 3). Use its value, then `act .drawn`. -/
def freeVal (s : State) : Nat := Config.freeNat s.freeCtr

/-- A payload from (offset, width, value) with offsets as bytes of the record, 24 to 63 (R64, R479). -/
def payload (l : List (Nat × Nat × Nat)) : Nat :=
  l.foldl (fun p (o, w, v) => p + (v % 256 ^ w) * 256 ^ (o - 24)) 0

/-- The 16-bit code of an origin (R67). -/
def orgWord (o : Origin) : Nat := o.cls % 16 * 4096 + o.inst % 4096

/-! ## State sensors of the management endpoint (R679) -/

/-- Sensor 10: 1 normal, 2 warning, 3 low, 4 lost, 5 tripped. -/
def coolState (s : State) : Nat :=
  let b (n : Nat) : Bool := bit (rd s (Page.trunk .THM + R.THM_STATUS)) n
  if b 3 then 5 else if b 2 then 4 else if b 1 then 3 else if b 0 then 2 else 1
/-- Sensor 11: 1 bring-up, 2 pollard, 3 full, 4 recovery. -/
def serviceState (s : State) : Nat :=
  match fld s (Page.trunk .BOOT + R.BOOT_STATUS) 31 28 with | 3 => 2 | 4 => 3 | 5 => 4 | _ => 1
/-- Does the endpoint run: Xazara or recovery service (R546)? -/
def mgtRuns (s : State) : Bool := decide (2 ≤ fld s (Page.trunk .TRK + R.TRK_FW_STATE) 7 0)
/-- A change of sensor 10 or 11 queues a platform event. -/
def mgtWatch : Upd := fun s =>
  let m := s.mgt
  let c := coolState s
  let v := serviceState s
  if m.seen = (c, v) then []
  else
    let l := if mgtRuns s then (if m.seen.1 = c then [] else [(10, m.seen.1, c)]) ++ (if m.seen.2 = v then [] else [(11, m.seen.2, v)]) else []
    [.mgt { m with seen := (c, v), events := m.events ++ ((List.range l.length).map (· + m.next)).zip l, next := m.next + l.length }]

/-! ## Meanings -/

/-- A meaning that always answers a next state; while the always-on rails are off the LQ1 does nothing (R533, R537, R691). -/
def done (u : Upd) (s : State) : Host.Outcome State Fault Refusal := .next (if s.pins.pwrgd then (andThen u mgtWatch).run s else s)
/-- A meaning that holds with the rails off too. -/
def always (u : Upd) (s : State) : Host.Outcome State Fault Refusal := .next ((andThen u mgtWatch).run s)

end Sys2Proof.Machine
end

