-- ==== Sys2Proof/Machine/Links.lean ====
section
/-! DEFINITION. Sys2Proof/Machine/Links.lean: the links of the mesh and the express, their states and their credits (R417, R422,
R431, R434). Links 0 to 3 of a node are N, E, S and W; 32 + p is its express to peer p. Nodes are sites, and 64 + column the
trunk's ports. -/
namespace Sys2Proof.Machine
open Sys2Proof

/-- A router, with its express port. -/
def rtrOf (s : State) (n : Nat) : Rtr := SMap.get {} n s.rtr
/-- Replace it. -/
def setRtr (n : Nat) (x : Rtr) : Upd := act (.rtr n x)
/-- Change it. -/
def modRtr (n : Nat) (f : Rtr → Rtr) : Upd := read fun s => setRtr n (f (rtrOf s n))
/-- A core's send port. -/
def sndOf (s : State) (g : Nat) : Snd := SMap.get {} g s.snd
/-- Change it. -/
def modSnd (g : Nat) (f : Snd → Snd) : Upd := read fun s => act (.snd g (f (sndOf s g)))
/-- A bough port. -/
def bghOf (s : State) (p : Nat) : Bgh := SMap.get {} p s.bgh
/-- Change it. -/
def modBgh (p : Nat) (f : Bgh → Bgh) : Upd := read fun s => act (.bgh p (f (bghOf s p)))

/-- Has the node a router: a trunk port, or a site that is neither dormant nor fused off (R24, R417)? -/
def present (s : State) (n : Nat) : Bool := decide (64 ≤ n) || phys s n = 0 || phys s n = 3
/-- The node at the far end of a link by the grid: the trunk lies below row 0 (R417, R425). -/
def gridNbr (n l : Nat) : Option Nat :=
  if 64 ≤ n then (if l = 0 then some (n - 64) else none)
  else match l with
    | 0 => if n / 8 < 7 then some (n + 8) else none
    | 1 => if n % 8 < 7 then some (n + 1) else none
    | 2 => if n / 8 = 0 then some (64 + n) else some (n - 8)
    | 3 => if n % 8 = 0 then none else some (n - 1)
    | _ => if 32 ≤ l ∧ l < 96 ∧ l - 32 ≠ n then some (l - 32) else none
/-- The far end of a link that is not ABSENT. -/
def farEnd (s : State) (n l : Nat) : Option Nat := match gridNbr n l with
  | some m => if present s n && present s m then some m else none
  | none => none
/-- The number of a link at its far end. -/
def opp (n l : Nat) : Nat := if l < 4 then (l + 2) % 4 else 32 + n
/-- Has the node power (R521)? -/
def nodeUp (s : State) (n : Nat) : Bool := decide (64 ≤ n) || domOn s n 0 .root
/-- A link's state: 0 ABSENT, 1 UP, 2 DOWN, 3 RECON. -/
def linkSt (s : State) (n l : Nat) : Nat := match farEnd s n l with
  | none => 0
  | some m => match SMap.find l (rtrOf s n).links with
    | some v => v
    | none => if nodeUp s n && nodeUp s m then 1 else 2

/-- The ledger index of a link, VC and class (R651). -/
def credIdx (l vc cls : Nat) : Nat := if l < 4 then 8 * l + 2 * vc + cls else 32 + 4 * (l - 32) + vc
/-- Buffers offered per VC and class (R422). -/
def fullCred (l cls : Nat) : Nat := if l < 4 then (if cls = 0 then 16 else 4) else 2
/-- Buffers that the far end offers now. -/
def offered (s : State) (n l vc cls : Nat) : Nat := (SMap.find (credIdx l vc cls) (rtrOf s n).offer).getD (fullCred l cls)
/-- Packets sent whose credits have not returned. -/
def unreturned (s : State) (n l vc cls : Nat) : Nat := SMap.get 0 (credIdx l vc cls) (rtrOf s n).used
/-- Credits held. -/
def credHeld (s : State) (n l vc cls : Nat) : Nat := offered s n l vc cls - unreturned s n l vc cls
/-- The classes of a link's credits. -/
def linkClasses (l : Nat) : List Nat := if l < 4 then [0, 1] else [0]
/-- Unreturned packets of a link per VC. -/
def unreturnedVc (s : State) (n l vc : Nat) : Nat := (linkClasses l).foldl (fun k c => k + unreturned s n l vc c) 0

/-- Does the site's router forward: its RTR in RUN or FAULT, its clock not lost? The trunk's ports always do. -/
def rtrRuns (s : State) (n : Nat) : Bool :=
  decide (64 ≤ n) || ((pgState s ⟨.RTR, n⟩ = stRUN || pgState s ⟨.RTR, n⟩ = stFAULT) && !islandLost s 1 n 0)
/-- Does the site's express port send and receive? -/
def xprRuns (s : State) (n : Nat) : Bool :=
  decide (n < 64) && (pgState s ⟨.XPR, n⟩ = stRUN || pgState s ⟨.XPR, n⟩ = stFAULT) && !islandLost s 1 n 0
    && fld s (Page.tile .XPR n + R.XPR_CTRL) 0 0 = 1
/-- Does the tile answer RETRY_LATER: in OFF or RESET (R429)? -/
def tileRetry (s : State) (site : Nat) : Bool := pgState s ⟨.TILE, site⟩ = stOFF || pgState s ⟨.TILE, site⟩ = stRESET
/-- Does the router answer DEAD for its own cores: the site is retired (R430)? -/
def tileDead (s : State) (site : Nat) : Bool := phys s site = 3 || retiring s site

end Sys2Proof.Machine
end

