-- ==== Sys2Proof/Machine/Events.lean ====
section
/-! DEFINITION. Sys2Proof/Machine/Events.lean: event records, rings, the hold store, counted drops and MSI-X (R55, R479 to
R486, R491). Raising an event takes `onDrop`, what the first drop after the hold store had room raises (R485). -/
namespace Sys2Proof.Machine
open Sys2Proof

abbrev evqB : Nat := Page.trunk .EVQ

/-- The 64 bytes of a record (R479). -/
def EvRec.bytes (e : EvRec) : List Byte :=
  toBytes 2 e.typ ++ toBytes 2 e.flags ++ toBytes 4 e.seq ++ toBytes 8 e.time ++ toBytes 4 e.page ++ toBytes 4 e.src
    ++ toBytes 40 e.payload

/-- Records ring `n` holds at most. -/
def ringSize (s : State) (n : Nat) : Nat := 2 ^ fld s (evqB + R.ER_SIZE n) 4 0
/-- Is ring `n` full? (R481) -/
def ringFull (s : State) (n : Nat) : Bool :=
  (rd s (evqB + R.ER_PROD n) + 2 ^ 32 - rd s (evqB + R.ER_CONS n)) % 2 ^ 32 ≥ ringSize s n
/-- Can ring `n` be written? (R481) -/
def ringOpen (s : State) (n : Nat) : Bool :=
  pgState s (trunkRef .EVQ) = stRUN && fld s (evqB + R.ER_CTRL n) 0 0 = 1 && busMaster s && !ringFull s n
/-- Does ring `n` have held records? (R484) -/
def ringHeld (s : State) (n : Nat) : Bool := s.evq.hold.any (·.1 = n)

/-- A dword of the MSI-X table: `w` 0 address low, 1 address high, 2 data, 3 vector control. -/
def msixDw (s : State) (v w : Nat) : Nat := (SMap.get 0 (4 * v + w) s.msix).toNat

/-- Send vector `v`, or set its PBA bit when it may not be sent now (R483). -/
def msixSend (v : Nat) : Upd := read fun s =>
  if bit (msixDw s v 3) 0 || msixMasked s || !busMaster s || !linkUp s then
    when (!s.evq.pba.contains v) (act (.evPba (s.evq.pba ++ [v])))
  else seqs [act (.evPba (s.evq.pba.filter (· ≠ v))),
    act (.out (.msix v (msixDw s v 0 + msixDw s v 1 * 2 ^ 32) (msixDw s v 2)))]

/-- The vector's message falls due when the records counted reach mod_cnt or mod_us has passed (R483). -/
def msixDue (s : State) (n : Nat) : Bool :=
  let c := SMap.get (0, 0) n s.evq.counted
  c.1 > 0 && (c.1 ≥ fld s (evqB + R.ER_CTRL n) 15 8 || s.now ≥ c.2 + 1000 * fld s (evqB + R.ER_CTRL n) 31 16)

/-- Send a message that is due; while MSI-X is disabled none is sent (R483). -/
def msixCheck (n : Nat) : Upd := read fun s =>
  when (msixDue s n && msixEnabled s) (seqs [act (.evCount n (0, 0)), msixSend n])

/-- Write a record to its ring, then the shadow index, and count it for the vector (R471, R481, R483). -/
def ringWrite (n : Nat) (e : EvRec) : Upd := read fun s =>
  let p := rd s (evqB + R.ER_PROD n)
  let c := SMap.get (0, 0) n s.evq.counted
  seqs [hostWrite (rd64 s (evqB + R.ER_BASE_LO n) + (p % ringSize s n) * 64) e.bytes,
    setReg (evqB + R.ER_PROD n) (p + 1),
    hostWrite (rd64 s (evqB + R.ER_SHADOW_LO n)) (toBytes 4 (p + 1)),
    ledAdd 0x20 64 n 1 1,
    act (.evCount n (c.1 + 1, if c.1 = 0 then s.now else c.2)),
    msixCheck n]

/-- EVQ_HELD_MAX follows the records held (R490). -/
def heldMax : Upd := read fun s =>
  when (s.evq.hold.length > fld s (evqB + R.EVQ_HELD_MAX) 12 0) (setReg (evqB + R.EVQ_HELD_MAX) s.evq.hold.length)

/-- Was the last record of the module not dropped, or has the hold store had room since? A record is dropped only while
the store is full, so the first drop is one at which no gap stands since the store was last below 4,096 (R485). -/
def firstDrop (s : State) : Bool := s.evq.gap.isEmpty || !s.evq.gap.contains 64

/-- Produce a record for ring `n`: written, held or dropped, always counted (R480, R484, R485). Ring number 64 in `gap`
marks that a drop has been counted since the hold store last had room. -/
def emit (onDrop : Upd) (n typ pg org pl flags : Nat) : Upd := read fun s =>
  let seq := rd s (evqB + R.EVQ_SEQ n)
  let gap := s.evq.gap.contains n
  let e : EvRec := { typ := typ, flags := flags + (if gap then 2 else 0), seq := seq, time := s.now, page := pg, src := org, payload := pl }
  seqs [setReg (evqB + R.EVQ_SEQ n) (if seq = 0xFFFFFFFF then 1 else seq + 1),
    ledAdd 0x20 64 n 0 1,
    if ringOpen s n && !ringHeld s n then
      seqs [act (.evGap (s.evq.gap.filter (· ≠ n))), ringWrite n e]
    else if s.evq.hold.length < 4096 then
      seqs [act (.evGap ((s.evq.gap.filter (· ≠ n)).filter (· ≠ 64))), act (.evHold n { e with flags := e.flags + 1 }), heldMax]
    else
      seqs [bump (evqB + R.EVQ_DROP n) 1, bump (evqB + R.EVQ_DROPPED) 1, ledAdd 0x20 64 n 3 1,
        act (.evGap (s.evq.gap.filter (· ≠ n) ++ [n] ++ (if firstDrop s then [64] else []))),
        when (firstDrop s) onDrop]]

/-- Write held records of ring `n` while it can take them: at most `k`, in order (R484). -/
def releaseRing (n : Nat) : Nat → Upd
  | 0 => skip
  | k + 1 => read fun s =>
    match s.evq.hold.find? (·.1 = n) with
    | none => skip
    | some e => when (ringOpen s n) (seqs [act (.evUnhold n), act (.evGap (s.evq.gap.filter (· ≠ 64))), ringWrite n e.2, releaseRing n k])

/-- Write held records of every ring that can take them (R484). -/
def releaseAll : Upd := read fun s => each (s.evq.hold.map (·.1)).eraseDups (fun n => releaseRing n s.evq.hold.length)

/-- An event of a page (R55), a proxy record where the trunk raises it on the block's behalf (R47, R479): set its PG_EVT bit; write a record if the bit was clear and is enabled, count it if the bit
was set. A page whose PG_CAP.evt is 0 raises none (R54). -/
def evtW (onDrop : Upd) (r : Page.Ref) (b typ org pl : Nat) : Upd := read fun s =>
  let pg := Page.base r
  if !Page.hasEvt r.t then skip
  else if bit (rd s (pg + R.PG_EVT)) b then bump (pg + R.PG_EVT_CNT) 1
  else seqs [setFld (pg + R.PG_EVT) b b 1,
    when (bit (rd s (pg + R.PG_EVT_EN)) b) (emit onDrop (fld s (pg + R.PG_EVT_RING) 5 0) typ (pageNo r) org pl (if answers s r then 0 else 4))]

/-- How a page's events are raised: page, PG_EVT bit, type, origin, payload. -/
abbrev EvtFn := Page.Ref → Nat → Nat → Nat → Nat → Upd

/-- STATE_CHANGED (R64): 24 state before, 25 state after, 26 cause. -/
def stateChanged (ev : EvtFn) (r : Page.Ref) (old new cause : Nat) : Upd :=
  ev r 28 0x0104 0 (payload [(24, 1, old), (25, 1, new), (26, 1, cause)])

/-- A waits command ends: its status, and CMD_DONE (R60, R64). -/
def endBusy (ev : EvtFn) (r : Page.Ref) (status : Nat) : Upd := read fun s =>
  let pg := Page.base r
  match SMap.find pg s.busy with
  | none => skip
  | some b =>
    seqs [act (.busy pg none), setFld (pg + R.PG_CMD_STATUS) 7 0 status,
      ev r 31 0x0100 b.org (payload [(24, 1, b.op), (25, 1, status), (26, 1, pgState s r), (28, 4, b.seq), (32, 8, b.time)])]

/-! ## Ledger moves (R653) -/

/-- LDG_RECONCILED of a site (64: the module's): an amount moved to a loss term, or credits reconciled (R653, R658). -/
def reconciled (ev : EvtFn) (site id cause idx amount credits : Nat) : Upd :=
  let r : Page.Ref := if site = 64 then ⟨.LDGD, 0⟩ else ⟨.LDG, site⟩
  seqs [bump (Page.base r + R.LDG_CNT_RECON) 1,
    ev r 1 0x0211 0 (payload [(24, 1, id), (25, 1, cause), (26, 2, idx), (28, 4, amount), (32, 4, credits)])]

/-- Move an in-flight amount into the loss term of a ledger (R653). -/
def ledLose (ev : EvtFn) (site id idx loss amount cause : Nat) : Upd :=
  when (amount > 0) (seqs [ledAdd id site idx loss amount, reconciled ev site id cause idx amount 0])

end Sys2Proof.Machine
end

