-- ==== Sys2Proof/Machine/Mem.lean ====
section
/-! DEFINITION. Sys2Proof/Machine/Mem.lean: device memory: the DPA layout, codewords and poison, dead DPAs and
RETRY_LATER (R268 to R274, R429, R583, R584). -/
namespace Sys2Proof.Machine
open Sys2Proof

/-! ## Addresses (R268 to R270) -/

/-- The site a DPA names. -/
def dpaSite (d : Nat) : Nat := bits d 40 35
/-- The global core number of the slice a DPA names. -/
def dpaCore (d : Nat) : Nat := bits d 40 29
/-- The slice offset of a DPA. -/
def dpaOff (d : Nat) : Nat := bits d 28 0
/-- The DPA of a slice offset. -/
def dpaOf (g off : Nat) : Nat := g * 2 ^ 29 + off % 2 ^ 29
/-- The channel of a slice offset (R269). -/
def chanOf (off : Nat) : Nat := bits off 10 8 ^^^ bits off 18 16
/-- The channel address of a slice offset (R269). -/
def caOf (off : Nat) : Nat := bits off 28 11 * 256 + bits off 7 0
/-- The slice offset of a channel address. -/
def offOfCa (ch ca : Nat) : Nat :=
  let hi := ca / 256
  let lowsel := ch ^^^ bits hi 7 5
  hi * 2048 + lowsel * 256 + ca % 256

/-! ## Bytes and poison -/

/-- A byte of device memory. -/
def memByte (s : State) (d : Nat) : Byte := SMap.get 0 d s.mem
/-- `n` bytes of device memory. -/
def memBytes (s : State) (d n : Nat) : List Byte := (List.range n).map (fun i => memByte s (d + i))
/-- A little-endian number in device memory. -/
def memNum (s : State) (d n : Nat) : Nat := ofBytes (memBytes s d n)
/-- Does the codeword hold the poison pattern? -/
def cwPoison (s : State) (cw : Nat) : Bool := SMap.get false cw s.poison
/-- The codewords that `n` bytes at `d` touch. -/
def cwsOf (d n : Nat) : List Nat := if n = 0 then [] else (List.range ((d + n - 1) / 32 - d / 32 + 1)).map (· + d / 32)
/-- Does any codeword of the range hold poison? -/
def rangePoison (s : State) (d n : Nat) : Bool := (cwsOf d n).any (cwPoison s)

/-! ## Where an access goes (R271, R429) -/

/-- How a device-memory address answers. -/
inductive Reach where
  | ok | dead | retry
deriving DecidableEq, Repr

/-- A DPA of a site that is not enabled or that the detour tables give as unreachable, a slice in OFF, FAULT or RETIRED, and
a failed channel are dead; a tile in OFF or RESET answers RETRY_LATER; a slice in RESET, IDLE or HALT and a held channel keep
the request in their queue (R271, R292, R293, R297, R429, R503). -/
def reach (s : State) (d : Nat) : Reach :=
  let site := dpaSite d
  if !siteEnabled s site || fenced s site then .dead
  else
    let st := pgState s ⟨.TILE, site⟩
    let sl := pgState s ⟨.SLC, dpaCore d⟩
    let ch := fld s (Page.core .SLC (dpaCore d) + R.CH_STATUS (chanOf (dpaOff d))) 31 28
    if st = stOFF || st = stRESET then .retry
    else if sl = stFAULT || sl = stOFF || sl = stRETIRED || ch = 6 then .dead
    else if sl ≠ stRUN || ch = 5 then .retry
    else .ok

/-- The granules that `n` bytes at `d` touch, by their first addresses. -/
def granules (d n : Nat) : List Nat := if n = 0 then [] else (List.range ((d + n - 1) / 256 - d / 256 + 1)).map (fun i => (i + d / 256) * 256)
/-- How a range answers: retry if a granule of it does, dead if every granule is. -/
def reachRange (s : State) (a n : Nat) : Reach :=
  let l := granules a (max n 1)
  if l.any (fun x => decide (reach s x = .retry)) then .retry
  else if l.all (fun x => decide (reach s x = .dead)) then .dead else .ok

/-- What a read of `n` bytes at `d` gives: the bytes, and whether they are poison (R271, R583). -/
def memRead (s : State) (d n : Nat) : Nat × Bool :=
  if (granules d n).all (fun x => decide (reach s x = .ok)) then (if rangePoison s d n then (0, true) else (memNum s d n, false))
  else (0, true)

/-! ## Writing -/

/-- Place bytes in device memory, poison marks aside. -/
def memPlace (d : Nat) : List Byte → Upd
  | [] => skip
  | b :: bs => fun st => .mem d b :: memPlace (d + 1) bs st

/-- The bytes of a write that fall in codeword `cw`: start address and bytes. -/
def cwPart (d : Nat) (bs : List Byte) (cw : Nat) : Nat × List Byte :=
  let lo := max d (cw * 32)
  let hi := min (d + bs.length) (cw * 32 + 32)
  (lo, (bs.drop (lo - d)).take (hi - lo))

/-- Write one codeword's share: a whole codeword replaces poison, a partial write leaves it (R274, R584). -/
def cwWrite (d : Nat) (bs : List Byte) (cw : Nat) : Upd := read fun s =>
  let p := cwPart d bs cw
  if p.2.length = 32 then seqs [act (.poison cw false), memPlace p.1 p.2]
  else when (!cwPoison s cw) (memPlace p.1 p.2)

/-- Does the codeword's slice take a write? What goes to a dead DPA is discarded (R271). -/
def cwAlive (s : State) (cw : Nat) : Bool := reach s (cw * 32) ≠ .dead
/-- Write bytes to device memory. -/
def memWrite (d : Nat) (bs : List Byte) : Upd := read fun s => each ((cwsOf d bs.length).filter (cwAlive s)) (cwWrite d bs)

/-- Write the poison pattern into a codeword: data bytes 0 and the mark (R583). -/
def cwPoisonWrite (cw : Nat) : Upd := seqs [memPlace (cw * 32) (List.replicate 32 0), act (.poison cw true)]
/-- Write poison into every codeword that a range touches. -/
def memPoison (d n : Nat) : Upd := read fun s => each ((cwsOf d n).filter (cwAlive s)) cwPoisonWrite

/-! ## Dead accesses (R272) -/

/-- The SLC_DEAD_DPA record: origin page the SLC page of the addressed core, on TRK's ring, raised by the trunk on the
site's behalf. -/
def deadRecord (onDrop : Upd) (d org : Nat) (isRead : Bool) (n : Nat) : Upd := read fun s =>
  emit onDrop (fld s (Page.trunk .TRK + R.PG_EVT_RING) 5 0) 0x0400 (pageNo ⟨.SLC, dpaCore d⟩) org
    (payload [(24, 8, d), (32, 2, org), (34, 1, b2n isRead), (36, 4, n)]) 4

/-- An access to a dead DPA: reported for a site that is not enabled, at most once per window (R272). -/
def deadAccess (onDrop : Upd) (d org : Nat) (isRead : Bool) : Upd := read fun s =>
  let site := dpaSite d
  if siteEnabled s site then skip
  else match SMap.find site s.deadWin with
    | none => seqs [deadRecord onDrop d org isRead 1, act (.deadWin site (some { opened := s.now }))]
    | some w =>
      let w' := if w.count = 0 then { w with count := 1, dpa := d, org := org, isRead := isRead } else { w with count := w.count + 1 }
      act (.deadWin site (some w'))

end Sys2Proof.Machine
end

