-- ==== Sys2Proof/Machine/Temps.lean ====
section
/-! DEFINITION. Sys2Proof/Machine/Temps.lean: sensor numbers, effective readings and the stack temperature (R280, R608 to
R615). Temperatures are in 0.25 °C. -/
namespace Sys2Proof.Machine
open Sys2Proof

/-- A site's sensors. -/
def tthOf (s : State) (site : Nat) : Tth := SMap.get {} site s.tth
/-- Replace a site's sensors. -/
def setTth (site : Nat) (x : Tth) : Upd := act (.tth site x)
/-- Offset of a site's TTHM page. -/
abbrev tthB (site : Nat) : Nat := Page.tile .TTHM site
/-- A site's TTHM page as a place. -/
abbrev tthR (site : Nat) : Page.Ref := ⟨.TTHM, site⟩

/-- The quadrant of a core of a site (R280, R608). -/
def quadOf (c : Nat) : Nat := c % 8 / 4 + 2 * (c / 8 / 4)
/-- The cores of a quadrant. -/
def quadCores (q : Nat) : List Nat := (List.range 64).filter (fun c => quadOf c = q)
/-- The DRAM sensor of layer `k` in quadrant `q`; the logic diode `j` of quadrant `q`. -/
def dramSens (k q : Nat) : Nat := 4 * k + q
/-- The logic diode `j` of quadrant `q`. -/
def diode (q j : Nat) : Nat := 32 + 2 * q + j

/-- The raw reading of a sensor. -/
def sensRaw (s : State) (site n : Nat) : Int := sext 16 (fld s (tthB site + R.TTHM_SENS n) 31 16)
/-- Is it marked broken? -/
def sensBroken (s : State) (site n : Nat) : Bool := getBit64 s (tthB site + R.TTHM_BROKEN_LO) n
/-- Is it marked guarded? -/
def sensGuarded (s : State) (site n : Nat) : Bool := getBit64 s (tthB site + R.TTHM_GUARD_LO) n

/-- The canopy model's nodes of a quadrant. -/
def Tth.node (x : Tth) (q : Nat) : Int × Int × Int × Int := ((x.nodes.lookup q).getD (0, 0, 0, 0))
/-- The model's estimate for a DRAM sensor: layers 0 and 7 are D0 and D7, the others lie between them (R613). -/
def modelEst (s : State) (site n : Nat) : Int :=
  let x := (tthOf s site).node (n % 4)
  x.2.1 + (x.2.2.1 - x.2.1) * ((n / 4 : Nat) : Int) / 7

/-- The effective reading of a DRAM sensor (R612, R614, R615). -/
def effDram (s : State) (site n : Nat) : Int :=
  if sensBroken s site n then 380
  else if sensGuarded s site n then max (sensRaw s site n) (modelEst s site n) + 12
  else sensRaw s site n
/-- The effective logic reading of a quadrant. -/
def effLogic (s : State) (site q : Nat) : Int :=
  let v (j : Nat) : Int := if sensBroken s site (diode q j) then 400 else sensRaw s site (diode q j)
  let m := max (v 0) (v 1)
  if sensGuarded s site (diode q 0) && !sensBroken s site (diode q 0) && !sensBroken s site (diode q 1) then m + 12 else m
/-- The highest of a list of readings. -/
def maxInt (l : List Int) : Int := match l with | [] => 0 | x :: r => r.foldl max x
/-- The effective DRAM reading of a quadrant: the highest over its eight layers. -/
def effStack (s : State) (site q : Nat) : Int := maxInt ((List.range 8).map (fun k => effDram s site (dramSens k q)))
/-- The prediction of a quadrant: DRAM and logic. -/
def predDram (s : State) (site q : Nat) : Int := sext 16 (fld s (tthB site + R.TTHM_PRED q) 31 16)
/-- Its predicted logic reading. -/
def predLogic (s : State) (site q : Nat) : Int := sext 16 (fld s (tthB site + R.TTHM_PRED q) 15 0)

/-- T of a core (R280). -/
def stackT (s : State) (g : Nat) : Int :=
  let q := quadOf (g % 64)
  let t := effStack s (g / 64) q
  if fld s (Page.core .SLC g + R.SLC_CTRL) 0 0 = 1 then max t (predDram s (g / 64) q) else t
/-- The temperature of a channel's layer (R283). -/
def layerT (s : State) (g k : Nat) : Int := effDram s (g / 64) (dramSens k (quadOf (g % 64)))
/-- Is the layer's sensor broken or its sideband lost, so that the channel refreshes fastest? (R283) -/
def layerBlind (s : State) (g k : Nat) : Bool := sensBroken s (g / 64) (dramSens k (quadOf (g % 64)))
/-- Is the quadrant halted? (R618) -/
def quadHalted (s : State) (site q : Nat) : Bool := bit (rd s (tthB site + R.TTHM_STATE)) q
/-- Is the core in a halted quadrant? -/
def thermHalted (s : State) (g : Nat) : Bool := quadHalted s (g / 64) (quadOf (g % 64))

/-- May the core's threads and engines start work: no power-fail, no halt of its quadrant? (R533, R618) -/
def coreWorks (s : State) (g : Nat) : Bool := fld s (Page.trunk .PWR + R.PWR_STATE) 4 4 = 0 && !thermHalted s g

end Sys2Proof.Machine
end

