-- ==== Sys2Proof/Machine/Views.lean ====
section
/-! DEFINITION. Sys2Proof/Machine/Views.lean: what a register reads as. A register that reports other state is computed
from that state here, so that nothing is held twice; every other register reads as it is held. -/
namespace Sys2Proof.Machine
open Sys2Proof

/-! ## Threads (R82, R125) -/

/-- The key of a thread. -/
def thrKey (g th : Nat) : Nat := g * 64 + th
/-- A thread. -/
def thr (s : State) (g th : Nat) : Thread := SMap.get {} (thrKey g th) s.threads
/-- The listed threads of a core: number and thread. -/
def coreThreads (s : State) (g : Nat) : List (Nat × Thread) :=
  (s.threads.filter (fun e => e.1 / 64 = g)).map (fun e => (e.1 % 64, e.2))

abbrev tFREE : Nat := 0
abbrev tREADY : Nat := 1
abbrev tWDATA : Nat := 2
abbrev tWSYNC : Nat := 3
abbrev tWENG : Nat := 4
abbrev tSTOPPED : Nat := 5
abbrev tFAULT : Nat := 6

/-- THR_STATUS of a thread. -/
def thrStatus (t : Thread) : Nat :=
  let (k, obj) : Nat × Nat := match t.wait with
    | .none => (0, 0)
    | .tok o _ => (1, o)
    | .bar o _ => (2, o)
    | _ => (3, 0)
  (t.ring % 4) * 2 ^ 16 + k * 2 ^ 14 + (obj % 64) * 2 ^ 8 + (if t.ra.isSome then 2 ^ 7 else 0)
    + t.slots.length * 2 ^ 4 + t.state

/-- A core's leaf store. -/
def leafOf (s : State) (g : Nat) : Leaf := SMap.get {} g s.leaf
/-- A core's descriptor machinery. -/
def streamOf (s : State) (g : Nat) : Stream := SMap.get {} g s.stream
/-- Bytes of leaf scratch under the present split (R109). -/
def scratchSize (s : State) (g : Nat) : Nat := (12 - fld s (Page.core .CORE g + R.CORE_LEAF_SPLIT) 3 0) * 131072
/-- Lines of leaf cache under the present split. -/
def cacheLines (s : State) (g : Nat) : Nat := fld s (Page.core .CORE g + R.CORE_LEAF_SPLIT) 3 0 * 512
/-- Pinned lines. -/
def pinnedLines (l : Leaf) : Nat := (l.lines.filter (fun x => x.st = .pinned)).length

/-- May CORE_REG_DATA show the selected register? (R125) -/
def regShown (s : State) (g th : Nat) : Bool :=
  let st := pgState s ⟨.CORE, g⟩
  st = stIDLE || st = stHALT || st = stFAULT || (thr s g th).state = tFAULT

/-- CORE registers that show threads and the leaf store. -/
def coreView (s : State) (g o : Nat) : Option Nat :=
  let sel := rd s (Page.core .CORE g + R.CORE_REG_SEL)
  let th := bits sel 13 8
  let rg := bits sel 4 0
  let v := if regShown s g th then (SMap.get 0 rg (thr s g th).regs).toNat else 0
  if o = R.CORE_KEEP_LINES then some (cacheLines s g / 2 * 2 ^ 16 + pinnedLines (leafOf s g))
  else if o = R.CORE_ACTIVE then
    let ts := coreThreads s g
    some ((ts.foldl (fun n e => n + e.2.slots.length) 0) * 2 ^ 16 + (ts.filter (fun e => e.2.state ≠ tFREE)).length)
  else if o = R.CORE_REG_DATA_LO then some (v % 2 ^ 32)
  else if o = R.CORE_REG_DATA_HI then some (v / 2 ^ 32)
  else if o = R.CORE_REG_STATUS then some (b2n (regShown s g th && (thr s g th).poison.contains rg))
  else if 0x400 ≤ o ∧ o < 0x800 then
    let t := thr s g ((o - 0x400) / 0x10)
    some (match o % 0x10 with
      | 0 => thrStatus t
      | 4 => t.pc % 2 ^ 32
      | 8 => t.pc / 2 ^ 32
      | _ => t.finfoSrc * 2 ^ 24 + t.finfoDetail % 2 ^ 24)
  else none

/-! ## The MXU page (R178 to R217) -/

/-- A core's matrix array. -/
def arrOf (s : State) (g : Nat) : Arr := SMap.get {} g s.arr
/-- A core's MV path. -/
def mvOf (s : State) (g : Nat) : Mv := SMap.get {} g s.mv
/-- Is split mode on? (R165) -/
def splitOn (s : State) (g : Nat) : Bool := fld s (Page.core .MXU g + R.MXU_PASS_CTRL) 0 0 = 1
/-- Instructions of a half not yet started. -/
def Arr.queue (x : Arr) (u : Nat) : List EOp := if u = 0 then x.q0 else x.q1
/-- Blocks fetched into a staging entry and not yet wholly written (R161). -/
def Arr.staged (x : Arr) : List Blk := x.blks.filter (fun b => !b.ready)

/-- The feeder of a half: idle, entering rows, waiting for the block, or held back by the state. -/
def feedState (s : State) (g u : Nat) : Nat :=
  let x := arrOf s g
  let st := pgState s ⟨.MXU, g⟩
  match (x.passes.filter (·.unit = u)).getLast? with
  | none => 0
  | some p => if st ≠ stRUN ∧ st ≠ stDRAIN then 4 else if x.blks.any (fun b => b.id = p.blk && b.ready) then 1 else 3

/-- Stored lines of an MV run: none for a word whose counts do not divide. -/
def mvLines (b : Nat) : Nat :=
  let k := bits b 47 32 + 1
  match bits b 23 21 with
  | 1 => k / 2 | 2 => k / 4 | 3 => k / 4 | 4 => k / 2 | _ => k

/-- May an accumulator value be inspected? -/
def accShown (s : State) (g : Nat) : Bool :=
  let st := pgState s ⟨.MXU, g⟩
  st = stIDLE || st = stHALT || st = stFAULT

/-- A core's score unit and KV port. -/
def attOf (s : State) (g : Nat) : Att := SMap.get {} g s.att
/-- Does the score unit hold engine `e` now: 0 the MV path, 1 the array (R347)? -/
def attClaims (s : State) (g e : Nat) : Bool :=
  let x := attOf s g
  match x.run with | some r => r.eng = e && x.work.isSome | none => false
/-- A site's prefix unit. -/
def pfxOf (s : State) (site : Nat) : Pfx := SMap.get {} site s.pfx

/-- MXU registers that show the array and the MV path. -/
def mxuView (s : State) (g o : Nat) : Option Nat :=
  let x := arrOf s g
  let m := mvOf s g
  let b := Page.core .MXU g
  let tags (u : Nat) : Nat := ((x.passes.filter (·.unit = u)).map (·.tag)).eraseDups.foldl (fun n t => n + 2 ^ t) 0
  let bad (u : Nat) : Nat := b2n (x.blks.any (fun k => k.unit = u && k.bad.isSome))
  if o = R.MXU_ARR_STATUS then
    some (tags 1 * 2 ^ 14 + tags 0 * 2 ^ 10 + bad 1 * 2 ^ 9 + bad 0 * 2 ^ 8 + feedState s g 1 * 2 ^ 3 + feedState s g 0)
  else if o = R.MXU_ARR_QUEUE then some (x.q1.length * 2 ^ 16 + x.staged.length * 2 ^ 8 + x.q0.length)
  else if 0x150 ≤ o ∧ o < 0x170 then
    some ((x.valid.filter (fun r => r / 32 = (o - 0x150) / 4)).foldl (fun n r => n + 2 ^ (r % 32)) 0)
  else if o = R.MXU_ACC_DATA then
    let sel := rd s (b + R.MXU_ACC_SEL)
    some (if accShown s g then SMap.get 0 (bits sel 7 0 * 32 + bits sel 12 8) x.acc else 0)
  else if o = R.MXU_MV_STATUS then
    let st := pgState s ⟨.MXU, g⟩
    let left := match m.run with | none => 0 | some r => mvLines r.op.b - r.lines.length - 32 * r.done
    let run := if m.run.isSome then (if st = stRUN || st = stDRAIN then 1 else 2) else if m.store.isSome then 3 else 0
    some (min left 48 * 2 ^ 20 + m.q.length * 2 ^ 15 + run * 2 ^ 12 + b2n m.md.isSome * 8 + b2n m.vec.isSome * 4
      + b2n (m.valid.contains 1) * 2 + b2n (m.valid.contains 0))
  else if o = R.MXU_MV_DATA then
    let sel := rd s (b + R.MXU_MV_SEL)
    some (if accShown s g then SMap.get 0 (bits sel 12 12 * 4096 + bits sel 11 9 * 512 + bits sel 8 0) m.acc else 0)
  else if o = R.MXU_ATT_STATUS then
    let a := attOf s g
    let q := min a.q.length 8 * 2 ^ 20
    some (match a.run with
      | none => q
      | some r => q + (if r.aborted then 2 else 1) * 2 ^ 18 + r.eng * 2 ^ 17 + b2n (attClaims s g r.eng) * 2 ^ 16 + r.rows.length)
  else none

/-! ## The DSP page (R261 to R263) -/

/-- A site's dispatch unit. -/
def dspOf (s : State) (site : Nat) : Dsp := SMap.get {} site s.dsp
/-- A core's dispatch port. -/
def portOf (s : State) (g : Nat) : Port := SMap.get {} g s.port
/-- The round of a handle. -/
def Dsp.round (x : Dsp) (h : Nat) : Option Round := x.rounds.find? (·.handle = h)
/-- Prefetch lines now pinned. -/
def Dsp.held (x : Dsp) : Nat := x.pins.foldl (fun n p => n + p.pinned.getD 0) 0

/-- DSP registers that show the rounds; a FREE handle shows its last round with state 0 and nothing pending. -/
def dspView (s : State) (site o : Nat) : Option Nat :=
  let x := dspOf s site
  let of (st : Nat) : Nat := (x.rounds.filter (·.state = st)).foldl (fun n r => n + 2 ^ r.handle) 0
  if o = R.DSP_STATUS then some (of 2 * 2 ^ 16 + of 1)
  else if o = R.DSP_PIN_HELD then some x.held
  else if 0x180 ≤ o ∧ o < 0x200 then
    match x.round ((o - 0x180) / 8) with
    | none => none
    | some r => some (if o % 8 = 0 then r.layer * 2 ^ 16 + r.tokens
        else r.state * 2 ^ 30 + (r.tokens - r.written.length) * 2 ^ 16 + r.seq % 2 ^ 16)
  else none

/-! ## Faults (R647, R655) -/

/-- The mask of source `n` of the page at `pg`. -/
def routeMask (s : State) (pg n : Nat) : Nat := bits (rd s (pg + R.PG_FLT_ROUTE (n / 4))) (8 * (n % 4) + 4) (8 * (n % 4))
/-- Pages whose PG_FLT holds a bit: base and value. -/
def fltPages (s : State) : List (Nat × Nat) :=
  (s.regs.filter (fun e => e.1 % 0x1000 = R.PG_FLT)).map (fun e => (e.1 - R.PG_FLT, e.2.toNat))
/-- Enabled sources of a page that are raised. -/
def fltOn (s : State) (pg flt : Nat) : Nat := flt &&& rd s (pg + R.PG_FLT_EN)
/-- Sources of a page that hold FAULT_N (R643, R647). -/
def pageHolds (s : State) (e : Nat × Nat) : Nat :=
  match Page.ofOff e.1 with
  | none => 0
  | some r =>
    if pgState s r = stOFF || pgState s r = stRETIRED then 0
    else ((List.range 32).filter (fun n => bit (fltOn s e.1 e.2) n && bit (routeMask s e.1 n) 4)).length
/-- Sources that hold FAULT_N. -/
def faultHolds (s : State) : Nat := (fltPages s).foldl (fun n e => n + pageHolds s e) 0
/-- Sources of a site that hold FAULT_N. -/
def siteHolds (s : State) (site : Nat) : Nat :=
  ((fltPages s).filter (fun e => e.1 < Page.trunkBase && e.1 / 0x200000 = site)).foldl (fun n e => n + pageHolds s e) 0
/-- THM_STATUS.flow_lost. -/
def flowLost (s : State) : Bool := fld s (Page.trunk .THM + R.THM_STATUS) 2 2 = 1
/-- The terms of FAULT_N (R647). -/
def faultTerms (s : State) : Bool :=
  faultHolds s > 0 || flowLost s || fld s (Page.trunk .DFLT + R.DFLT_CTRL) 0 0 = 1

/-- A bit set of those `n` below `k` that meet `p`. -/
def bitset (k : Nat) (p : Nat → Bool) : Nat := (List.range k).foldl (fun v n => if p n then v + 2 ^ n else v) 0

/-- Does the page at `pg` have an enabled PG_FLT bit set? -/
def pageFaulty (s : State) (pg : Nat) : Bool := fltOn s pg (rd s (pg + R.PG_FLT)) ≠ 0

/-- TFLT registers that summarise the site. -/
def tfltView (s : State) (site o : Nat) : Option Nat :=
  let core (c : Nat) : Bool := Page.coreTypes.any (fun t => pageFaulty s (Page.core t (site * 64 + c)))
  if o = R.TFLT_PAGES then some (bitset 11 (fun i => pageFaulty s (Page.siteBase site + i * 0x1000)))
  else if o = R.TFLT_CORES_LO then some (bitset 32 core)
  else if o = R.TFLT_CORES_HI then some (bitset 32 (fun c => core (c + 32)))
  else if o = R.TFLT_FAULTN then some (min (siteHolds s site) 0xFFFF)
  else none

/-- DFLT registers that summarise the module. -/
def dfltView (s : State) (o : Nat) : Option Nat :=
  let first (site : Nat) : Bool := fld s (Page.tile .TFLT site + R.TFLT_FIRST) 31 31 = 1
  if o = R.DFLT_SITES_LO then some (bitset 32 first)
  else if o = R.DFLT_SITES_HI then some (bitset 32 (fun n => first (n + 32)))
  else if o = R.DFLT_TRUNK then some (bitset 24 (fun p => pageFaulty s (Page.trunkBase + p * 0x1000)))
  else if o = R.DFLT_FAULTN then
    some (b2n (fld s (Page.trunk .DFLT + R.DFLT_FAULTN) 31 31 = 1) * 2 ^ 31 + b2n (flowLost s) * 2 ^ 30 + min (faultHolds s) 0xFFFF)
  else if o = R.DFLT_TRAP_STATUS then
    some (setBits (rd s (Page.trunk .DFLT + o)) 4 0 s.flt.traps.length)
  else if o = R.DFLT_TRAP_DATA then
    let sel := rd s (Page.trunk .DFLT + R.DFLT_TRAP_SEL)
    some (((SMap.get [] (bits sel 8 5) s.flt.traps)[bits sel 4 0]?).getD 0)
  else none

/-! ## Journal, events, time -/

/-- JNL registers that report the store. -/
def jnlView (s : State) (o : Nat) : Option Nat :=
  if o = R.JNL_FILL then some s.jnl.fill
  else if o = R.JNL_OPEN_WIN then some s.jnl.wins.length
  else none

/-- EVQ registers that report the hold store. -/
def evqView (s : State) (o : Nat) : Option Nat :=
  if o = R.EVQ_HELD then some s.evq.hold.length
  else if o = R.EVQ_HOLD_RINGS_LO then some (bitset 32 (ringHeld s))
  else if o = R.EVQ_HOLD_RINGS_HI then some (bitset 32 (fun n => ringHeld s (n + 32)))
  else none

/-- TIM_NOW (R506). -/
def timView (s : State) (o : Nat) : Option Nat :=
  if o = R.TIM_NOW_LO then some (s.now % 2 ^ 32)
  else if o = R.TIM_NOW_HI then some (s.now / 2 ^ 32 % 2 ^ 32)
  else none

/-! ## Sites, slices, heat -/

/-- A slice. -/
def slcOf (s : State) (g : Nat) : Slc := SMap.get {} g s.slc
/-- A channel. -/
def chanAt (s : State) (g k : Nat) : Chan := ((slcOf s g).chans.lookup k).getD {}

/-- TILE registers that show the site: TILE_INFO, TILE_POS (R15, R572), and its channels by their states. -/
def tileView (s : State) (site o : Nat) : Option Nat :=
  let n (p : Nat → Bool) : Nat := ((List.range 512).filter (fun i => p (fld s (Page.core .SLC (site * 64 + i / 8) + R.CH_STATUS (i % 8)) 31 28))).length
  if o = R.TILE_INFO then some (phys s site * 2 ^ 28 + site * 2 ^ 8 + site / 8 * 2 ^ 4 + site % 8)
  else if o = R.TILE_POS then some ((1775 + 1550 * (site / 8)) * 2 ^ 16 + 1075 + 1550 * (site % 8))
  else if o = R.TILE_CHAN then some (n (fun x => x = 3) * 2 ^ 16 + n (fun x => x = 6))
  else none

/-- SLC_STATUS and the debts of CH_STATUS, as the channels stand. -/
def slcView (s : State) (g o : Nat) : Option Nat :=
  let st (k : Nat) : Nat := fld s (Page.core .SLC g + R.CH_STATUS k) 31 28
  if o = R.SLC_STATUS then
    some ((List.range 8).foldl (fun v k => v + (if st k = 6 then 2 ^ (24 + k) else 0)
      + (if fld s (Page.core .SLC g + R.CH_STATUS k) 25 25 = 0 then 2 ^ (16 + k) else 0)
      + (if (chanAt s g k).rt.isSome then 2 ^ (8 + k) else 0) + (if st k = 5 then 2 ^ k else 0)) 0)
  else if 0x800 ≤ o ∧ o % 0x100 = 4 then
    some (setBits (rd s (Page.core .SLC g + o)) 15 0 (wrap 16 (layerT s g ((o - 0x800) / 0x100))))
  else if 0x800 ≤ o ∧ o % 0x100 = 0 then
    let c := chanAt s g ((o - 0x800) / 0x100)
    let v := rd s (Page.core .SLC g + o)
    some (setBits (setBits (setBits (setBits v 24 22 (4 - c.steer.length)) 21 19 c.steer.length)
      18 16 (c.debt.foldl (fun m d => max m d.2) 0)) 6 0 (match c.rt with | some r => r.pos / max r.f 1 | none => 127))
  else none

/-! ## The SAP page (R334 to R336) -/

/-- A core's sap units. -/
def sapOf (s : State) (g : Nat) : Sap := SMap.get {} g s.sap
/-- A sap unit. -/
def unitOf (s : State) (g k : Nat) : SapUnit := SMap.get {} k (sapOf s g).units
/-- The fields of a call word (R327). -/
abbrev cwRoot (b : Nat) : Nat := bits b 43 32
/-- Participating cores. -/
abbrev cwCores (b : Nat) : Nat := bits b 50 44 + 1
/-- Do its reductions span cores? -/
abbrev cwRed (b : Nat) : Bool := bit b 30
/-- Its group. -/
abbrev cwGrp (b : Nat) : Nat := bits b 29 26
/-- The running call of a core that holds group `n`; what runs no unit holds none. -/
def groupCall (s : State) (g n : Nat) : Option SapCall := (sapOf s g).calls.find? (fun c => c.mask ≠ 0 && cwGrp c.op.b = n)
/-- Cores of the root's site with a running call of its group. -/
def groupCores (s : State) (root n : Nat) : List Nat :=
  ((List.range 64).map (· + root / 64 * 64)).filter (fun g => match groupCall s g n with | some c => cwRed c.op.b && cwRoot c.op.b = root | none => false)
/-- SAP_RED, the state of units and their registers, as the page shows them. -/
def sapView (s : State) (g o : Nat) : Option Nat :=
  let x := sapOf s g
  let st (n : Nat) : Nat := bitset 8 (fun k => decide ((unitOf s g k).state = n))
  if o = R.SAP_STATUS then some (st 3 * 2 ^ 16 + st 2 * 2 ^ 8 + st 1)
  else if o = R.SAP_RED then some (bitset 16 (fun n => !(groupCores s g n).isEmpty) * 2 ^ 16 + bitset 16 (fun n => (groupCall s g n).isSome))
  else if o = R.SAP_PORT then some x.port.length
  else
    let k := o / 0x200
    let u := unitOf s g k
    let band := fld s (Page.core .SLC g + R.CH_STATUS k) 27 26
    let f := o % 0x200
    if f = 0x100 then some (u.state * 2 ^ 28 + u.banks.length * 2 ^ 25 + min (u.sent - u.got) 4 * 2 ^ 22 + band * 2 ^ 20 + b2n (!u.banks.isEmpty) * 2 ^ 11 + u.pc)
    else if f = 0x10C then some (SMap.get 0 (fld s (Page.core .SAP g + R.SU_PROG_ADDR k) 10 0) u.store)
    else if f = 0x114 then some (setBits (rd s (Page.core .SAP g + o)) 9 0 (if band = 0 then 640 else if band = 1 then 320 else 160))
    else if 0x180 ≤ f ∧ f < 0x1C0 then some (if u.state = 1 then 0 else SMap.get 0 ((f - 0x180) / 4) u.x)
    else none

/-- The channel that FUS_SEL selects: core and channel. -/
def fusSel (s : State) : Nat × Nat := let v := rd s (Page.trunk .FUS + R.FUS_SEL); (bits v 14 3, bits v 2 0)
/-- FUS registers of the selected channel. -/
def fusView (s : State) (o : Nat) : Option Nat :=
  let c := chanAt s (fusSel s).1 (fusSel s).2
  if o = R.FUS_CH_CE then some (min c.ce 0xFFFFFFFF)
  else if o = R.FUS_CH_UE then some (min c.ue 0xFFFFFFFF)
  else if o = R.FUS_CH_LAP then some c.lap
  else if o = R.FUS_CH_SCRUB then some c.ca
  else if o = R.FUS_CH_REPAIR then some (c.rmap.length * 2 ^ 12 + c.steer.length * 2 ^ 8 + (48 - c.bad.length - c.rmap.length))
  else if o = R.FUS_CH_STEER then some ((List.range 4).foldl (fun v l => v + (c.steer.lookup l).getD 0xFF * 2 ^ (8 * l)) 0)
  else if 0x140 ≤ o ∧ o < 0x180 then some ((c.rmap.lookup ((o - 0x140) / 4)).getD 0)
  else none

/-- TTHM registers that show effective readings and counts of marks. -/
def tthmView (s : State) (site o : Nat) : Option Nat :=
  let n (b : Nat) : Nat := ((List.range 40).filter (getBit64 s (tthB site + b))).length
  if 0x110 ≤ o ∧ o < 0x120 then
    let q := (o - 0x110) / 4
    some (wrap 16 (effStack s site q) * 2 ^ 16 + wrap 16 (effLogic s site q))
  else if o = R.TTHM_STATE then
    some (n R.TTHM_GUARD_LO * 2 ^ 24 + n R.TTHM_BROKEN_LO * 2 ^ 16 + rd s (tthB site + o) % 2 ^ 16)
  else none

/-- Effective readings of every enabled site with the site, highest first met. -/
def hottest (s : State) (f : Nat → Nat → Int) : Int × Nat :=
  ((enabledSites s).flatMap (fun site => (List.range 4).map (fun q => (f site q, site)))).foldl
    (fun m x => if x.1 > m.1 then x else m) (0, 0)
/-- Life consumed by a site in 0.001 % (R633). -/
def lifeOf (x : Tth) : Nat :=
  x.counts.foldl (fun n e => n + e.2 * 100000 * (match e.1 with | 0 => 12 | 1 => 120 | 2 => 1500 | _ => 20000)) 0 / 120000000
/-- THM registers that show the module's readings and the ring counts. -/
def thmView (s : State) (o : Nat) : Option Nat :=
  let sel := rd s (Page.trunk .THM + R.THM_RING_SEL)
  let x := tthOf s (bits sel 5 0)
  if o = R.THM_HOT then some (wrap 16 (hottest s (effStack s)).1 * 2 ^ 16 + wrap 16 (hottest s (effLogic s)).1)
  else if o = R.THM_HOT_SITE then some ((hottest s (effStack s)).2 * 2 ^ 8 + (hottest s (effLogic s)).2)
  else if o = R.THM_RING_CNT then some (((x.counts.lookup (bits sel 9 8)).getD 0) % 2 ^ 32)
  else if o = R.THM_LIFE then some (min (lifeOf x) 0x1FFFF)
  else none

/-- Islands of an enabled site, and those of the module (R493). -/
def islandExists (s : State) (kind site idx : Nat) : Bool :=
  match kind with
  | 0 => siteEnabled s site && decide (idx < 64)
  | 1 => siteEnabled s site && decide (idx = 0)
  | 2 => siteEnabled s site && decide (idx < 512)
  | 3 => siteEnabled s site && decide (idx < 8)
  | 4 => decide (idx = 0)
  | _ => decide (idx < 8)
/-- The set frequency code of a core, and the code its island has reached (R497, R499). -/
def freqSet (s : State) (g : Nat) : Nat := (SMap.find g s.clk.set).getD 36
/-- The code a core's island has reached. -/
def freqCur (s : State) (g : Nat) : Nat := (SMap.find g s.clk.cur).getD 36
/-- A site's own power cap; code 0 while its telemetry is silent (R528, R529). -/
def siteCap (s : State) (site : Nat) : Nat := if s.pwr.silent.contains site then 0 else fld s (Page.tile .TPWR site + R.TPWR_FCAP) 5 0
/-- The code a core's island moves to: its setting under the licence and the caps of power, site and heat (R498). -/
def freqTarget (s : State) (g : Nat) : Nat :=
  let q := quadOf (g % 64)
  let site := g / 64
  let cap := fld s (tthB site + R.TTHM_CAP) (8 * q + 5) (8 * q)
  let flow := fld s (Page.trunk .THM + R.THM_STATUS) 21 16
  let halt := if quadHalted s site q then 0 else 48
  min (min (min (freqSet s g) (fld s (Page.trunk .CLK + R.CLK_LIMIT) 5 0)) (min (fld s (Page.trunk .PWR + R.PWR_LIMIT) 21 16) (siteCap s site)))
    (min (min cap flow) halt)
/-- Frequency in MHz of a code. -/
def mhzOf (c : Nat) : Nat := 600 + 25 * c
/-- Effective and set frequency of an island. -/
def islandMhz (s : State) (kind site idx : Nat) : Nat × Nat :=
  match kind with
  | 0 => (mhzOf (freqCur s (site * 64 + idx)), mhzOf (freqSet s (site * 64 + idx)))
  | 1 => (2000, 2000) | 2 => (800, 800) | 3 => (400, 400) | 4 => (1200, 1200) | _ => (0, 0)
/-- Is the domain of an island on? -/
def islandOn (s : State) (kind site idx : Nat) : Bool :=
  match kind with
  | 0 => domOn s site idx .core | 1 => domOn s site 0 .root | 2 => domOn s site 0 .memory | 3 => domOn s site 0 .memory
  | 4 => s.pins.pwrgd | _ => decide (fld s (Page.bgh idx + R.PG_STATE) 3 0 = stRUN)
/-- CLK registers that show the islands. -/
def clkView (s : State) (o : Nat) : Option Nat :=
  let sel := rd s (Page.trunk .CLK + R.CLK_SEL)
  let k := bits sel 18 16
  let site := if k ≥ 4 then 0 else bits sel 14 9
  let i := bits sel 8 0
  if o = R.CLK_STATUS then some (setBits (rd s (Page.trunk .CLK + o)) 15 0 (min s.lost.length 0xFFFF))
  else if o = R.CLK_ISL then
    let m := islandMhz s k site i
    let st := if !islandExists s k site i || !islandOn s k site i then 0 else if s.lost.contains (k, site, i) then 3
      else if k = 0 && freqCur s (site * 64 + i) ≠ freqTarget s (site * 64 + i) then 2 else 1
    some (if islandExists s k site i then st * 2 ^ 28 + (if st = 0 ∨ st = 3 then 0 else m.1) * 2 ^ 16 + m.2 else 0)
  else if o = R.CLK_ISL_CNT then some (min ((s.clk.losses.lookup (k, site, i)).getD 0) 0xFFFFFFFF)
  else none

/-- The sites of a carrier stage (R22). -/
def stageSites (n : Nat) : List Nat := [0, 1].flatMap (fun y => [0, 1].map (fun x => (2 * (n / 4) + y) * 8 + 2 * (n % 4) + x))
/-- PWR_SAVE_DATA: the selected word of the found record. PWR_STAGES.on: a stage runs while it feeds a root plate. -/
def pwrView (s : State) (o : Nat) : Option Nat :=
  if o = R.PWR_SAVE_DATA then
    some (match s.pwr.found with
      | none => 0
      | some i => match SMap.find i s.pwr.slots with
        | some (_, d, _) => d / 2 ^ (32 * fld s (Page.trunk .PWR + R.PWR_SAVE_SEL) 11 0) % 2 ^ 32
        | none => 0)
  else if o = R.PWR_STAGES then
    some (setBits (rd s (Page.trunk .PWR + o)) 15 0 (bitset 16 (fun n => (stageSites n).any (fun x => domOn s x 0 .root))))
  else none
/-- TPWR_FCAP: the cap that applies to the site. -/
def tpwrView (s : State) (site o : Nat) : Option Nat :=
  if o = R.TPWR_FCAP then some (min (siteCap s site) (fld s (Page.trunk .PWR + R.PWR_LIMIT) 21 16)) else none

/-- Slice bandwidth in service, in 0.1 GB/s: 9.6 or 12.8 GB/s a channel (R266, R557). -/
def bootBw (s : State) : Nat :=
  ((enabledSites s).filter (getBit64 s (Page.trunk .BOOT + R.BOOT_SERVE_LO))).foldl (fun n site =>
    (List.range 512).foldl (fun m i => m + (if fld s (Page.core .SLC (site * 64 + i / 8) + R.CH_STATUS (i % 8)) 25 25 = 1 then 128 else 96)) n) 0
/-- BOOT registers that sum up service (R557). -/
def bootView (s : State) (o : Nat) : Option Nat :=
  let b := Page.trunk .BOOT
  if o = R.BOOT_CAP then some (((List.range 64).filter (getBit64 s (b + R.BOOT_SERVE_LO))).length * 32)
  else if o = R.BOOT_BW then some (bootBw s)
  else if o = R.BOOT_SETTINGS then some (s.boot.records.length * 2 ^ 16)
  else none

/-- A 32-bit word of a blob; 0 beyond its length. -/
def Blob.word (b : Blob) (n : Nat) : Nat := if 4 * n < b.len then b.data / 2 ^ (32 * n) % 2 ^ 32 else 0
/-- LIC_ACTn: the active blob. -/
def licView (s : State) (o : Nat) : Option Nat :=
  if 0x800 ≤ o ∧ o < 0xC00 then some (match s.lic.active with | some b => b.word ((o - 0x800) / 4) | none => 0) else none

/-- PFX_GEOM.size64 follows entries. -/
def pfxView (s : State) (site o : Nat) : Option Nat :=
  if o = R.PFX_GEOM then
    let e := fld s (Page.tile .PFX site + o) 7 0
    some ((320 + 4 * e + 63) / 64 * 2 ^ 8 + e)
  else none

/-- RTR_LINK and RTR_TILE. -/
def rtrView (s : State) (site o : Nat) : Option Nat :=
  if o = R.RTR_LINK then some ((List.range 4).foldl (fun v l => v + linkSt s site l * 4 ^ l) 0 + (if xprRuns s site then 1 else 2) * 2 ^ 8)
  else if o = R.RTR_TILE then some (b2n (tileDead s site) * 2 + b2n (tileRetry s site))
  else none
/-- XPR_PEER. -/
def xprView (s : State) (site o : Nat) : Option Nat :=
  let up (p : Nat) : Bool := linkSt s site (32 + p) = 1
  if o = R.XPR_PEER_LO then some (bitset 32 up)
  else if o = R.XPR_PEER_HI then some (bitset 32 (fun p => up (p + 32)))
  else none
/-- BGH_STATUS.replay and fcred. -/
def bghView (s : State) (p o : Nat) : Option Nat :=
  if o = R.BGH_STATUS then some (setBits (rd s (Page.bgh p + o)) 15 0 (min (bghOf s p).replay.length 2047 * 2 ^ 5 + min (bghOf s p).fcred 31))
  else none

/-- Refusals of the open refusal episode. -/
def openRefusals (s : State) : Nat := if s.jnl.bp.refusing then s.jnl.bp.epCount else 0

/-- `a - b` modulo 2^32. -/
def diff32 (a b : Nat) : Nat := (a % 2 ^ 32 + 2 ^ 32 - b % 2 ^ 32) % 2 ^ 32
/-- An invariant's left side minus its right side (R651). `x` gives the terms. -/
def ldgDiff (open_ : Nat) (id k : Nat) (x : Nat → Nat) : Nat :=
  match id, k with
  | 0x00, 0 | 0x25, 0 => diff32 (x 1 + x 2) (x 0)
  | 0x00, 1 | 0x25, 1 => diff32 (x 3) (x 4 + x 5 + x 2)
  | 0x01, 0 => diff32 (x 1 + x 2 + x 3) (x 0)
  | 0x02, 0 => diff32 (x 1 + x 2) (x 0)
  | 0x02, 1 => diff32 (x 3) (x 4 + x 5)
  | 0x03, 0 => diff32 (x 0) (x 1 + x 2 + x 6)
  | 0x04, 0 => diff32 (x 0) (x 1 + x 2)
  | 0x06, 1 => diff32 (x 1) (x 4 + x 5 + x 6)
  | 0x0A, 0 => diff32 (x 0) (x 1 + x 2 + x 3 + x 4)
  | 0x21, 1 => diff32 (x 4) (x 5 + open_)
  | 0x05, 0 | 0x06, 0 | 0x07, 0 | 0x08, 0 | 0x09, 0 | 0x20, 0 | 0x21, 0 | 0x22, 0 | 0x23, 0 | 0x24, 0 => diff32 (x 0) (x 1 + x 2 + x 3)
  | _, _ => 0

/-- A site's snapshot of the selected ledger: LDG's terms and differences; LDGD adds up the sites' for a tile ledger, and shows the sums of
the last chip reset where `last` is set (R652, R654). -/
def ldgView (s : State) (n o : Nat) : Option Nat :=
  let pg := if n < 64 then Page.tile .LDG n else Page.trunk .LDGD
  let sel := rd s (pg + R.LDG_SEL)
  let id := bits sel 23 16
  let i := bits sel 9 0
  let snap (m t : Nat) : Nat := SMap.get 0 (ledKey id 0 i t) (SMap.get {} m s.ldg).snap
  let term (t : Nat) : Nat :=
    if n < 64 then snap n t
    else if bit sel 31 then ((s.ldgLast.sums.lookup id).getD []).getD t 0
    else if id < 0x20 then (List.range 64).foldl (fun k m => (k + snap m t) % 2 ^ 32) 0
    else snap 64 t
  if 0x120 ≤ o ∧ o < 0x13C then some (term ((o - 0x120) / 4))
  else if 0x140 ≤ o ∧ o < 0x148 then some (if bit sel 31 then 0 else ldgDiff (openRefusals s) id ((o - 0x140) / 4) term)
  else none

/-- The opcode of a broadcast's load in a sap port. -/
abbrev loadOp : Nat := 0x101
/-- Cores of a 64-bit mask. -/
def maskCores (m : Nat) : List Nat := (List.range 64).filter (bit m)
/-- BCST_STATE. -/
def bcstView (s : State) (site o : Nat) : Option Nat :=
  let x := SMap.get {} site s.bcst
  let waits := match s.fwu.bc with
    | some b => b.id = x.id && (maskCores b.cores).any (fun c => (SMap.get {} (site * 64 + c) s.sap).port.any (fun q => q.op = loadOp && q.own = b.id))
    | none => false
  if o = R.BCST_STATE then some (x.id * 2 ^ 16 + (if x.phase = 4 && !waits then 5 else x.phase) * 2 ^ 12 + b2n x.fenced * 2 ^ 11 + (x.n - x.parts.length))
  else none
/-- MGT_ALERT: an event queued, flow lost, tripped (R683). -/
def alertTerms (s : State) : Nat := b2n (!s.mgt.events.isEmpty) + 2 * fld s (Page.trunk .THM + R.THM_STATUS) 2 2 + 4 * fld s (Page.trunk .THM + R.THM_STATUS) 3 3
/-- Is ALERT_N driven low? (R683) -/
def alertLow (s : State) : Bool := alertTerms s &&& fld s (Page.trunk .MGT + R.MGT_ALERT_EN) 2 0 ≠ 0
/-- MGT_ALERT. -/
def mgtView (s : State) (o : Nat) : Option Nat := if o = R.MGT_ALERT then some (alertTerms s) else none

/-- A register that reports other state, as its page shows it. -/
def blockView (s : State) (r : Page.Ref) (o : Nat) : Option Nat :=
  match r.t with
  | .CORE => coreView s r.inst o
  | .MXU => mxuView s r.inst o
  | .DSP => dspView s r.inst o
  | .TFLT => tfltView s r.inst o
  | .DFLT => dfltView s o
  | .JNL => jnlView s o
  | .EVQ => evqView s o
  | .TIM => timView s o
  | .TILE => tileView s r.inst o
  | .SLC => slcView s r.inst o
  | .SAP => sapView s r.inst o
  | .FUS => fusView s o
  | .TTHM => tthmView s r.inst o
  | .THM => thmView s o
  | .CLK => clkView s o
  | .PWR => pwrView s o
  | .TPWR => tpwrView s r.inst o
  | .BOOT => bootView s o
  | .LIC => licView s o
  | .PFX => pfxView s r.inst o
  | .RTR => rtrView s r.inst o
  | .XPR => xprView s r.inst o
  | .BGH => bghView s r.inst o
  | .BCST => bcstView s r.inst o
  | .MGT => mgtView s o
  | .LDG => ldgView s r.inst o
  | .LDGD => ldgView s 64 o
  | _ => none

/-- Write-only fields read 0 (R9). -/
def woMask (d : RegDef) (v : Nat) : Nat :=
  d.flds.foldl (fun v f => if f.acc = .wo then setBits v f.hi f.lo 0 else v) v

/-- What the register at page offset `o` of page `r` reads as, R47 aside. -/
def pageRead (s : State) (r : Page.Ref) (o : Nat) : Nat :=
  if o = R.PG_STATE then setBits (rd s (Page.base r + o)) 3 0 (if clockLost s r then stFAULT else pgState s r)
  else match blockView s r o with
    | some v => v
    | none => match RegTable.find r.t o with
      | none => 0
      | some d => woMask d (rd s (Page.base r + o))

/-- What a 32-bit aligned read of BAR0 offset `off` returns, side effects aside (R11, R47, R49). -/
def readReg (s : State) (off : Nat) : Nat :=
  match Page.ofOff off with
  | none => 0
  | some r =>
    let o := off % 0x1000
    if answers s r || (r.t = .TILE && 0x100 ≤ o && o < 0x200) then pageRead s r o
    else if o = R.PG_ID || o = R.PG_VER || o = R.PG_STATE || o = R.PG_CMD_STATUS || o = R.PG_LASTCHG then pageRead s r o
    else 0

end Sys2Proof.Machine
end

