-- ==== Sys2Proof/Machine/Ea.lean ====
section
/-! DEFINITION. Sys2Proof/Machine/Ea.lean: the CORE page's fault sources and effective addresses (R94, R95, R128). -/
namespace Sys2Proof.Machine
open Sys2Proof

/-! ## Fault sources of CORE (R128) -/

abbrev cIllegal : Nat := 0
abbrev cAlign : Nat := 1
abbrev cAddr : Nat := 2
abbrev cPLoad : Nat := 3
abbrev cPUse : Nat := 4
abbrev cTokOvf : Nat := 5
abbrev cSync : Nat := 6
abbrev cTimeout : Nat := 7
abbrev cTrap : Nat := 9

/-! ## Effective addresses (R94, R95) -/

/-- The space of an EA. -/
def eaSpace (ea : Nat) : Nat := ea / 2 ^ 62 % 4
/-- The address within its space. -/
def eaAddr (ea : Nat) : Nat := ea % 2 ^ 62
/-- The fault of an access of `n` bytes aligned to `al`, if any: outside the space, then misaligned, then running past it. -/
def eaFault (s : State) (g ea n al : Nat) : Option Nat :=
  let a := eaAddr ea
  match eaSpace ea with
  | 0 => if a ≥ 2 ^ 41 then some cAddr else if a % al ≠ 0 then some cAlign else if a + n > 2 ^ 41 then some cAddr else none
  | 1 => if a ≥ scratchSize s g then some cAddr else if a % al ≠ 0 then some cAlign
         else if a + n > scratchSize s g then some cAddr else none
  | 2 => if a ≥ 2 ^ 28 ∨ n ≠ 4 then some cAddr else if a % al ≠ 0 then some cAlign else none
  | _ => some cAddr

/-- May an engine touch `n` bytes at `ea`: device memory or the core's scratch, aligned, within the space? (R144) -/
def engEaOk (s : State) (g ea n al : Nat) : Bool := decide (eaSpace ea ≤ 1) && (eaFault s g ea n al).isNone

end Sys2Proof.Machine
end

