-- ==== Sys2Proof/Machine/Wake.lean ====
section
/-! DEFINITION. Sys2Proof/Machine/Wake.lean: how a thread goes on, waits and wakes, and when an engine instruction of it is
complete (R83, R84, R86, R99). -/
namespace Sys2Proof.Machine
open Sys2Proof

/-- Change a thread. -/
def setThr (g th : Nat) (t : Thread) : Upd := act (.thread (thrKey g th) t)

/-- A thread freed: its context gone, its registers, PC and last error still to be read (R82, R125). -/
def Thread.freed (t : Thread) : Thread :=
  { regs := t.regs, poison := t.poison, pc := t.pc, finfoSrc := t.finfoSrc, finfoDetail := t.finfoDetail }

/-! ## Registers (R80, R119) -/

/-- A stage register; s0 reads 0. -/
def Thread.get (t : Thread) (r : Nat) : Nat := if r = 0 then 0 else (SMap.get 0 r t.regs).toNat
/-- Is the register poison? -/
def Thread.bad (t : Thread) (r : Nat) : Bool := r ≠ 0 && t.poison.contains r
/-- Write a stage register with its poison tag; a write to s0 is discarded. -/
def Thread.put (t : Thread) (r v : Nat) (pz : Bool) : Thread :=
  if r = 0 then t
  else { t with regs := SMap.set 0 r (BitVec.ofNat 64 v) t.regs,
                poison := (t.poison.filter (· ≠ r)) ++ (if pz then [r] else []) }

/-- Go on at the next instruction. -/
def Thread.next (t : Thread) : Thread := { t with pc := (t.pc + 8) % 2 ^ 64 }
/-- The state a thread will have once it is not stopped (R83, R84). -/
def Thread.eff (t : Thread) : Nat := if t.state = tSTOPPED then t.kept else t.state
/-- Give a thread a state, kept while it is T_STOPPED (R84). -/
def Thread.goto (t : Thread) (st : Nat) : Thread := if t.state = tSTOPPED then { t with kept := st } else { t with state := st }
/-- Ready again, its wait over. -/
def Thread.ready (t : Thread) : Thread := { t.goto tREADY with wait := .none }

/-- Is what the thread waits for, other than a token, a barrier, a layer barrier or an engine queue, there? -/
def Thread.waitMet (t : Thread) : Bool :=
  match t.wait with
  | .data rs => rs.all (fun r => !t.pend.contains r)
  | .slot => t.slots.length < 4
  | .regs => t.slots.all (fun m => m.ea / 2 ^ 62 ≠ 2)
  | .fence => t.slots.isEmpty
  | .sig _ _ _ => t.slots.isEmpty
  | .eng => t.eng = 0
  | .endw => t.slots.isEmpty && t.eng = 0
  | _ => false

/-- Wake a thread whose wait is over: FENCE and WAITENG complete, END frees the thread, the others issue again (R83, R99). -/
def Thread.wake (t : Thread) : Thread :=
  if !t.waitMet then t
  else match t.wait with
    | .fence | .eng => t.ready.next
    | .endw => if t.state = tSTOPPED then { t with kept := tFREE } else t.freed
    | _ => t.ready

/-- A thread whose operation ends in an error at PC `pc`: what it waits for with its operations is not completed by that end. -/
def Thread.erred (t : Thread) (pc : Nat) : Thread :=
  let t1 := { t with pc := pc }
  match t.wait with
  | .fence | .eng | .endw => t1.ready
  | _ => t1

/-- Change a thread and wake it if its wait is over. -/
def setWake (g th : Nat) (t : Thread) : Upd := setThr g th t.wake

/-! ## Engine instructions (R83, R86, R99) -/

/-- The launch a thread belongs to. -/
def Thread.own (t : Thread) : Nat := t.ring * 2 ^ 32 + t.seq

/-- An engine instruction of a thread has completed, for WAITENG and END (R99). -/
def engDone (g : Nat) (o : EOp) : Upd := read fun s =>
  let t := thr s g o.th
  when (t.state ≠ tFREE && t.own = o.own && decide (0 < t.eng)) (setWake g o.th { t with eng := t.eng - 1 })

/-- Each of several engine instructions has completed. -/
def engDoneAll (g : Nat) (l : List EOp) : Upd := each l (engDone g)

/-- Threads of a core that wait for room in engine queue `q` issue again when there is room (R83). -/
def wakeQueue (g q : Nat) (room : Bool) : Upd := read fun s =>
  when room (each (coreThreads s g) (fun e => when (decide (e.2.wait = .queue q)) (setThr g e.1 e.2.ready)))

/-- An engine instruction that writes rd completes. -/
def engResult (g : Nat) (o : EOp) (v : Nat) (pz : Bool) : Upd := read fun s =>
  let t := thr s g o.th
  when (t.state ≠ tFREE && t.own = o.own && decide (0 < t.eng))
    (setWake g o.th { t.put o.rd v pz with pend := t.pend.erase o.rd, eng := t.eng - 1 })

end Sys2Proof.Machine
end

