-- ==== Sys2Proof/Machine/Mxu.lean ====
section
/-! DEFINITION. Sys2Proof/Machine/Mxu.lean: what a reset, a CLEAR_FAULT and the array's and MV path's own commands do to
the MXU (R152, R168, R179 to R181, R204 to R217). -/
namespace Sys2Proof.Machine
open Sys2Proof

/-- Replace a core's array. -/
def setArr (g : Nat) (x : Arr) : Upd := act (.arr g x)
/-- Replace a core's MV path. -/
def setMv (g : Nat) (x : Mv) : Upd := act (.mv g x)
/-- Base of the MXU page. -/
abbrev mxuB (g : Nat) : Nat := Page.core .MXU g

/-- Do the MXU's queues accept instructions? (R179) -/
def mxuAccepts (s : State) (g : Nat) : Bool :=
  let st := pgState s ⟨.MXU, g⟩
  !clockLost s ⟨.MXU, g⟩ && (st = stIDLE || st = stRUN || st = stHALT || st = stFAULT)
/-- Room in an array queue (R152). -/
def arrRoom (s : State) (g u : Nat) : Bool :=
  mxuAccepts s g && decide (((arrOf s g).queue u).length < if splitOn s g then 16 else 32)
/-- Room in the MV queue (R205). -/
def mvRoom (s : State) (g : Nat) : Bool := mxuAccepts s g && decide ((mvOf s g).q.length < 16)
/-- Threads waiting for room in the array's and MV path's queues look again. -/
def wakeMxu (g : Nat) : Upd :=
  seqs [read fun s => wakeQueue g 0 (arrRoom s g 0), read fun s => wakeQueue g 1 (arrRoom s g 1),
    read fun s => wakeQueue g 2 (mvRoom s g)]

/-- The first accumulator row of a half: bank B for the south half in split mode (R165). -/
def unitBase (split : Bool) (u : Nat) : Nat := if split && u = 1 then 128 else 0
/-- The rows a PASS targets: one run of rows, or 32 runs in CELL mode (R147, R173). -/
def passRows (split cell : Bool) (u b : Nat) : List Nat :=
  let m := bits b 7 0 + 1
  let base := unitBase split u + bits b 15 8
  let l := if cell then (List.range 8).flatMap (fun i => (List.range m).map (fun k => 32 * i + k)) else (List.range m).map (· + base)
  l.filter (· < 256)
/-- The block of a number. -/
def Arr.blk (x : Arr) (n : Nat) : Option Blk := x.blks.find? (·.id = n)
/-- Is the block for CELL mode? -/
def Blk.cell (b : Blk) : Bool := bits b.op.b 4 0 = 2
/-- The rows of a pass in flight. -/
def Pass.rows (p : Pass) (x : Arr) (split : Bool) : List Nat :=
  passRows split (match x.blk p.blk with | some b => b.cell | none => false) p.unit p.op.b
/-- Clear valid marks. -/
def Arr.invalid (x : Arr) (rows : List Nat) : Arr := { x with valid := x.valid.filter (fun r => !rows.contains r) }

/-- MXU_ABORT_N or _S and the half's abort counter (R168). -/
def recordAbort (g u src tag th b : Nat) : Upd := read fun s =>
  let o := mxuB g + if u = 0 then R.MXU_ABORT_N else R.MXU_ABORT_S
  seqs [setReg o (src % 256 * 2 ^ 24 + (unitBase (splitOn s g) u + bits b 15 8) % 256 * 2 ^ 16 + bits b 7 0 * 2 ^ 8 + tag % 4 * 2 ^ 6 + th % 64),
    bump (mxuB g + if u = 0 then R.MXU_CNT_ABORT_N else R.MXU_CNT_ABORT_S) 1]

/-- A pass in flight aborts: its target rows lose their marks, it is recorded and complete (R168). -/
def abortPass (g : Nat) (p : Pass) (src : Nat) : Upd := read fun s =>
  let x := arrOf s g
  seqs [setArr g { x.invalid (p.rows x (splitOn s g)) with passes := x.passes.filter (· ≠ p) },
    recordAbort g p.unit src p.tag p.op.th p.op.b, engDone g p.op]

/-- A PASS aborts as it starts. -/
def abortStart (g u : Nat) (o : EOp) (src : Nat) : Upd := read fun s =>
  let x := arrOf s g
  seqs [setArr g (x.invalid (passRows (splitOn s g) false u o.b)),
    recordAbort g u src (if u = 0 then x.tag0 else x.tag1) o.th o.b, engDone g o]

/-- Every instruction the array holds. -/
def Arr.ops (x : Arr) : List EOp :=
  x.q0 ++ x.q1 ++ (x.staged.map (·.op)) ++ x.passes.map (·.op) ++ x.accs.map (·.2)

/-- The array's part of a reset of the MXU (R181). -/
def arrReset (g : Nat) : Upd := read fun s => seqs [engDoneAll g (arrOf s g).ops, setArr g {}, wakeMxu g]
/-- The MV path's part (R217). -/
def mvReset (g : Nat) : Upd := read fun s =>
  let m := mvOf s g
  seqs [engDoneAll g (m.q ++ (m.run.map (·.op)).toList ++ m.store.toList), setMv g {}, wakeMxu g]

/-- CLEAR_FAULT discards what is queued; the rows and banks that discarded work targets lose their marks (R181, R217). -/
def mxuDiscard (g : Nat) : Upd := read fun s =>
  let x := arrOf s g
  let m := mvOf s g
  let rows (u : Nat) : List Nat := ((x.queue u).filter (·.op = 0x31)).flatMap (fun o => passRows (splitOn s g) false u o.b)
  let banks := (m.q.filter (·.op = 0x51)).map (fun o => bits o.b 1 1)
  seqs [setArr g { x.invalid (rows 0 ++ rows 1) with q0 := [], q1 := [] },
    setMv g { m with q := [], valid := m.valid.filter (fun b => !banks.contains b) },
    engDoneAll g (x.q0 ++ x.q1 ++ m.q), wakeMxu g]

/-- One half's part of ARR_HALF_RESET: 0 north, 1 south or full (R181). -/
def halfReset (g u : Nat) : Upd := read fun s =>
  let x := arrOf s g
  let split := splitOn s g
  let keep (r : Nat) : Bool := split && (if u = 0 then decide (128 ≤ r) else decide (r < 128))
  let gone := x.queue u ++ ((x.staged.filter (·.unit = u)).map (·.op)) ++ ((x.accs.filter (·.1 = u)).map (·.2))
  seqs [each (x.passes.filter (·.unit = u)) (fun p => abortPass g p 0xFF),
    read fun t =>
      let y := arrOf t g
      let y' := { y with blks := y.blks.filter (·.unit ≠ u), accs := y.accs.filter (·.1 ≠ u), valid := y.valid.filter keep }
      setArr g (if u = 0 then { y' with q0 := [], last0 := none, tag0 := 0 } else { y' with q1 := [], last1 := none, tag1 := 0 }),
    engDoneAll g gone, wakeMxu g]

/-- The array's drain conditions (R180). -/
def arrQuiet (s : State) (g : Nat) : Bool :=
  let x := arrOf s g
  x.q0.isEmpty && x.q1.isEmpty && x.staged.isEmpty && x.passes.isEmpty && x.accs.isEmpty
/-- The MV path's drain conditions (R216). -/
def mvQuiet (s : State) (g : Nat) : Bool :=
  let m := mvOf s g
  m.q.isEmpty && m.run.isNone && m.store.isNone

end Sys2Proof.Machine
end

