-- ==== Sys2Proof/Machine/AttState.lean ====
section
/-! DEFINITION. Sys2Proof/Machine/AttState.lean: score units and KV ports: their queues, and what a reset, a fault and an abort do
to a run (R372, R377, R378). -/
namespace Sys2Proof.Machine
open Sys2Proof

/-- Replace a core's score unit and KV port. -/
def setAtt (g : Nat) (x : Att) : Upd := act (.att g x)
/-- Change them. -/
def modAtt (g : Nat) (f : Att → Att) : Upd := read fun s => setAtt g (f (attOf s g))
/-- Room in the score unit's queue (R372, R378). -/
def attRoom (s : State) (g : Nat) : Bool := mxuAccepts s g && decide ((attOf s g).q.length < 8)
/-- Threads waiting for the score unit look again. -/
def wakeAtt (g : Nat) : Upd := read fun s => wakeQueue g 3 (attRoom s g)
/-- The unit a KV-port instruction goes to: the prefix unit for 0x6A to 0x6C, else the KV manager. -/
def kvUnit (site op : Nat) : Page.Ref := if op ≥ 0x6A then ⟨.PFX, site⟩ else ⟨.KVM, site⟩
/-- Does the KV port accept an instruction (R372, R380)? -/
def kvRoom (s : State) (g op : Nat) : Bool :=
  let st := pgState s (kvUnit (g / 64) op)
  decide ((attOf s g).kv.length < 8) && (st = stRUN || st = stHALT || st = stFAULT)
/-- Threads waiting for the KV port look again. -/
def wakeKv (g : Nat) : Upd := read fun s => wakeQueue g 7 (decide ((attOf s g).kv.length < 8))

/-- The run aborts: it stays open, and is recorded (R377). -/
def runAbort (ev : EvtFn) (g src : Nat) : Upd := read fun s =>
  let x := attOf s g
  onSome x.run fun r => when (!r.aborted) (
    let entry := match x.work with | some w => (match w.todo with | some (e :: _) => e.1 | _ => 0) | none => 0
    seqs [setAtt g { x with run := some { r with aborted := true } },
      setReg (mxuB g + R.MXU_ATT_ABORT) (src % 256 * 2 ^ 24 + r.th % 64 * 2 ^ 16 + entry % 65536),
      bump (mxuB g + R.MXU_ATT_CNT_ABORT) 1,
      read fun t => ev ⟨.MXU, g⟩ 0 0x0520 0 (payload [(24, 1, src), (25, 1, r.th), (26, 2, entry), (28, 4, rd t (mxuB g + R.MXU_ATT_CNT_ABORT))])])

/-- Have the memory operations of its thread that an instruction follows completed (R372)? -/
def opReady (s : State) (g : Nat) (o : EOp) : Bool := (thr s g o.th).slots.all (fun m => !o.after.contains (m.pc, m.time))

/-- The score unit's part of a reset of the MXU (R378). -/
def attReset (g : Nat) : Upd := read fun s =>
  let x := attOf s g
  seqs [engDoneAll g x.q, modAtt g (fun y => { y with q := [], run := none, work := none, since := none }), wakeAtt g]
/-- A core reset empties the KV port. -/
def kvPortReset (g : Nat) : Upd := read fun s => when (!(attOf s g).kv.isEmpty) (modAtt g (fun y => { y with kv := [], kvSince := none }))
/-- The score unit's drain conditions (R378). -/
def attQuiet (s : State) (g : Nat) : Bool := let x := attOf s g; x.q.isEmpty && x.run.isNone

/-- A reset of a unit undoes what is in progress: it begins again. -/
def kvUndo (r : Page.Ref) : Upd := each ((List.range 64).map (· + r.inst * 64)) (fun g => read fun s =>
  let x := attOf s g
  when (x.kvSince.isSome && (match x.kv.head? with | some o => decide (kvUnit r.inst o.op = r) | none => false)) (setAtt g { x with kvSince := none }))

/-- The prefix unit is reset: with key_src = 1 a new key is drawn (R365). -/
def pfxReset (site : Nat) : Upd := read fun s =>
  when (fld s (Page.tile .PFX site + R.PFX_CTRL) 0 0 = 1) (act (.pfx site { pfxOf s site with draws := (pfxOf s site).draws + 1 }))

end Sys2Proof.Machine
end

