-- ==== Sys2Proof/Machine/DspState.lean ====
section
/-! DEFINITION. Sys2Proof/Machine/DspState.lean: what a reset does to a dispatch unit and to a core's dispatch port (R250,
R256, R263). -/
namespace Sys2Proof.Machine
open Sys2Proof

/-- Replace a dispatch unit. -/
def setDsp (site : Nat) (x : Dsp) : Upd := act (.dsp site x)
/-- Replace a core's port. -/
def setPort (g : Nat) (x : Port) : Upd := act (.port g x)
/-- Base of the DSP page. -/
abbrev dspB (site : Nat) : Nat := Page.tile .DSP site
/-- Count a dispatch choice or pin in the tile ledger (R251, R651). -/
def dspLed (site id t n : Nat) : Upd := ledAdd id site 0 t n

/-- PINNED lines of a range of lines become PLAIN (R256). -/
def unpinLines (g line n : Nat) : Upd := read fun s =>
  let l := leafOf s g
  act (.leaf g { l with lines := l.lines.map (fun x => if line ≤ x.addr && x.addr < line + n && x.st = .pinned then { x with st := .plain } else x) })

/-- One prefetch request's pins are released. -/
def releasePin (site : Nat) (p : DPin) : Upd := read fun s =>
  let x := dspOf s site
  seqs [setDsp site { x with pins := x.pins.filter (· ≠ p) },
    onSome p.pinned (fun n => seqs [unpinLines p.core p.line p.n, dspLed site 0x04 1 n])]

/-- Choices of a round that its experts' signals have sent out and that no token's row has combined (R251). -/
def Round.inFlight (r : Round) : Nat := (r.choices.filter (fun c => r.sent.contains c.exp && !r.written.contains c.tok)).length

/-- Show a handle's last round in its registers. -/
def roundRegs (site : Nat) (r : Round) : Upd :=
  seqs [setReg (dspB site + R.DSP_RND_A r.handle) (r.layer * 2 ^ 16 + r.tokens), setReg (dspB site + R.DSP_RND_B r.handle) (r.seq % 2 ^ 16)]

/-- RESET (R250, R256, R263): the rounds end with no rows written, their choices in flight are lost, and every pin is
released; `lose` moves an amount to loss. -/
def dspReset (lose : Nat → Upd) (site : Nat) : Upd := read fun s =>
  let x := dspOf s site
  seqs [lose (x.rounds.foldl (fun n r => n + r.inFlight) 0), each x.rounds (roundRegs site), each x.pins (releasePin site),
    setDsp site { seq := x.seq }]

/-- A core's dispatch port is emptied. -/
def portReset (g : Nat) : Upd := setPort g {}

end Sys2Proof.Machine
end

