-- ==== Sys2Proof/Machine/FabState.lean ====
section
/-! DEFINITION. Sys2Proof/Machine/FabState.lean: what a reset of a router, an express port, a bough port, a core or a tile does to
the fabric, and what a link loses (R424, R429 to R433, R443, R456). -/
namespace Sys2Proof.Machine
open Sys2Proof

abbrev rtrR (n : Nat) : Page.Ref := ⟨.RTR, n⟩
abbrev xprR (n : Nat) : Page.Ref := ⟨.XPR, n⟩
abbrev bghR (p : Nat) : Page.Ref := ⟨.BGH, p⟩
abbrev rtrB (n : Nat) : Nat := Page.tile .RTR n
abbrev xprB (n : Nat) : Nat := Page.tile .XPR n
abbrev bghB (p : Nat) : Nat := Page.bgh p

/-! ## Ledger terms of links (R424, R651) -/

/-- A link's ledger: id, site, index. -/
def credLed (n idx : Nat) : Nat × Nat × Nat := if n < 64 then (0x00, n, idx) else (0x25, 64, 8 * (n - 64) + idx)
/-- Add to a term of a link's ledger: 3 sent, 4 returned, 5 lost, 6 reconciled. -/
def fabLed (n idx t k : Nat) : Upd := let l := credLed n idx; ledAdd l.1 l.2.1 l.2.2 t k
/-- The (VC, class) pairs of a link's credits. -/
def linkCreds (l : Nat) : List (Nat × Nat) := (List.range 4).flatMap (fun v => (linkClasses l).map (fun c => (v, c)))

/-- Four counts of 4 B each at byte 28. -/
def perVc (f : Nat → Nat) : List (Nat × Nat × Nat) := (List.range 4).map (fun v => (28 + 4 * v, 4, f v))

/-! ## A link leaves UP (R431, R433) -/

/-- A link that is UP is marked DOWN: the packets whose credits have not returned are lost, counted and reported; `cause` as in
LINK_DOWN. -/
def linkLoss (ev : EvtFn) (n l cause : Nat) : Upd := read fun s => when (linkSt s n l = 1) (
  let total := (List.range 4).foldl (fun k v => k + unreturnedVc s n l v) 0
  seqs [modRtr n (fun x => { x with links := SMap.put l 2 x.links }),
    each (linkCreds l) (fun vc => let i := credLed n (credIdx l vc.1 vc.2); ledLose ev i.2.1 i.1 i.2.2 5 (unreturned s n l vc.1 vc.2) 3),
    when (n < 64) (if l < 4 then bump (rtrB n + R.RTR_LOST l) total else bump (xprB n + R.XPR_CNT_LOST) total),
    when (n < 64) (ev (if l < 4 then rtrR n else xprR n) 0 0x0600 0 (payload ([(24, 1, if l < 4 then l else l - 32), (25, 1, cause)] ++ perVc (unreturnedVc s n l))))])

/-- Drop packets. -/
def dropPkts (p : Pkt → Bool) : Upd := read fun s => act (.fab { s.fab with pkts := s.fab.pkts.filter (fun x => !p x) })

/-- A router is reset: its buffers empty, its links DOWN (R433, R434, R512). -/
def rtrReset (ev : EvtFn) (n : Nat) : Upd := seqs [
  each (List.range 4) (fun l => linkLoss ev n l 3),
  dropPkts (fun p => p.node = n && !p.ejected && (decide (p.via < 4) || p.via = 255)),
  modRtr n (fun x => { x with resets := (x.resets + 1) % 2 ^ 32, used := SMap.dropIf (fun i => decide (i < 32)) x.used, owed := SMap.dropIf (fun i => decide (i < 32)) x.owed })]
/-- An express port is reset. -/
def xprReset (ev : EvtFn) (n : Nat) : Upd := seqs [
  each (List.range 64) (fun p => linkLoss ev n (32 + p) 3),
  dropPkts (fun p => p.node = n && !p.ejected && decide (32 ≤ p.via ∧ p.via < 96)),
  modRtr n (fun x => { x with probe := [], used := SMap.dropIf (fun i => decide (32 ≤ i)) x.used, owed := SMap.dropIf (fun i => decide (32 ≤ i)) x.owed })]

/-! ## Cores and tiles -/

/-- A tile that is reset drops what has been ejected into it. -/
def fabTileReset (site : Nat) : Upd := dropPkts (fun p => p.ejected && p.node = site)
/-- A core that is reset empties its send port. -/
def sndReset (g : Nat) : Upd := read fun s => when (decide (sndOf s g ≠ {})) (act (.snd g {}))

/-! ## Bough ports (R443, R448, R456) -/

/-- Count a port's flits of a VC: 0 sent, 1 acknowledged, 2 lost (R651). -/
def flitLed (p v t k : Nat) : Upd := ledAdd 0x23 64 (4 * p + v) t k
/-- Count a port's frames: 0 started, 1 sent, 2 aborted. -/
def frameLed (p t k : Nat) : Upd := ledAdd 0x24 64 p t k
/-- Flits of VC `v` in a replay buffer; CTRL flits count with VC 0. -/
def inReplay (l : List Flit) (v : Nat) : Nat := (l.filter (fun f => f.vcb % 4 = v)).length

/-- The BSEND of the frame in transmission ends with a status; the core's send port goes on. -/
def frameEnds (p st : Nat) : Upd := read fun s => onSome (bghOf s p).frame fun f => seqs [
  modBgh p (fun x => { x with frame := none }), frameLed p (if st = 1 then 2 else 1) 1,
  modSnd f.core (fun x => { x with q := x.q.filter (· ≠ f.op) }), engResult f.core f.op st false]

/-- A sender loses its sequence state: every flit in the replay buffer is lost and counted, and the frame in progress aborts
(R443). -/
def replayLost (ev : EvtFn) (p cause : Nat) : Upd := read fun s =>
  let l := (bghOf s p).replay
  seqs [each (List.range 4) (fun v => ledLose ev 64 0x23 (4 * p + v) 2 (inReplay l v) cause), bump (bghB p + R.BGH_LOST) l.length,
    when (bghOf s p).frame.isSome (seqs [frameEnds p 1, reconciled ev 64 0x24 cause p 1 0]),
    modBgh p (fun x => { x with replay := [], cur := 0, tries := 0 })]

/-- A port is reset: its link drops as a peer reset would, and its sequences, its credits and BGH_FSEQ start afresh; a port whose
engine is shut down stays dark. -/
def bghReset (ev : EvtFn) (p : Nat) : Upd := seqs [
  replayLost ev p 0, read fun s => act (.bgh p { dark := (bghOf s p).dark }),
  resetRegs [bghB p + R.BGH_STATUS, bghB p + R.BGH_FSEQ, bghB p + R.BGH_PEER_LAYER],
  resetRegs ((List.range 4).map (fun i => bghB p + R.BGH_PEER_SN i))]

end Sys2Proof.Machine
end

