-- ==== Sys2Proof/Machine/HifState.lean ====
section
/-! DEFINITION. Sys2Proof/Machine/HifState.lean: the copy queues of the host interface, how a copy ends, and what a reset of HIF does to
them (R472 to R475, R489). -/
namespace Sys2Proof.Machine
open Sys2Proof

abbrev hifR : Page.Ref := ⟨.HIF, 0⟩
abbrev hifB : Nat := Page.trunk .HIF

/-- Change the host interface. -/
def modHif (f : Hif → Hif) : Upd := fun s => [.hif (f s.hif)]
/-- The copy in progress on a queue. -/
def copyOf (s : State) (q : Nat) : Option Copy := s.hif.copies.find? (·.q = q)
/-- Replace a queue's copy. -/
def setCopy (q : Nat) (c : Option Copy) : Upd :=
  modHif (fun h => { h with copies := h.copies.filter (·.q ≠ q) ++ c.toList })
/-- May the LQ1 issue requests to the host? (R462) -/
def hostOpen (s : State) : Bool := busMaster s && linkUp s
/-- Where descriptor `n` of a copy queue lies (R472). -/
def cqAddr (s : State) (q n : Nat) : Nat := rd64 s (hifB + R.CQ_BASE_LO q) + n % 2 ^ fld s (hifB + R.CQ_SIZE q) 4 0 * 32
/-- A posted write of the engine; none is issued while the link is down or Bus Master Enable is 0 (R462). -/
def copyWrite (a : Nat) (bs : List Byte) : Upd := read fun s => when (hostOpen s) (hostWrite a bs)

/-- A copy's status byte is written, CQ_CONS moves and goes to the shadow address (R475). -/
def copyReport (c : Copy) (status cons : Nat) : Upd := read fun s =>
  seqs [copyWrite (cqAddr s c.q c.n + 28) (toBytes 1 status), setReg (hifB + R.CQ_CONS c.q) cons,
    copyWrite (rd64 s (hifB + R.CQ_SHADOW_LO c.q)) (toBytes 4 cons), setCopy c.q none,
    when c.since.isSome (modHif (fun h => { h with stale := h.stale ++ [(c.q, c.since.getD 0)] }))]

/-- A copy is given up with status 3 by a reset (`cause` 0) or a link loss (3); its read, if any, is still to return (R475, R489, R653). -/
def copyAbandon (ev : EvtFn) (cause : Nat) (c : Copy) (cons : Nat) : Upd :=
  seqs [copyReport c 3 cons, when c.desc.isSome (ledLose ev 64 0x22 c.q 2 1 cause)]

/-- One queue is emptied: its copy ends with status 3, and CQ_CONS takes CQ_PROD (R489). -/
def cqEmpty (ev : EvtFn) (q : Nat) : Upd := read fun s =>
  let p := rd s (hifB + R.CQ_PROD q)
  match copyOf s q with
  | some c => copyAbandon ev 0 c p
  | none => setReg (hifB + R.CQ_CONS q) p

/-- RESET of HIF (R489). -/
def hifReset (ev : EvtFn) : Upd := each (List.range 4) (cqEmpty ev)

end Sys2Proof.Machine
end

