-- ==== Sys2Proof/Machine/SapState.lean ====
section
/-! DEFINITION. Sys2Proof/Machine/SapState.lean: replacing sap units and calls, ending calls early, and what a reset of the SAP
page does (R324, R325, R331, R333, R335). -/
namespace Sys2Proof.Machine
open Sys2Proof

abbrev sapB (g : Nat) : Nat := Page.core .SAP g
/-- A core's SAP page as a place. -/
abbrev sapR (g : Nat) : Page.Ref := ⟨.SAP, g⟩
/-- Replace a core's sap state. -/
def setSap (g : Nat) (x : Sap) : Upd := act (.sap g x)
/-- Change a core's sap state. -/
def modSap (g : Nat) (f : Sap → Sap) : Upd := read fun s => setSap g (f (sapOf s g))
/-- Replace a unit. -/
def setUnit (g k : Nat) (u : SapUnit) : Upd := modSap g (fun x => { x with units := SMap.set {} k u x.units })
/-- Change a unit. -/
def modUnit (g k : Nat) (f : SapUnit → SapUnit) : Upd := read fun s => setUnit g k (f (unitOf s g k))
/-- Change a call. -/
def modCall (g id : Nat) (f : SapCall → SapCall) : Upd := modSap g (fun x => { x with calls := x.calls.map (fun c => if c.id = id then f c else c) })
/-- A call of a core by its number. -/
def callOf (s : State) (g id : Nat) : Option SapCall := (sapOf s g).calls.find? (·.id = id)
/-- Units of a call that have neither ended nor aborted. -/
def SapCall.live (c : SapCall) : List Nat := (List.range 8).filter (fun k => bit c.mask k && !bit c.ended k && !bit c.aborted k)
/-- Ledgers of partials (0x08) and calls (0x09): `t` is the term (R325, R651). -/
def sapLed (g id t n : Nat) : Upd := ledAdd id (g / 64) (g % 64) t n
/-- Take from the last, present term of a sap ledger. -/
def sapLess (g id n : Nat) : Upd := ledAdd id (g / 64) (g % 64) 3 (2 ^ 32 - n)

/-- A unit is idle, its registers kept. -/
def SapUnit.idle (u : SapUnit) : SapUnit := { u with state := 0, banks := [], back := [], got := u.sent, susp := false, past := false }

/-- The core that roots a call's reductions: itself, unless they span cores. -/
def redRoot (g : Nat) (c : SapCall) : Nat := if cwRed c.op.b then cwRoot c.op.b else g
/-- The cores and calls that take part in a call's reductions (R323). -/
def partners (s : State) (g : Nat) (c : SapCall) : List (Nat × SapCall) :=
  if cwRed c.op.b then (groupCores s (cwRoot c.op.b) (cwGrp c.op.b)).filterMap (fun h => (groupCall s h (cwGrp c.op.b)).map (fun d => (h, d)))
  else [(g, c)]
/-- The partials of a call from step `n` on in its core's path. -/
def ownParts (s : State) (g : Nat) (c : SapCall) (n : Nat) : List SapPart := (sapOf s g).parts.filter (fun p => !p.core && p.key = c.id && decide (n ≤ p.step))
/-- Cores' partials of a group from step `n` on in its root's path. -/
def corePart (grp n : Nat) (p : SapPart) : Bool := p.core && p.key = grp && decide (n ≤ p.step)
/-- Steps from `n` on of which some path holds a partial. -/
def stepsHeld (s : State) (g : Nat) (c : SapCall) (n : Nat) : List Nat :=
  ((((partners s g c).flatMap (fun e => ownParts s e.1 e.2 n)) ++
    (if cwRed c.op.b then (sapOf s (redRoot g c)).parts.filter (corePart (cwGrp c.op.b) n) else [])).map (·.step)).eraseDups
/-- Units, or cores, whose partial of a step has not come (R337). -/
def partsMissing (s : State) (g : Nat) (c : SapCall) (m : Nat) : Nat :=
  if cwRed c.op.b then cwCores c.op.b - ((sapOf s (redRoot g c)).parts.filter (fun p => corePart (cwGrp c.op.b) m p && p.step = m)).length
  else ((List.range 8).filter (fun k => bit c.op.b k && decide ((unitOf s g k).sent ≤ m))).length

/-- A call's steps from `n` on are abandoned on its core: its partials are discarded, and every unit that sent one gets a
poisoned result (R324). -/
def dropSteps (g : Nat) (c : SapCall) (n : Nat) : Upd := read fun s =>
  let own := ownParts s g c n
  let x := sapOf s g
  let owed := c.live.flatMap (fun k =>
    let u := unitOf s g k
    ((List.range u.sent).filter (fun m => decide (max n u.got ≤ m) && !u.back.any (·.1 = m) && !x.back.any (fun r => r.1 = k && r.2.1 = m))).map
      (fun m => (k, m, 0, true)))
  seqs [setSap g { x with
      parts := x.parts.filter (fun p => !(!p.core && p.key = c.id && decide (n ≤ p.step))), back := x.back ++ owed,
      calls := x.calls.map (fun d => if d.id = c.id then { d with dead := some (min n (d.dead.getD n)) } else d) },
    when (!own.isEmpty) (seqs [sapLed g 0x08 2 own.length, sapLess g 0x08 own.length])]

/-- Steps `n` and later of a call and its partners are abandoned; `cause`: 0 abort, 1 timeout, 2 page state (R324, R337). -/
def abandonFrom (ev : EvtFn) (g : Nat) (c : SapCall) (n cause : Nat) : Upd := read fun s =>
  let ps := partners s g c
  let steps := stepsHeld s g c n
  let root := redRoot g c
  seqs [each ps (fun e => seqs [read fun t => onSome (callOf t e.1 e.2.id) (fun d => dropSteps e.1 d n),
      each steps (fun m => seqs [bump (sapB e.1 + R.SAP_CNT_ABANDONED) 1,
        ev (sapR e.1) 2 0x0442 0 (payload [(24, 1, cwGrp c.op.b), (25, 1, m), (26, 2, root), (28, 1, partsMissing s g c m), (29, 1, cause)])])]),
    when (cwRed c.op.b) (modSap root (fun x => { x with parts := x.parts.filter (fun p => !corePart (cwGrp c.op.b) n p) }))]

/-- The live units of a call stop: SU_FINFO takes `src` and their PC (R333, R336). -/
def unitsAbort (g : Nat) (c : SapCall) (src : Nat) : Upd :=
  each c.live (fun k => read fun s => seqs [
    setReg (sapB g + R.SU_FINFO k) (src * 2 ^ 24 + (unitOf s g k).pc),
    modCall g c.id (fun x => { x with aborted := x.aborted + 2 ^ k, poisoned := x.poisoned + (if (unitOf s g k).met then 2 ^ k else 0) }),
    setUnit g k (unitOf s g k).idle])

/-- The core that issued a call (R337); 0xFFF for UNIT_CALL. -/
def issuer (g : Nat) (c : SapCall) : Nat := if c.op.op = 0x100 then 0xFFF else g

/-- A call aborts: its units stop, SAP_CALL_ABORTED, and the steps it has not sent are abandoned (R324, R333, R337). -/
def abortCall (ev : EvtFn) (g id src cause : Nat) : Upd := read fun s => onSome (callOf s g id) fun c =>
  let live := c.live
  let n := live.foldl (fun n k => min n (unitOf s g k).sent) (2 ^ 32)
  when (!live.isEmpty) (seqs [unitsAbort g c src,
    ev (sapR g) 0 0x0440 0 (payload [(24, 1, live.foldl (fun m k => m + 2 ^ k) 0), (25, 1, src), (26, 2, (unitOf s g (live.headD 0)).pc),
      (28, 2, bits c.op.b 18 8), (30, 2, issuer g c)]),
    abandonFrom ev g c n cause])
/-- Every call of a core aborts: SABORT-like source 0xFE, by the page's state (R333, R334). -/
def abortAll (ev : EvtFn) (g : Nat) : Upd := read fun s => each (sapOf s g).calls (fun c => abortCall ev g c.id 0xFE 2)

/-- Suspended units run again, unless HALT or a forced refresh still holds them (R316, R333). -/
def sapWake (g : Nat) : Upd := read fun s => when (pgState s (sapR g) ≠ stHALT && !thermHalted s g) (each (List.range 8) (fun k => read fun t =>
  let u := unitOf t g k
  when (u.state = 2 && !u.susp) (setUnit g k { u with state := 1 })))

/-- The port's queued instructions count as complete: they join the calls that have ended (R335); a broadcast's load is discarded (R674). -/
def portVoid (g : Nat) : Upd := read fun s => modSap g (fun y =>
  let q := y.port.filter (·.op < 0x100)
  let void := (List.range q.length).zip q
  { y with port := [], next := y.next + q.length,
           calls := y.calls ++ void.map (fun e => { id := y.next + e.1, op := e.2, time := s.now, mask := 0, orphan := true, tallied := true }) })

/-- RESET: calls abort and queued instructions count as complete, both reported as calls that have ended; registers and
reduction state are cleared; the store and SU_ARG stay (R335). `lose` moves what is in flight to a ledger's loss term (R653). -/
def sapReset (ev : EvtFn) (lose : Nat → Nat → Upd) (g : Nat) : Upd := seqs [abortAll ev g, read fun s =>
  let x := sapOf s g
  let held := (x.parts.filter (fun p => !p.core)).length
  let gone (c : SapCall) : Bool := !c.tallied && decide (0 < c.aborted)
  let running := (x.calls.filter gone).length
  seqs [when (held > 0) (seqs [lose 0x08 held, sapLess g 0x08 held]),
    when (running > 0) (seqs [lose 0x09 running, sapLess g 0x09 running]),
    modSap g (fun y =>
      let units := (y.units.map (fun e => (e.1, ({ store := e.2.store, pc := e.2.pc, bad := e.2.bad } : SapUnit)))).filter (fun e => e.2 ≠ {})
      { y with parts := [], back := [], calls := y.calls.map (fun c => if gone c then { c with tallied := true } else c), units := units }),
    portVoid g]]

/-- The launch that marks a port entry whose core has been reset. -/
abbrev sapLost : Nat := 2 ^ 64
/-- A core reset: what the core's own threads started or queued loses its signals (R331). -/
def sapOrphan (g : Nat) : Upd := read fun s => when ((sapOf s g).calls.any (·.op.op ≠ 0x100) || (sapOf s g).port.any (·.op < 0x100)) (modSap g (fun x =>
  let port := x.port.map (fun o => if 0x100 ≤ o.op then o else { o with own := sapLost })
  { x with port := port, calls := x.calls.map (fun c => if c.op.op = 0x100 then c else { c with orphan := true }) }))

end Sys2Proof.Machine
end

