-- ==== Sys2Proof/Machine/LdgState.lean ====
section
/-! DEFINITION. Sys2Proof/Machine/LdgState.lean: the terms and invariants of the ledgers, their snapshots, and what a chip reset sums up
(R650 to R654). -/
namespace Sys2Proof.Machine
open Sys2Proof

/-- The ledger checks of a site, or of the module. -/
def ldgOf (s : State) (n : Nat) : Ldg := SMap.get {} n s.ldg
/-- The ledgers that an LDG page keeps, or LDGD (R651). -/
def ldgIds (n : Nat) : List Nat := if n < 64 then List.range 11 else [0x20, 0x21, 0x22, 0x23, 0x24, 0x25]
/-- Instances of a ledger (R651). -/
def ldgCount (id : Nat) : Nat :=
  match id with
  | 0x00 => 288 | 0x01 | 0x02 | 0x03 | 0x04 | 0x21 => 1 | 0x22 => 4 | 0x23 => 32 | 0x24 => 8
  | _ => 64

/-- Slots of a core that hold an operation whose response will be discarded, and token signals still in flight. -/
def slotCounts (s : State) (g : Nat) : Nat × Nat :=
  (coreThreads s g).foldl (fun n e =>
    (n.1 + e.2.slots.length, n.2 + (e.2.slots.filter (fun m => m.kind = .sig && !m.delivered)).foldl (fun k m => k + m.val) 0)) (0, 0)

/-- Token signals in flight that a core has issued. -/
def sigsInFlight (s : State) (g : Nat) : Nat :=
  (slotCounts s g).2 + (streamOf s g).sigs.foldl (fun k y => k + y.n) 0 + (match (sndOf s g).run with | some r => b2n r.sig.isSome | none => 0)
/-- Link, VC and class of a credit ledger's index (R651). -/
def credOf (i : Nat) : Nat × Nat × Nat := if i < 32 then (i / 8, i % 8 / 2, i % 2) else (32 + (i - 32) / 4, (i - 32) % 4, 0)
/-- The node and link of a credit ledger. -/
def credNode (n id i : Nat) : Nat × Nat × Nat × Nat :=
  if id = 0x25 then (64 + i / 8, 0, i % 8 / 2, i % 2) else let c := credOf i; (n, c.1, c.2.1, c.2.2)

/-- A level term, from the state of its unit; a flow term, from its count (R651). `n` is the site, or 64. -/
def ledTerm (s : State) (n id i t : Nat) : Nat :=
  let g := n * 64 + i
  let c := credNode n id i
  let tile (p : PType) (o : Nat) : Nat := rd s (Page.tile p n + o)
  match id, t with
  | 0x00, 0 | 0x25, 0 => offered s c.1 c.2.1 c.2.2.1 c.2.2.2
  | 0x00, 1 | 0x25, 1 => credHeld s c.1 c.2.1 c.2.2.1 c.2.2.2
  | 0x00, 2 | 0x25, 2 => unreturned s c.1 c.2.1 c.2.2.1 c.2.2.2
  | 0x01, 0 => tile .KVM R.KVM_TOTAL | 0x01, 1 => tile .KVM R.KVM_FREE | 0x01, 2 => tile .KVM R.KVM_REFD | 0x01, 3 => tile .KVM R.KVM_TENT
  | 0x02, 0 => fld s (Page.tile .PFX n + R.PFX_NODES) 23 0 | 0x02, 1 => tile .PFX R.PFX_FREE | 0x02, 2 => tile .PFX R.PFX_LIVE
  | 0x02, 5 => (led s 2 n 0 3 + 2 ^ 32 - led s 2 n 0 4) % 2 ^ 32
  | 0x03, 2 => (dspOf s n).rounds.foldl (fun k r => k + r.inFlight) 0
  | 0x04, 2 => (dspOf s n).pins.foldl (fun k p => k + p.pinned.getD 0) 0
  | 0x05, 3 => ((streamOf s g).running.filter (·.kind = 2)).length
  | 0x06, 3 => (streamOf s g).buf.length | 0x06, 6 => (streamOf s g).running.length
  | 0x07, 3 => sigsInFlight s g
  | 0x0A, 4 => (slotCounts s g).1
  | 0x20, 2 => (s.evq.hold.filter (·.1 = i)).length
  | 0x21, 2 => s.jnl.fill
  | 0x22, 3 => (s.hif.copies.filter (fun x => decide (x.q = i) && x.desc.isSome)).length
  | 0x23, 3 => inReplay (bghOf s (i / 4)).replay (i % 4)
  | 0x24, 3 => b2n (bghOf s i).frame.isSome
  | _, _ => led s id n i t
/-- A snapshot of the ledgers of `n` whose ids meet `p`; the others keep their terms (R650, R652). -/
def takeSnap (s : State) (n : Nat) (p : Nat → Bool) : List (Nat × Nat) :=
  ((ldgIds n).filter p).foldl (fun m id =>
    (List.range (ldgCount id)).foldl (fun m i => (List.range 7).foldl (fun m t => SMap.set 0 (ledKey id 0 i t) (ledTerm s n id i t) m) m) m)
    (ldgOf s n).snap
/-- A term of the last snapshot. -/
def snapTerm (x : Ldg) (id i t : Nat) : Nat := SMap.get 0 (ledKey id 0 i t) x.snap

/-- Does the page keep its site's ledgers (its block runs)? -/
def ldgRuns (s : State) (n : Nat) : Bool :=
  let st := pgState s (if n < 64 then ⟨.LDG, n⟩ else ⟨.LDGD, 0⟩)
  st = stRUN || st = stFAULT
/-- The ledgers checked: a retired site's are closed but for its router's and express port's (R653). -/
def ldgOpen (s : State) (n id : Nat) : Bool := decide (64 ≤ n) || id = 0 || !(phys s n = 3 || retiring s n)

/-! ## A chip reset (R654) -/

/-- The loss term of a ledger, and the in-flight term that moves to it (R653); 7 for none. -/
def lossTerm (id : Nat) : Nat := match id with | 0x00 | 0x06 | 0x25 => 5 | 0x03 => 6 | 0x07 | 0x08 | 0x09 | 0x22 | 0x23 | 0x24 => 2 | 0x0A | 0x20 => 3 | _ => 7
/-- Its in-flight term. -/
def flightTerm (id : Nat) : Nat := match id with | 0x00 | 0x03 | 0x20 | 0x25 => 2 | 0x06 => 6 | 0x07 | 0x08 | 0x09 | 0x22 | 0x23 | 0x24 => 3 | 0x0A => 4 | _ => 7
/-- Enabled sites whose bark domain has lost its power: their ledgers are void. -/
def voidSites (s : State) : List Nat := (enabledSites s).filter (fun x => !domOn s x 0 .root)
/-- Sites that deliver nothing at a chip reset: those whose router is lost (R503). -/
def staleSites (s : State) : List Nat := (List.range 64).filter (fun x => ldgRuns s x && fenced s x)
/-- Term `t` of ledger `id` of `n`, summed over its instances; of a stale site, from its last snapshot. -/
def termSum (s : State) (n id t : Nat) : Nat :=
  let f (i : Nat) : Nat := if staleSites s |>.contains n then snapTerm (ldgOf s n) id i t else ledTerm s n id i t
  (List.range (ldgCount id)).foldl (fun k i => (k + f i) % 2 ^ 32) 0
/-- The pages that keep a ledger id, and are summed. -/
def sumSites (s : State) (id : Nat) : List Nat := if 0x20 ≤ id then [64] else (List.range 64).filter (ldgRuns s)
/-- Every id of R651. -/
def allIds : List Nat := ldgIds 0 ++ ldgIds 64
/-- The sums of a ledger id. -/
def idSums (s : State) (id : Nat) : List Nat :=
  (List.range 7).map (fun t => (sumSites s id).foldl (fun k n => (k + termSum s n id t) % 2 ^ 32) 0)
/-- The summary of a ledger id (R654, R658). -/
def idSummary (s : State) (id : Nat) (l : List Nat) : List Nat :=
  [b2n (!(staleSites s).isEmpty) + 2 * b2n (!(voidSites s).isEmpty), if id < 0x20 then (sumSites s id).length else 0, l.getD 0 0,
    l.getD (flightTerm id) 0, l.getD (lossTerm id) 0,
    (sumSites s id).foldl (fun k n => k + ((ldgOf s n).mism.lookup id).getD 0) 0]
/-- The final snapshots, before anything is reset. -/
def ldgFinal : Upd := read fun s =>
  let sums := allIds.map (fun id => (id, idSums s id))
  seqs [act (.ldgLast { sums := sums, todo := sums.map (fun e => (e.1, idSummary s e.1 e.2)) }),
    setReg (Page.trunk .LDGD + R.LDG_STALE) (min (voidSites s).length 255 * 2 ^ 8 + min (staleSites s).length 255)]
/-- After the reset: the ledgers have their initial terms; the journal's entries are still in store (R77, R654). -/
def ldgInitial : Upd := read fun s => seqs [
  each s.ldg (fun e => act (.ldg e.1 {})), each s.led (fun e => act (.led e.1 0)),
  ledSet 0x21 64 0 0 s.jnl.fill, ledSet 0x21 64 0 4 (openRefusals s)]

end Sys2Proof.Machine
end

