-- ==== Sys2Proof/Machine/FwuState.lean ====
section
/-! DEFINITION. Sys2Proof/Machine/FwuState.lean: broadcast receivers, the loads of a sap broadcast, how a broadcast ends, the tile part,
and what a reset of FWU or BCST does (R667 to R676). -/
namespace Sys2Proof.Machine
open Sys2Proof

abbrev fwuB : Nat := Page.trunk .FWU
abbrev fwuR : Page.Ref := ⟨.FWU, 0⟩
abbrev bcstB (site : Nat) : Nat := Page.tile .BCST site
abbrev bcstR (site : Nat) : Page.Ref := ⟨.BCST, site⟩

/-- A site's receiver. -/
def rcvOf (s : State) (site : Nat) : Rcv := SMap.get {} site s.bcst
/-- Change it. -/
def modRcv (site : Nat) (f : Rcv → Rcv) : Upd := read fun s => act (.bcst site (f (rcvOf s site)))
/-- Change the sap broadcast in progress. -/
def modBc (f : Bcast → Bcast) : Upd := read fun s => onSome s.fwu.bc (fun b => act (.fwu { s.fwu with bc := some (f b) }))
/-- The phase of FWU_BC_STATE. -/
def bcShow (phase : Nat) : Upd := setFld (fwuB + R.FWU_BC_STATE) 15 12 phase

/-- Loads of a broadcast that wait in sap ports (R674). -/
def loadsWaiting (s : State) (b : Bcast) : Nat :=
  (b.targets.flatMap (fun x => (maskCores b.cores).map (fun c => x * 64 + c))).foldl (fun n g =>
    n + ((SMap.get {} g s.sap).port.filter (fun o => o.op = loadOp && o.own = b.id)).length) 0
/-- Target sites that are not retired (R676). -/
def bcTargets (s : State) (b : Bcast) : List Nat := b.targets.filter (fun x => !(phys s x = 3 || retiring s x))

/-- BCAST_DONE (R686): kind, outcome, id, repair rounds, sites fenced, chunks repaired. -/
def bcastDone (ev : EvtFn) (kind outcome id rounds fenced repaired : Nat) : Upd :=
  ev fwuR 2 0x0902 0 (payload [(24, 1, kind), (25, 1, outcome), (26, 2, id), (28, 1, rounds), (29, 1, fenced), (32, 4, repaired)])
/-- A sap broadcast ends: 0 done, 1 failed, 2 aborted. -/
def bcEnds (ev : EvtFn) (outcome : Nat) : Upd := read fun s => onSome s.fwu.bc fun b => seqs [
  act (.fwu { s.fwu with bc := none }), bcShow (if outcome = 0 then 5 else 6), bcastDone ev 1 outcome b.id b.round b.fenced.length b.repaired]

/-- RESET of FWU: a broadcast in progress is given up; its receivers keep what they hold (R62, R684). An image write is cut off. -/
def fwuReset (ev : EvtFn) : Upd := seqs [bcEnds ev 2, read fun s => act (.fwu { s.fwu with img := none })]
/-- A reset of BCST loses what is staged; its microcode store stays (R512, R676). -/
def bcstReset (site : Nat) : Upd := read fun s => when (decide (rcvOf s site ≠ {})) (modRcv site (fun r =>
  { r with parts := [], reply := none }))

/-- The version of the running image. -/
def runVersion (s : State) : Nat := rd s (fwuB + if bit (rd s (fwuB + R.FWU_RUNNING)) 0 then R.FWU_VERB else R.FWU_VERA)
/-- The tile part of the running image is in a site's microcode store (R672). -/
def tpLoaded (site : Nat) : Upd := read fun s => setReg (bcstB site + R.BCST_TP_VER) (runVersion s)
/-- Chunks of the running image's tile part, 1 to 1,024 (R662). -/
def tpChunks (s : State) : Nat := max 1 (min 1024 (Config.tilePart (runVersion s)))
/-- A tile-part broadcast to a wave has ended: `bad` of its `n` sites could not be loaded (R672). -/
def tpDone (ev : EvtFn) (n bad : Nat) : Upd := read fun s =>
  let id := (fld s (fwuB + R.FWU_BC_STATE) 31 16 + 1) % 65536
  let out := if bad = n then 1 else 0
  seqs [setReg (fwuB + R.FWU_BC_STATE) (id * 2 ^ 16 + (5 + out) * 2 ^ 12), bump (fwuB + R.FWU_CNT_BROADCASTS) 1, bump (fwuB + R.FWU_CNT_CHUNKS) (tpChunks s * 8),
    bcastDone ev 0 out id 0 bad 0]

end Sys2Proof.Machine
end

