-- ==== Sys2Proof/Machine/SlcState.lean ====
section
/-! DEFINITION. Sys2Proof/Machine/SlcState.lean: replacing a channel, and what a reset of the SLC page does (R298). -/
namespace Sys2Proof.Machine
open Sys2Proof

/-- Offset of a core's SLC page. -/
abbrev slcB (g : Nat) : Nat := Page.core .SLC g
/-- A core's SLC page as a place. -/
abbrev slcR (g : Nat) : Page.Ref := ⟨.SLC, g⟩
/-- Replace a channel. -/
def setChan (g k : Nat) (c : Chan) : Upd := read fun s =>
  let x := slcOf s g
  act (.slc g { x with chans := SMap.set {} k c x.chans })
/-- Change a channel. -/
def modChan (g k : Nat) (f : Chan → Chan) : Upd := read fun s => setChan g k (f (chanAt s g k))
/-- Complete every queued request of a slice as a dead access. -/
def dropQueues (g : Nat) : Upd := read fun s =>
  let x := slcOf s g
  act (.slc g { x with chans := (x.chans.map (fun e => (e.1, { e.2 with queue := [] }))).filter (fun e => e.2 ≠ {}) })

/-- Repay every refresh debt (R298). -/
def repayDebts (g : Nat) : Upd := read fun s =>
  each (slcOf s g).chans (fun e => seqs [bump (slcB g + R.CH_CNT_REF e.1) (e.2.debt.foldl (fun n d => n + d.2) 0),
    modChan g e.1 (fun c => { c with debt := [] })])

/-- RESET of the SLC page: queued requests complete as dead accesses and refresh debts are repaid (R298). -/
def slcReset (g : Nat) : Upd := seqs [dropQueues g, repayDebts g]

end Sys2Proof.Machine
end

