-- ==== Sys2Proof/Machine/Reset.lean ====
section
/-! DEFINITION. Sys2Proof/Machine/Reset.lean: what a reset of each block, of a core, of a tile and of the chip does
(R59, R127, R510 to R513, R640, R641). Events go through `ev`, so that a fault's reset can use these too. -/
namespace Sys2Proof.Machine
open Sys2Proof

/-! ## Threads -/

/-- A thread stopped by HALT or FAULT: its prior state kept, its run-ahead squashed (R83, R123). -/
def Thread.stopped (t : Thread) : Thread :=
  if t.state = tFREE ∨ t.state = tSTOPPED then t
  else { t with state := tSTOPPED, kept := t.state, ra := none }

/-- Every thread of a core that is not T_FREE takes T_STOPPED (R83, R126). -/
def stopThreads (g : Nat) : Upd := read fun s =>
  each (coreThreads s g) (fun e => setThr g e.1 e.2.stopped)

/-- Abandon every running descriptor of a core and discard every buffered one (R403, R404). -/
def dropStream (ev : EvtFn) (g cause : Nat) : Upd := read fun s =>
  let x := streamOf s g
  let ch := (x.running.filter (·.kind = 2)).length
  seqs [ledAdd 0x06 (g / 64) (g % 64) 2 x.buf.length,
    ledLose ev (g / 64) 0x06 (g % 64) 5 x.running.length cause,
    when (ch > 0) (ledAdd 0x05 (g / 64) (g % 64) 2 ch),
    ledLose ev (g / 64) 0x07 (g % 64) 2 (x.sigs.foldl (fun n y => n + y.n) 0) cause,
    act (.stream g { stopped := x.stopped })]

/-- Free every thread of a core with its descriptors, counting what was in flight (R127, R403, R511, R653). -/
def freeThreads (ev : EvtFn) (g cause : Nat) : Upd := read fun s =>
  let c := slotCounts s g
  seqs [ledLose ev (g / 64) 0x0A (g % 64) 3 c.1 cause, ledLose ev (g / 64) 0x07 (g % 64) 2 c.2 cause,
    dropStream ev g cause,
    each (coreThreads s g) (fun e => setThr g e.1 e.2.freed),
    each (List.range 64) (fun k => act (.tokq (thrKey g k) []))]

/-! ## Effects of a reset, block by block -/

/-- R127, without the MXU. -/
def coreFx (ev : EvtFn) (g cause : Nat) : Upd :=
  let b := Page.core .CORE g
  seqs [freeThreads ev g cause, act (.leaf g {}), portReset g, kvPortReset g, sapOrphan g,
    read fun s => ledLose ev (g / 64) 0x07 (g % 64) 2 (match (sndOf s g).run with | some r => b2n r.sig.isSome | none => 0) cause, sndReset g,
    resetRegs ((List.range 64).map (fun n => b + R.CORE_TOK n) ++ [b + R.CORE_DESC_FINFO]),
    each (List.range 4) (fun n => read fun s => setReg (b + R.RING_CONS n) (rd s (b + R.RING_PROD n)))]

/-- R78: the ring registers and JNL_RING_PROD return to their reset values; every entry is kept. -/
def jnlFx : Upd :=
  let b := Page.trunk .JNL
  resetRegs [b + R.JNL_RING_BASE_LO, b + R.JNL_RING_BASE_HI, b + R.JNL_RING_SIZE, b + R.JNL_CONS_ADDR_LO,
    b + R.JNL_CONS_ADDR_HI, b + R.JNL_RING_PROD, b + R.JNL_RING_CONS]

/-- R491: ER_PROD and ER_CONS of every ring become 0; the hold store keeps its records and their order. -/
def evqFx : Upd :=
  seqs [resetRegs [evqB + R.EVQ_HELD_MAX], each (List.range 64) (fun n => resetRegs [evqB + R.ER_PROD n, evqB + R.ER_CONS n]),
    read fun s => each s.evq.counted (fun e => act (.evCount e.1 (0, 0)))]

/-- The effects a block's own chapter gives its reset. -/
def blockFx (ev : EvtFn) (r : Page.Ref) (cause : Nat) : Upd :=
  match r.t with
  | .CORE => coreFx ev r.inst cause
  | .MXU => seqs [arrReset r.inst, mvReset r.inst, attReset r.inst]
  | .KVM => kvUndo r
  | .PFX => seqs [kvUndo r, pfxReset r.inst]
  | .DSP => dspReset (fun n => ledLose ev r.inst 0x03 0 6 n cause) r.inst
  | .SLC => slcReset r.inst
  | .SAP => sapReset ev (fun id n => ledLose ev (r.inst / 64) id (r.inst % 64) 2 n cause) r.inst
  | .RTR => rtrReset ev r.inst
  | .XPR => xprReset ev r.inst
  | .BGH => bghReset ev r.inst
  | .TILE => fabTileReset r.inst
  | .JNL => jnlFx
  | .EVQ => evqFx
  | .HIF => hifReset ev
  | .FWU => fwuReset ev
  | .BCST => bcstReset r.inst
  | .MGT => read fun s => act (.mgt { seen := s.mgt.seen })
  | _ => skip

/-- What every reset of a block does beside them: PG_LASTCHG and the latches of R50 (R53, R50). -/
def headerFx (r : Page.Ref) : Upd :=
  let pg := Page.base r
  seqs [resetRegs [pg + R.PG_LASTCHG], act (.dropLatch (fun k => k / 65536 / 0x1000 = pg / 0x1000))]

/-- Move a block to a state other than by a command: the state, what a waits command in progress ends with (R63), and
STATE_CHANGED (R64). -/
def moveState (ev : EvtFn) (r : Page.Ref) (new cause : Nat) : Upd := read fun s =>
  let old := pgState s r
  when (old ≠ new) (seqs [setState r new,
    when (new = stFAULT || new = stOFF || new = stRESET || new = stRETIRED) (endBusy ev r 6),
    stateChanged ev r old new cause])

/-- A block reset that no command began: into RESET, its effects, and out again in the same step (log 12). -/
def resetBlock (ev : EvtFn) (r : Page.Ref) (cause : Nat) : Upd := read fun s =>
  let st := pgState s r
  when (st ≠ stOFF && st ≠ stRETIRED) (seqs [
    when (SMap.find (Page.base r) s.busy).isNone (resetRegs [Page.base r + R.PG_CMD_STATUS]),
    moveState ev r stRESET cause, headerFx r, blockFx ev r 0, moveState ev r (idleOf r.t) cause])

/-- A reset of a core: the CORE block and its MXU; a lost island runs again (R502, R510). -/
def resetCore (ev : EvtFn) (g cause : Nat) : Upd := read fun s =>
  seqs [act (.lost (s.lost.filter (· ≠ (0, g / 64, g % 64)))), resetBlock ev ⟨.CORE, g⟩ cause, resetBlock ev ⟨.MXU, g⟩ 2]

/-! ## Tile reset (R512) -/

/-- Tile pages that a tile reset resets: those outside the bark domain and the trunk (R512). -/
def tileResetTypes : List PType := [.TILE, .DSP, .KVM, .PFX, .BCST]

/-- The blocks that a tile reset of a site resets: those outside its bark domain and the trunk. -/
def tileBlocks (site : Nat) : List Page.Ref :=
  (List.range 64).flatMap (fun c => [PType.CORE, .MXU, .SLC, .SAP].map (fun t => ⟨t, site * 64 + c⟩)) ++ tileResetTypes.map (fun t => ⟨t, site⟩)

/-- A block enters RESET with its effects and stays there. A reset of its own that is in progress ends ABORTED (R513), but TILE's,
which this is. -/
def holdReset (ev : EvtFn) (r : Page.Ref) (cause : Nat) : Upd := read fun s =>
  let st := pgState s r
  when (st ≠ stOFF && st ≠ stRETIRED) (seqs [
    when (SMap.find (Page.base r) s.busy).isNone (resetRegs [Page.base r + R.PG_CMD_STATUS]),
    if r.t = .TILE then when (st ≠ stRESET) (seqs [setState r stRESET, stateChanged ev r st stRESET cause])
    else seqs [when (st = stRESET) (endBusy ev r 6), moveState ev r stRESET cause],
    headerFx r, blockFx ev r 1])

/-- Steps 1 and 3 of R512: every block of the site outside the bark domain enters RESET with its effects. -/
def tileBegin (ev : EvtFn) (site cause : Nat) : Upd :=
  each (tileBlocks site) (fun r => holdReset ev r (if r.t = .TILE then cause else 2))

/-- Steps 2 and 5: lost islands run again, a lost router is reset, the blocks reach IDLE, and Xazara starts the slices, the
sap units and TILE by `start`; the fence is lifted. -/
def tileEnd (ev : EvtFn) (start : Page.Ref → Upd) (site : Nat) : Upd := read fun s => seqs [
  when (islandLost s 1 site 0) (seqs [each [PType.RTR, .XPR] (fun t => resetBlock ev ⟨t, site⟩ 2), start ⟨.RTR, site⟩]),
  act (.lost (s.lost.filter (fun x => !(decide (x.1 ≤ 3) && x.2.1 = site)))),
  setBit64 (Page.trunk .CLK + R.CLK_FENCED_LO) site false,
  each (tileBlocks site) (fun r => read fun t => when (decide (pgState t r = stRESET))
    (setState r (idleOf r.t))),
  each ((tileBlocks site).filter (fun r => r.t = .SLC ∨ r.t = .SAP)) (fun r => read fun t => when (decide (pgState t r = stIDLE)) (start r)),
  start ⟨.TILE, site⟩]

/-- A tile reset whose islands all run. -/
def resetTile (ev : EvtFn) (start : Page.Ref → Upd) (site cause : Nat) : Upd := seqs [tileBegin ev site cause, tileEnd ev start site]

/-! ## Chip reset (R510) -/

/-- Does the register at `off` keep its value through a chip reset? Blocks of the trunk always-on domain keep theirs but
for their fault registers (R510, R641); JNL keeps its registers (R77); TRK_RESET_CAUSE is kept. -/
def chipKeeps (s : State) (off : Nat) : Bool :=
  match Page.ofOff off with
  | none => false
  | some r =>
    let o := off % 0x1000
    let st := pgState s r
    if o = R.PG_FLT ∨ o = R.PG_FLT_EN ∨ (0x40 ≤ o ∧ o < 0x60) then false
    else if o = R.PG_STATE ∧ (st = stOFF ∨ st = stRETIRED) then true
    else match r.t with
      | .JNL => true
      | .TRK => o = R.TRK_RESET_CAUSE
      | .DFLT => o ≠ R.DFLT_GUARD
      | .CLK => o ≠ R.CLK_FENCED_LO ∧ o ≠ R.CLK_FENCED_HI
      | .TPWR => o ≠ R.TPWR_DOM ∧ o ≠ R.TPWR_CORE_ON_LO ∧ o ≠ R.TPWR_CORE_ON_HI
      | .TTHM => o ≠ R.TTHM_BROKEN_LO ∧ o ≠ R.TTHM_BROKEN_HI ∧ o ≠ R.TTHM_GUARD_LO ∧ o ≠ R.TTHM_GUARD_HI
      | .LIC => R.LIC_STATE ≤ o ∧ o ≤ R.LIC_ID_HI
      | .FWU => R.FWU_SLOTA ≤ o ∧ o ≤ R.FWU_MIN_SVN
      | .LDGD => o ≠ R.PG_STATE
      | .PWR | .THM | .FUS | .TIM => true
      | .BOOT => o = R.BOOT_CTRL
      | _ => false

/-- TRK_RESET_CAUSE after a chip reset with these causes (R76). -/
def resetCause (s : State) (causes : Nat) : Nat :=
  let o := Page.trunk .TRK + R.TRK_RESET_CAUSE
  min (fld s o 31 16 + 1) 0xFFFF * 2 ^ 16 + causes

/-- The writes still held when a chip reset begins are refused and counted (R76). -/
def refuseHeld : Upd := read fun s =>
  let m := s.jnl.bp
  let n := m.held.length
  let b := Page.trunk .JNL + R.JNL_REFUSED
  when (n > 0) (seqs [
    act (.jBp { m with held := [], holdAt := none, refusing := true, epCount := (if m.refusing then m.epCount else 0) + n,
                       epAt := if m.refusing then m.epAt else s.now, epBefore := if m.refusing then m.epBefore else rd s b }),
    bump b n])

/-- A channel after a chip reset: its repair state and its counts since cold start stay (R598). -/
def Chan.kept (c : Chan) : Chan := { ce := c.ce, ue := c.ue, lap := c.lap, bad := c.bad, rmap := c.rmap, steer := c.steer }
/-- A slice after its memory domain lost power or the chip was reset. -/
def Slc.kept (x : Slc) : Slc := { chans := (x.chans.map (fun e => (e.1, e.2.kept))).filter (fun e => e.2 ≠ {}) }
/-- A site's sensors after a chip reset: broken marks, comparisons and halts start afresh; the model and the ring counts stay
(R624, R631, R632). -/
def Tth.kept (x : Tth) : Tth := { nodes := x.nodes, top := x.top, residue := x.residue, counts := x.counts, life := x.life }

/-- A chip reset: every block outside the trunk always-on domain returns to its reset values, device memory is
initialised again, and JNL moves to IDLE (R77, R510, R641, R646, R647). -/
def chipReset (causes : Nat) : Upd := read fun s =>
  let cause := resetCause s causes
  seqs [refuseHeld, ldgFinal,
    act (.regsReset (fun off => !chipKeeps s off)),
    setReg (Page.trunk .TRK + R.TRK_RESET_CAUSE) cause,
    setState ⟨.JNL, 0⟩ stIDLE,
    each s.threads (fun e => act (.thread e.1 {})),
    each s.leaf (fun e => act (.leaf e.1 {})),
    each s.tokq (fun e => act (.tokq e.1 [])),
    each s.arr (fun e => act (.arr e.1 {})),
    each s.mv (fun e => act (.mv e.1 {})),
    each s.dsp (fun e => act (.dsp e.1 {})),
    each s.port (fun e => act (.port e.1 {})), each s.sap (fun e => act (.sap e.1 {})),
    each s.att (fun e => act (.att e.1 {})), each (List.range 64) (fun k => act (.pfx k { draws := (pfxOf s k).draws + 1 })),
    act (.fab { next := s.fab.next }), each s.rtr (fun e => act (.rtr e.1 {})), each s.snd (fun e => act (.snd e.1 {})),
    each s.bgh (fun e => act (.bgh e.1 { dark := e.2.dark })),
    each s.busy (fun e => act (.busy e.1 none)),
    act (.dropLatch (fun _ => true)), act (.staged []), act .evClear, act (.evPba []),
    each s.deadWin (fun e => act (.deadWin e.1 none)),
    each s.slc (fun e => act (.slc e.1 e.2.kept)), act (.hif {}), act (.fwu {}), each s.bcst (fun e => act (.bcst e.1 {})), act (.mgt { seen := (coolState s, 1) }), act (.fus {}), act (.boot { records := s.boot.records }),
    each s.tth (fun e => seqs [act (.tth e.1 e.2.kept), setFld (Page.tile .TTHM e.1 + R.TTHM_STATE) 7 0 0]),
    act (.clk { s.clk with cur := [] }),
    act (.lost []), act (.memClear (fun _ => true)), act .cfgClear,
    each s.msix (fun e => act (.msix e.1 0)),
    act (.flt { s.flt with resets := [], frozen := true }), ldgInitial]

end Sys2Proof.Machine
end

