-- ==== Sys2Proof/Machine/FaultCore.lean ====
section
/-! DEFINITION. Sys2Proof/Machine/FaultCore.lean: raising a fault: the steps of R637, the first-fault collectors, FAULT_N, the
trap log and the guards (R637 to R648). -/
namespace Sys2Proof.Machine
open Sys2Proof

abbrev dfltB : Nat := Page.trunk .DFLT

/-! ## Collectors (R644, R645) -/

/-- One collector, at page base `b`, records a raise. -/
def latchFirst (b : Nat) (r : Page.Ref) (n org mask st : Nat) : Upd := read fun s =>
  if fld s (b + R.TFLT_FIRST) 31 31 = 1 then
    seqs [setFld (b + R.TFLT_FIRST) 30 30 1, bump (b + R.TFLT_COUNT) 1]
  else seqs [setReg (b + R.TFLT_FIRST) (2 ^ 31 + n * 2 ^ 16 + pageNo r),
    setReg64 (b + R.TFLT_FIRST_T_LO) s.now,
    setReg (b + R.TFLT_FIRST_DETAIL) (org * 2 ^ 16 + mask * 2 ^ 8 + st)]

/-- The tile collector of the page's site, and the device collector. -/
def collect (r : Page.Ref) (n org mask st : Nat) : Upd :=
  seqs [when (Page.isTile r.t || Page.isCore r.t) (latchFirst (Page.tile .TFLT (Page.siteOf r)) r n org mask st),
    latchFirst dfltB r n org mask st]

/-! ## FAULT_N (R647) -/

/-- Drive or release FAULT_N as its terms say, with FAULTN_CHANGED; nothing while a chip reset holds its level. -/
def faultnCheck (ev : EvtFn) : Upd := read fun s =>
  let low := fld s (dfltB + R.DFLT_FAULTN) 31 31 = 1
  let want := faultTerms s
  when (!s.flt.frozen && (decide low != want)) (seqs [setFld (dfltB + R.DFLT_FAULTN) 31 31 (b2n want),
    ev ⟨.DFLT, 0⟩ 1 0x0202 0 (payload [(24, 1, b2n want), (26, 2, min (faultHolds s) 0xFFFF), (28, 1, b2n (flowLost s)),
      (29, 1, fld s (dfltB + R.DFLT_CTRL) 0 0)])])

/-! ## The trap log (R648) -/

/-- The 32 words of a trap entry. -/
def trapWords (s : State) (r : Page.Ref) (n org mask st : Nat) : List Nat :=
  [2 ^ 31 + n * 2 ^ 16 + pageNo r, s.now % 2 ^ 32, s.now / 2 ^ 32 % 2 ^ 32, org * 2 ^ 16 + mask * 2 ^ 8 + st]
    ++ (List.range 14).map (fun i => pageRead s r (4 * i)) ++ (List.range 14).map (fun i => pageRead s r (0x100 + 4 * i))

/-- Capture a trap: the oldest entry is overwritten when the log is full; `over` if it was not served yet. -/
def capture (past : Upd) (r : Page.Ref) (n org mask st : Nat) : Upd := read fun s =>
  let f := s.flt
  let full := (SMap.find f.next f.traps).isSome
  let lost := full && f.unserved.contains f.next
  let stat := dfltB + R.DFLT_TRAP_STATUS
  seqs [act (.flt { f with traps := SMap.put f.next (trapWords s r n org mask st) f.traps, next := (f.next + 1) % 16,
                           unserved := f.unserved.filter (· ≠ f.next) ++ [f.next] }),
    bumpFld stat 31 16 1, when full (bumpFld stat 15 8 1), when lost past]

/-! ## Guards (R642) -/

/-- Has the source's bit-2 reset run 8 times within 1 s? -/
def guarded (s : State) (k : Nat) : Bool :=
  match SMap.get [] k s.flt.resets with
  | [] => false
  | t :: ts => ts.length ≥ 7 && (t :: ts).getLastD t ≤ t + 1000000000

/-- Record a bit-2 reset of a source: the last eight times are kept. -/
def noteReset (k : Nat) : Upd := read fun s =>
  let l := SMap.get [] k s.flt.resets ++ [s.now]
  act (.flt { s.flt with resets := SMap.put k (if l.length > 8 then l.drop (l.length - 8) else l) s.flt.resets })

/-- DFLT_GUARD names the source that a guard stopped. -/
def noteGuard (r : Page.Ref) (n : Nat) : Upd := setReg (dfltB + R.DFLT_GUARD) (n * 2 ^ 16 + pageNo r)

/-- Reaction bit 2 (R640, R642). -/
def react2 (ev : EvtFn) (start : Page.Ref → Upd) (r : Page.Ref) (n : Nat) : Upd := read fun s =>
  let k := Page.base r * 32 + n
  if guarded s k then noteGuard r n
  else seqs [noteReset k,
    if r.t = .CORE then resetCore ev r.inst 4
    else if r.t = .TILE then resetTile ev start r.inst 4
    else resetBlock ev r 4]

/-- Reaction bit 3 (R637, R642): a chip reset, after which `boot` brings the trunk up again. -/
def react3 (boot : Upd) (r : Page.Ref) (n : Nat) : Upd := read fun s =>
  let blocked := match s.flt.chipAt with | none => false | some t => s.now < t + 1000000000
  if blocked then noteGuard r n
  else seqs [act (.flt { s.flt with chipAt := some s.now }), chipReset 16, boot]

/-! ## Raising a source (R637) -/

/-- A page enters FAULT by source `n` (R57, R58, R63); the work it holds aborts (R334, R378). -/
def enterFault (ev : EvtFn) (r : Page.Ref) (n : Nat) : Upd := read fun s =>
  let st := pgState s r
  when (st = stIDLE || st = stRUN || st = stDRAIN || st = stHALT) (seqs [moveState ev r stFAULT 0,
    when (r.t = .CORE) (stopThreads r.inst), when (r.t = .SAP) (abortAll ev r.inst),
    when (r.t = .MXU) (runAbort ev r.inst n)])

/-- FAULT_RAISED (R637 step 5, R54). -/
def faultRecord (drop : Upd) (r : Page.Ref) (n org mask st : Nat) (was : Bool) : Upd := read fun s =>
  let pg := Page.base r
  if was then when (Page.hasEvt r.t) (bump (pg + R.PG_EVT_CNT) 1)
  else emit drop (fld s ((if Page.hasEvt r.t then pg else dfltB) + R.PG_EVT_RING) 5 0) 0x0200 (pageNo r) org
    (payload [(24, 1, n), (25, 1, mask), (26, 1, st), (27, 1, pgState s r), (28, 4, rd s (pg + R.PG_FLT)),
      (32, 4, rd s (dfltB + R.TFLT_COUNT))]) (if answers s r then 0 else 4)

/-- Raise source `n` of a page; `drop` is what the first dropped record raises, `over` what an unserved trap entry
overwritten raises, `boot` what follows a chip reset, `start` how Xazara starts a block. -/
def raiseW (drop past boot : Upd) (start : Page.Ref → Upd) (r : Page.Ref) (n org : Nat) : Upd := read fun s =>
  let pg := Page.base r
  let ev := evtW drop
  let was := bit (rd s (pg + R.PG_FLT)) n
  let m := routeMask s pg n
  let st := pgState s r
  if !bit (Page.fltMask r.t) n then skip
  else seqs [setFld (pg + R.PG_FLT) n n 1,
    when (bit (rd s (pg + R.PG_FLT_EN)) n) (seqs [collect r n org m st, enterFault ev r n, faultnCheck ev,
      when (bit m 0) (faultRecord drop r n org m st was),
      when (r.t = .JNL) (ev r 4 0x0804 org (payload [(24, 1, n), (28, 4, rd s (pg + R.JNL_DRAINED_SEQ))])),
      when (bit m 1) (capture past r n org m st),
      when (bit m 2) (react2 ev start r n),
      when (bit m 3) (react3 boot r n)])]

/-- A START past the journal, for faults of the event path itself (log 44). -/
def bareStart (r : Page.Ref) : Upd := setState r stRUN
/-- EVQ_hold_full (R485, R492). -/
def holdFull : Upd := raiseW skip skip skip bareStart ⟨.EVQ, 0⟩ 0 0
/-- DFLT_trap_over (R657). -/
def trapOver : Upd := raiseW holdFull skip skip bareStart ⟨.DFLT, 0⟩ 1 0
/-- Raise a source while the trunk comes up. -/
def raise0 (r : Page.Ref) (n org : Nat) : Upd := raiseW holdFull trapOver skip bareStart r n org
/-- Raise an event of a page. -/
def evt : EvtFn := evtW holdFull

end Sys2Proof.Machine
end

