-- ==== Sys2Proof/Machine/Journal.lean ====
section
/-! DEFINITION. Sys2Proof/Machine/Journal.lean: the change journal: allocation, entries, coalescing windows, back-pressure
and the refusal episode (R66 to R76). -/
namespace Sys2Proof.Machine
open Sys2Proof

abbrev jnlB : Nat := Page.trunk .JNL
abbrev jnlR : Page.Ref := ⟨.JNL, 0⟩

/-- Entries that the store holds for an origin class before it is full for it (R72). -/
def classLimit (cls : Nat) : Nat := if cls = 2 ∨ cls = 6 then 65536 else 64512
/-- Has the store `n` entries free for the class? -/
def jRoom (s : State) (cls n : Nat) : Bool := s.jnl.fill + n ≤ classLimit cls

/-- The sequence number of the next entry (R67). -/
def nextSeq (s : State) : Nat := rd s (jnlB + R.JNL_NEXT_SEQ)
/-- Sequence numbers wrap from 0xFFFF_FFFF to 1 (R67). -/
def seqAfter (q : Nat) : Nat := if q = 0xFFFFFFFF then 1 else q + 1

/-- JNL_HIGH when the fill rises to JNL_HIGH_WM (R78). Call it after an allocation that took the fill from `before`. -/
def highCheck (before : Nat) : Upd := read fun s =>
  let wm := rd s (jnlB + R.JNL_HIGH_WM)
  when (before < wm && s.jnl.fill ≥ wm)
    (evt jnlR 0 0x0800 0 (payload [(24, 4, s.jnl.fill), (28, 4, nextSeq s)]))

/-- The flags of an entry (R67). -/
def jFlags (chan : Nat) (pair : Bool) (reason : Nat) (coal refused : Bool) : Nat :=
  chan * 2 ^ 13 + b2n pair * 2 ^ 6 + reason * 2 ^ 2 + b2n coal * 2 + b2n refused

/-- Give an entry the next sequence number and put it in the store. -/
def putEntry (e : JEntry) : Upd := read fun s =>
  seqs [act (.jPush { e with seq := nextSeq s }), setReg (jnlB + R.JNL_NEXT_SEQ) (seqAfter (nextSeq s))]

/-- Allocate and make one entry; the caller has checked that there is room. -/
def newEntry (e : JEntry) : Upd := read fun s =>
  seqs [putEntry e, ledAdd 0x21 64 0 0 1, highCheck s.jnl.fill]

/-- An entry of origin `o` for the register at `off`. -/
def entryOf (s : State) (o : Origin) (off old new reason : Nat) (pair : Bool) : JEntry :=
  { seq := 0, time := s.now, org := orgWord o, flags := jFlags (if o.cls = 4 then o.chan else 0) pair reason false (reason ≠ 0),
    off := off, old := old, new := new, count := 1 }

/-- PG_LASTCHG of the page of `off` (R53). -/
def lastChg (off seq : Nat) : Upd := setReg (off / 0x1000 * 0x1000 + R.PG_LASTCHG) seq

/-! ## Coalescing (R70, R71) -/

/-- The entry a closing window makes. -/
def winEntry (w : Win) : JEntry :=
  { seq := 0, time := w.time, org := w.org, flags := jFlags w.chan false 0 true false, off := w.off, old := w.old, new := w.new,
    count := w.count }

/-- Close the windows that meet `p`, oldest first: each entry takes its sequence number now (R70). -/
def closeWins (p : Win → Bool) : Upd := read fun s =>
  seqs [act (.jWins (s.jnl.wins.filter (fun w => !p w))),
    each (s.jnl.wins.filter p) (fun w => read fun t => seqs [lastChg w.off (nextSeq t), putEntry (winEntry w)])]

/-- Does a write of origin `o` join an open window of the register? -/
def joins (s : State) (o : Origin) (off : Nat) : Bool := s.jnl.wins.any (fun w => w.off = off && w.org = orgWord o)

/-- Join the open window, or open one; a window of another origin closes first, and the oldest when 512 are open. -/
def coalesce (o : Origin) (off val : Nat) : Upd := read fun s =>
  if joins s o off then
    act (.jWins (s.jnl.wins.map (fun w => if w.off = off then { w with new := val, count := w.count + 1 } else w)))
  else seqs [closeWins (fun w => w.off = off),
    read fun t => when (t.jnl.wins.length ≥ 512) (onSome t.jnl.wins.head? (fun h => closeWins (fun w => w = h))),
    read fun t => seqs [
      act (.jOpen { off := off, org := orgWord o, chan := if o.cls = 4 then o.chan else 0, time := t.now, old := val, new := val, count := 1 }),
      ledAdd 0x21 64 0 0 1, highCheck t.jnl.fill]]

/-! ## Hardware-applied changes of class 6 (R72) -/

/-- Count a write that found no entry: in JNL_REFUSED and in the episode, which opens if none is (R72, R75, R76). -/
def countRefused : Upd := read fun s =>
  let m := s.jnl.bp
  let m' : JMeta := if m.refusing then { m with epCount := m.epCount + 1 }
    else { m with refusing := true, epCount := 1, epAt := m.holdAt.getD s.now, epBefore := rd s (jnlB + R.JNL_REFUSED) }
  seqs [act (.jBp m'), bump (jnlB + R.JNL_REFUSED) 1, ledAdd 0x21 64 0 4 1,
    when (m'.epCount = 1) (read fun t => evt jnlR 2 0x0802 0 (payload [(24, 4, rd t (jnlB + R.JNL_REFUSED))]))]

/-- A hardware-applied change of a register, instance as in R68: it takes effect at once and is journaled if an entry is
free. -/
def hwChange (inst off new : Nat) : Upd := read fun s =>
  let o : Origin := { cls := 6, inst := inst }
  seqs [setReg off new,
    if jRoom s 6 1 then seqs [lastChg off (nextSeq s), newEntry (entryOf s o off (rd s off) new 0 false)]
    else countRefused]

/-- A hardware-applied change that is journaled without a register of that offset changing by it. -/
def hwEntry (inst off old new count : Nat) : Upd := read fun s =>
  if jRoom s 6 1 then newEntry { entryOf s { cls := 6, inst := inst } off old new 0 false with count := count } else countRefused

/-! ## Back-pressure (R75) -/

/-- Hold a write: JNL_HOLD and JNL_HOLDS for the first one. -/
def holdWrite (w : WReq) : Upd := read fun s =>
  let m := s.jnl.bp
  if m.holdAt.isSome then act (.jBp { m with held := m.held ++ [w] })
  else seqs [act (.jBp { m with held := m.held ++ [w], holdAt := some s.now }), bump (jnlB + R.JNL_HOLDS) 1,
    evt jnlR 1 0x0801 0 (payload [(24, 4, s.jnl.fill), (28, 4, rd s (jnlB + R.JNL_RING_CONS))])]

/-- The hold ends: JNL_HOLD_MAX. -/
def endHold : Upd := read fun s =>
  match s.jnl.bp.holdAt with
  | none => skip
  | some t =>
    let us := min ((s.now - t) / 1000) 0xFFFFFF
    seqs [act (.jBp { s.jnl.bp with holdAt := none }),
      when (us > fld s (jnlB + R.JNL_HOLD_MAX) 23 0) (setReg (jnlB + R.JNL_HOLD_MAX) us)]

/-- Must a write of this origin wait behind one that is held? Posted credits of the host are withheld for all of its
writes; any other origin waits in its own path (R75). -/
def mustWait (s : State) (o : Origin) : Bool :=
  s.jnl.bp.held.any fun w =>
    let h := match w with | .reg h _ _ _ => h | .cfg h _ _ _ => h | .msix h _ _ _ => h
    h.cls = o.cls && (o.cls = 0 || h.inst = o.inst)

/-- Xazara issues START to a block in IDLE: journaled as trunk firmware's; with no entry free it is held (R66, R68, R75). -/
def fwStart (r : Page.Ref) : Upd := read fun s =>
  let o : Origin := { cls := 2, inst := 0 }
  let c := Page.base r + R.PG_CMD
  if jRoom s 2 1 && !mustWait s o then seqs [lastChg c (nextSeq s), newEntry (entryOf s o c (rd s c) 2 0 false), setReg c 2,
    setReg (Page.base r + R.PG_CMD_STATUS) (orgWord o * 2 ^ 16 + 2 * 2 ^ 8 + 1), setState r stRUN]
  else holdWrite (.reg o c 4 2)

end Sys2Proof.Machine
end

