-- ==== Sys2Proof/Machine/Cmd.lean ====
section
/-! DEFINITION. Sys2Proof/Machine/Cmd.lean: what a command of a page is, and the common commands of R59. -/
namespace Sys2Proof.Machine
open Sys2Proof

/-- A command of a page (R59, R60, R61): opcode, the states it is legal in, whether it waits, which arguments are in range,
when it ends FAILED at once, what it does when accepted, when a waits command may end, whether it can end FAILED later, and
what its end does. `o` is the origin word. -/
structure CmdDef where
  op : Nat
  legal : List Nat
  waits : Bool := false
  argOk : State → Page.Ref → Nat → Bool := fun _ _ a => a = 0
  fails : State → Page.Ref → Nat → Bool := fun _ _ _ => false
  run : Page.Ref → Nat → Upd := fun _ _ => skip
  ready : State → Page.Ref → Nat → Bool := fun _ _ _ => true
  canFail : State → Page.Ref → Nat → Bool := fun _ _ _ => false
  fin : Page.Ref → Nat → Bool → Upd := fun _ _ _ => skip

/-- The state a block shows: FAULT while its clock is lost (R47). -/
def shownState (s : State) (r : Page.Ref) : Nat := if clockLost s r then stFAULT else pgState s r

/-- IDLE, or RUN where the page does not use IDLE (R709). -/
def toIdle (r : Page.Ref) : Upd := setState r (idleOf r.t)

/-- RESET (R59): through RESET, its effects, done at IDLE. -/
def cReset : CmdDef :=
  { op := 1, legal := [stIDLE, stRUN, stDRAIN, stHALT, stFAULT], waits := true,
    run := fun r _ => seqs [setState r stRESET, headerFx r, blockFx evt r 0], fin := fun r _ _ => toIdle r }
/-- START (R59). -/
def cStart : CmdDef := { op := 2, legal := [stIDLE], run := fun r _ => setState r stRUN }
/-- DRAIN (R59), done when the owning chapter's conditions are met. -/
def cDrain (ready : State → Page.Ref → Nat → Bool) : CmdDef :=
  { op := 3, legal := [stRUN], waits := true, run := fun r _ => setState r stDRAIN, ready := ready, fin := fun r _ _ => toIdle r }
/-- HALT (R59), done when the block has stopped. -/
def cHalt (run : Page.Ref → Nat → Upd) (ready : State → Page.Ref → Nat → Bool) : CmdDef :=
  { op := 4, legal := [stRUN], waits := true, run := run, ready := ready, fin := fun r _ _ => setState r stHALT }
/-- RESUME (R59). -/
def cResume : CmdDef := { op := 5, legal := [stHALT], run := fun r _ => setState r stRUN }
/-- CLEAR_FAULT (R59); the common rules turn it away while an enabled fault bit is set. -/
def cClear : CmdDef := { op := 6, legal := [stFAULT], run := fun r _ => toIdle r }

/-- A command that does not wait and takes no argument. -/
def simpleCmd (op : Nat) (legal : List Nat) (u : Page.Ref → Upd) : CmdDef := { op := op, legal := legal, run := fun r _ => u r }

/-- Set registers of a page to 0. -/
def zeroRegs (r : Page.Ref) (offs : List Nat) : Upd := each offs (fun o => setReg (Page.base r + o) 0)
/-- Offsets `a`, `a+4`, … of `n` registers. -/
def regRun (a n : Nat) : List Nat := (List.range n).map (fun i => a + 4 * i)

/-- Every state R59 names. -/
abbrev anyState : List Nat := [stIDLE, stRUN, stDRAIN, stHALT, stFAULT]

end Sys2Proof.Machine
end

