-- ==== Sys2Proof/Machine/Licence.lean ====
section
/-! DEFINITION. Sys2Proof/Machine/Licence.lean: licence blobs, their checks, and activation (R562 to R569). -/
namespace Sys2Proof.Machine
open Sys2Proof

abbrev licB : Nat := Page.trunk .LIC
abbrev licR : Page.Ref := ⟨.LIC, 0⟩

/-- `n` bytes of a blob at byte `a` (R562). -/
def Blob.get (b : Blob) (a n : Nat) : Nat := b.data / 256 ^ a % 256 ^ n
/-- The fields of a blob (R562). -/
abbrev Blob.counter (b : Blob) : Nat := b.get 4 4
/-- Tiles licensed. -/
abbrev Blob.tiles (b : Blob) : Nat := b.get 40 1
/-- Promotions allowed. -/
abbrev Blob.coppice (b : Blob) : Nat := b.get 41 1
/-- Ports licensed. -/
abbrev Blob.ports (b : Blob) : Nat := b.get 42 1
/-- Maximum clock code. -/
abbrev Blob.clock (b : Blob) : Nat := b.get 43 1
/-- TDP. -/
abbrev Blob.tdp (b : Blob) : Nat := b.get 44 2

/-- Does every field lie within its values, and are the reserved bytes zero? (R562) -/
def Blob.fieldsOk (b : Blob) : Bool :=
  decide (160 ≤ b.len ∧ b.len ≤ 1024 ∧ b.len % 16 = 0) && decide (1 ≤ b.counter ∧ b.counter ≤ 255) && decide (1 ≤ b.tiles ∧ b.tiles ≤ 64)
    && decide (b.clock ≤ 48) && decide (1000 ≤ b.tdp ∧ b.tdp ≤ 7200) && decide (b.get 46 2 = 0) && decide (b.get 64 (b.len - 160) = 0)

/-- The four words of a register run. -/
def words4 (s : State) (off : Nat) : Nat := (List.range 4).foldl (fun n i => n + rd s (off + 4 * i) * 2 ^ (32 * i)) 0

/-- The first check of R564 that a blob fails, 1 to 7, or 0; `staged` is the length that was staged. -/
def licReason (s : State) (b : Blob) (staged : Nat) : Nat :=
  let idn := Page.trunk .IDN
  let same := s.lic.active = some b
  if b.get 0 2 ≠ 1 ∨ b.get 2 2 ≠ staged then 1
  else if !Config.licenceSigned b.len b.data then 2
  else if b.get 8 16 ≠ words4 s (idn + R.IDN_SERIAL 0) then 3
  else if b.get 24 16 ≠ words4 s (idn + R.IDN_ECID 0) then 4
  else if !b.fieldsOk then 5
  else if !same && (match s.lic.active with | some a => decide (b.counter ≤ a.counter) | none => false) then 6
  else if !same && decide (b.counter ≤ fld s (licB + R.LIC_STATE) 23 16) then 7
  else 0

/-- The registers that the active and the pending licence set (R567). -/
def licRegs : Upd := read fun s =>
  let st := licB + R.LIC_STATE
  seqs [setFld st 1 1 (b2n s.lic.pending.isSome), setReg (licB + R.LIC_PEND) (match s.lic.pending with | some p => p.counter | none => 0),
    match s.lic.active with
    | none => seqs [setFld st 15 8 0, setFld st 0 0 0]
    | some a => seqs [setFld st 15 8 a.counter, setFld st 0 0 1,
        setReg (licB + R.LIC_ACTIVE0) (a.ports * 2 ^ 24 + a.coppice * 2 ^ 16 + a.clock * 2 ^ 8 + a.tiles),
        setFld (licB + R.LIC_ACTIVE1) 15 0 a.tdp, setReg64 (licB + R.LIC_ID_LO) (a.get 56 8),
        setFld (Page.trunk .PWR + R.PWR_INFO) 31 16 a.tdp, setFld (Page.trunk .CLK + R.CLK_LIMIT) 5 0 a.clock]]

/-- The sites whose numbers meet `p`, from the lowest. -/
def sitesOf (p : Nat → Bool) : List Nat := (List.range 64).filter p

/-- Sites promoted and made dormant by a licence of `tiles` tiles (R568). -/
def licChanges (s : State) (tiles : Nat) : List Nat × List Nat :=
  let en := sitesOf (fun x => phys s x = 0)
  let dm := sitesOf (fun x => phys s x = 1)
  let n := min tiles (en.length + dm.length)
  (dm.take (n - en.length), en.drop n)

/-- A dormant site becomes enabled, or an enabled one dormant; each change is journaled (R568, R602). -/
def setDormant (site : Nat) (d : Bool) : Upd := seqs [
  setBit64 dormantB site d, setBit64 enabledB site (!d), hwEntry 5 (Page.tile .TILE site + R.PG_STATE) (b2n d) (b2n (!d)) 1]

/-- The pending licence is verified again and becomes active, or is deleted (R566, R568). -/
def licActivate : Upd := read fun s =>
  onSome s.lic.pending fun p =>
    let why := licReason s p p.len
    let st := licB + R.LIC_STATE
    if why ≠ 0 then seqs [act (.lic { s.lic with pending := none }), licRegs,
      evt licR 3 0x0013 0 (payload [(24, 1, why), (25, 1, p.counter)])]
    else
      let c := licChanges s p.tiles
      seqs [act (.lic { active := some p, pending := none }), setFld st 23 16 (max p.counter (fld s st 23 16)),
        setFld (licB + R.LIC_ACTIVE1) 31 16 0, licRegs,
        read fun t => hwEntry 3 0x08008100 (rd s st) (rd t st) 1,
        evt licR 2 0x0012 0 (payload [(24, 1, p.counter), (25, 1, p.tiles), (26, 1, c.1.length), (27, 1, c.2.length), (28, 8, p.get 56 8)]),
        each c.1 (fun x => setDormant x false), each c.2 (fun x => setDormant x true)]

end Sys2Proof.Machine
end

