-- ==== Sys2Proof/Machine/BootRom.lean ====
section
/-! DEFINITION. Sys2Proof/Machine/BootRom.lean: the trunk from the seed ROM to the first tile wave (R542 to R547, R566 to
R569). -/
namespace Sys2Proof.Machine
open Sys2Proof

abbrev trkB : Nat := Page.trunk .TRK

/-- Chunks of eight. -/
def chunks8 : Nat → List Nat → List (List Nat)
  | 0, _ => []
  | n + 1, l => if l.isEmpty then [] else l.take 8 :: chunks8 n (l.drop 8)

/-- The image slot the seed ROM runs, 0 or 1: valid, its security version at or above the fused minimum, the higher version
first, and of equal versions the newer sequence (R545). -/
def bootSlot (s : State) : Option Nat :=
  let v (o : Nat) : Option (Nat × Nat) :=
    let x := rd s (fwuB + o)
    if bit x 31 && decide (bits x 23 16 ≥ fld s (fwuB + R.FWU_MIN_SVN) 7 0) then some (bits x 23 16, bits x 15 0) else none
  match v R.FWU_SLOTA, v R.FWU_SLOTB with
  | none, none => none
  | some _, none => some 0
  | none, some _ => some 1
  | some a, some b => if a.1 > b.1 then some 0 else if b.1 > a.1 then some 1 else if b.2 > a.2 then some 1 else some 0

/-- Tile waves begin: the enabled sites in waves of eight, retired sites with their root plates and bark domains on (R547). -/
def startWaves : Upd := read fun s =>
  let ws := chunks8 8 (enabledSites s)
  seqs [act (.boot { records := s.boot.records, waves := ws }),
    setReg (Page.trunk .BOOT + R.BOOT_STATUS) (2 * 2 ^ 28 + ws.length * 2 ^ 16),
    each (sitesOf (fun x => phys s x = 3)) (fun x => seqs [setFld (Page.tile .TPWR x + R.TPWR_DOM) 0 0 1,
      each [PType.RTR, .XPR, .TFLT, .LDG] (fun t => setState ⟨t, x⟩ stRUN)])]

/-- PERST_N and RESET_N are high and Xazara runs: the host interface leaves reset and the waves begin (R542 step 5, R543). -/
def leaveReset : Upd := read fun s =>
  when (s.pins.perstN && s.pins.resetN && decide (fld s (trkB + R.TRK_FW_STATE) 7 0 = 2)) (seqs [
    setState ⟨.HIF, 0⟩ stIDLE, setReg (Page.trunk .BOOT + R.BOOT_T_PERST) (s.now / 1000000), act (.flt { s.flt with frozen := false }), startWaves])

/-- A bough port leaves OFF or RESET only where the active licence includes it (R435, R568). -/
def licPorts : Upd := read fun s => each (List.range 8) (fun p =>
  let on := s.lic.active.isSome && bit (fld s (licB + R.LIC_ACTIVE0) 31 24) p
  setState ⟨.BGH, p⟩ (if on then stIDLE else stOFF))

/-- Trunk pages that leave RESET when Xazara runs. -/
def xazaraPages : List PType := [.TRK, .EVQ, .JNL, .DFLT, .PWR, .THM, .BOOT, .LIC, .FUS, .MGT, .CLK, .TIM, .FWU, .LDGD]

/-- LDGD reaches RUN after a chip reset: one RESET_SUMMARY for each ledger id, in ascending order (R654, R658). -/
def resetSummary : Upd := read fun s => seqs [
  each s.ldgLast.todo (fun e =>
    let f (i : Nat) : Nat := e.2.getD i 0
    evt ⟨.LDGD, 0⟩ 2 0x0212 0 (payload [(24, 1, e.1), (25, 1, f 0), (26, 2, f 1), (28, 4, f 2), (32, 4, f 3), (36, 4, f 4), (40, 4, f 5),
      (44, 2, fld s (trkB + R.TRK_RESET_CAUSE) 31 16)])),
  act (.ldgLast { s.ldgLast with todo := [] })]

/-- The seed ROM runs: an image that verifies starts Xazara, which activates a pending licence and takes the enabled sites
from the fuses; with none the LQ1 gives recovery service (R545, R546, R566, R569). -/
def bootRom : Upd := read fun s =>
  let bt := Page.trunk .BOOT
  let fw := trkB + R.TRK_FW_STATE
  match bootSlot s with
  | none => seqs [setFld fw 7 0 3, setReg (bt + R.BOOT_STATUS) (5 * 2 ^ 28),
      each [PType.TRK, .BOOT, .LIC, .FWU] (fun t => setState ⟨t, 0⟩ stRUN), raise0 ⟨.BOOT, 0⟩ 0 0]
  | some slot => seqs [
      setFld fw 7 0 2, setReg (bt + R.BOOT_T_VERIFY) (s.now / 1000000),
      setFld (fwuB + R.FWU_RUNNING) 0 0 slot, setFld (fwuB + R.FWU_RUNNING) 31 24 (fld s (fwuB + (if slot = 0 then R.FWU_SLOTA else R.FWU_SLOTB)) 23 16),
      each xazaraPages (fun t => read fun u => when (decide (pgState u ⟨t, 0⟩ = stRESET)) (setState ⟨t, 0⟩ (idleOf t))),
      setReg (bt + R.BOOT_STATUS) (1 * 2 ^ 28), resetSummary,
      each [0, 1] (fun n => when (fld s (fwuB + (if n = 0 then R.FWU_SLOTA else R.FWU_SLOTB)) 31 31 = 0) (evt fwuR 1 0x0901 0 (payload [(24, 1, n), (25, 1, 1)]))),
      licActivate, licRegs, licPorts,
      read fun u => each (List.range 64) (fun x => setBit64 enabledB x (decide (phys u x = 0) && u.lic.active.isSome)),
      read fun u => when u.lic.active.isNone (raise0 licR 1 0),
      leaveReset]

end Sys2Proof.Machine
end

