-- ==== Sys2Proof/Machine/Fault.lean ====
section
/-! DEFINITION. Sys2Proof/Machine/Fault.lean: raising a fault source in service (R637), and dead accesses (R272). -/
namespace Sys2Proof.Machine
open Sys2Proof

/-- Raise source `n` of a page, caused by a write of origin `org` (0: by none). -/
def raise (r : Page.Ref) (n org : Nat) : Upd := raiseW holdFull trapOver bootRom fwStart r n org
/-- An access to a dead DPA (R272). -/
def deadDpa (d org : Nat) (isRead : Bool) : Upd := deadAccess holdFull d org isRead

end Sys2Proof.Machine
end

