-- ==== Sys2Proof/Machine/Leaf.lean ====
section
/-! DEFINITION. Sys2Proof/Machine/Leaf.lean: the leaf store: cache lines, hints, fills and eviction, scratch and its
poison marks (R109 to R116, R710). -/
namespace Sys2Proof.Machine
open Sys2Proof

/-- Replace a core's leaf store. -/
def setLeaf (g : Nat) (l : Leaf) : Upd := act (.leaf g l)
/-- Offset of a CORE register. -/
abbrev coreB (g : Nat) : Nat := Page.core .CORE g

/-! ## Hints (R93) -/

/-- STREAM, KEEP and LASTUSE n. -/
def hintKeep (h : Nat) : Bool := h = 1
/-- LASTUSE's n, 0 for another hint. -/
def hintUse (h : Nat) : Nat := if h > 16 ∧ h < 32 then h - 16 else 0
/-- The legal hint codes. -/
def hintOk (h : Nat) : Bool := h = 0 || h = 1 || (h > 16 && h < 32)

/-! ## Lines -/

/-- A line of the cache. -/
def Leaf.line (l : Leaf) (a : Nat) : Option Line := l.lines.find? (·.addr = a)
/-- Without line `a`. -/
def Leaf.drop (l : Leaf) (a : Nat) : Leaf := { l with lines := l.lines.filter (·.addr ≠ a) }
/-- Put a line in, most recently used. -/
def Leaf.front (l : Leaf) (x : Line) : Leaf := { l with lines := x :: l.lines.filter (·.addr ≠ x.addr) }
/-- A fill in flight. -/
def Leaf.fill (l : Leaf) (a : Nat) : Option Fill := l.fills.find? (·.addr = a)
/-- Replace the fill of a line. -/
def Leaf.setFill (l : Leaf) (f : Fill) : Leaf := { l with fills := l.fills.filter (·.addr ≠ f.addr) ++ [f] }

/-- How a read uses a line: what is read with a hint, a prefetch, or an instruction fetch (R113, R710). -/
inductive Use where
  | load | pref | fetch | ahead
deriving DecidableEq, Repr

/-- The state a hit leaves a line in, `none` for FREE (R113, R710); `over`: one more PINNED line would pass the limit. -/
def hitState (u : Use) (h : Nat) (past : Bool) (st : LState) : Option LState :=
  match u, st with
  | .fetch, st => some st
  | .ahead, st => some st
  | _, .pinned => some .pinned
  | u, .plain =>
    if hintKeep h then some (if past then .plain else .pinned)
    else match hintUse h, u with
      | 0, _ => some .plain
      | n, .pref => some (.counted n)
      | n, _ => if n = 1 then none else some (.counted (n - 1))
  | u, .counted m =>
    if hintKeep h then some (if past then .plain else .pinned)
    else if u = .pref then some (.counted m)
    else if m ≤ 1 then none else some (.counted (m - 1))

/-- The state a miss allocates, `none` for no allocation (R113, R121, R710). -/
def missState (u : Use) (h : Nat) (past : Bool) : Option LState :=
  match u with
  | .fetch => some .plain
  | .ahead => some .plain
  | u =>
    if hintKeep h then some (if past then .plain else .pinned)
    else match hintUse h, u with
      | 0, _ => none
      | n, .pref => some (.counted n)
      | n, _ => if n = 1 then none else some (.counted (n - 1))

/-- Would one more PINNED line exceed half the cache? (R114) -/
def pinFull (s : State) (g : Nat) : Bool := decide (pinnedLines (leafOf s g) + 1 > cacheLines s g / 2)
/-- Is the KEEP access refused its pin? -/
def keepRefused (u : Use) (h : Nat) (past : Bool) (st : Option LState) : Bool :=
  (u = .load || u = .pref) && hintKeep h && past && st ≠ some .pinned

/-- A read of line `a` acts on the cache: a hit changes the line, a miss begins a fill or joins one (R113). -/
def touchLine (g a : Nat) (u : Use) (h : Nat) : Upd := read fun s =>
  let l := leafOf s g
  let past := pinFull s g
  let demand := u = .load
  match l.line a with
  | some x =>
    seqs [when demand (bump (coreB g + R.CORE_CNT_LEAF_HIT) 1),
      when (keepRefused u h past (some x.st)) (bump (coreB g + R.CORE_CNT_KEEP_REFUSED) 1),
      setLeaf g (match hitState u h past x.st with
        | none => l.drop a
        | some st => l.front { x with st := st })]
  | none =>
    let f : Fill := match l.fill a with
      | some f => { f with st := match f.st with | some st => hitState u h past st | none => missState u h past }
      | none => { addr := a, st := missState u h past }
    seqs [when demand (bump (coreB g + R.CORE_CNT_LEAF_MISS) 1),
      when (keepRefused u h past none) (bump (coreB g + R.CORE_CNT_KEEP_REFUSED) 1),
      when (f.st.isSome || (l.fill a).isSome) (setLeaf g (l.setFill f))]

/-- The line to evict: the least recently used PLAIN line, else the least recently used COUNTED one (R115). -/
def victim (l : Leaf) : Option Line :=
  match l.lines.reverse.find? (fun x => x.st = .plain) with
  | some x => some x
  | none => l.lines.reverse.find? (fun x => match x.st with | .counted _ => true | _ => false)

/-- Allocate a line, evicting if the cache is full (R115). -/
def allocLine (g : Nat) (x : Line) : Upd := read fun s =>
  let l := leafOf s g
  if l.lines.length < cacheLines s g then setLeaf g (l.front x)
  else match victim l with
    | some v => setLeaf g ((l.drop v.addr).front x)
    | none => bump (coreB g + R.CORE_CNT_NOALLOC) 1

/-- Replace `bs.length` bytes at byte `o` of a 256-byte line held as a number. -/
def patch (data o : Nat) (bs : List Byte) : Nat :=
  match bs with
  | [] => data
  | b :: r => patch (setBits data (8 * o + 7) (8 * o) b.toNat) (o + 1) r

/-- The 64-bit words of the codewords that `n` bytes at line offset `o` touch. -/
def cwWords (o n : Nat) : List Nat := (cwsOf o n).flatMap (fun c => [4 * c, 4 * c + 1, 4 * c + 2, 4 * c + 3])

/-- What a store of `bs` at line offset `o` leaves of a line: its bytes, or poison marks (R112). A whole codeword of valid
data replaces its marks; a partial write leaves them. -/
def Line.store (x : Line) (o : Nat) (bs : List Byte) (pz : Bool) : Line :=
  if pz then { x with pz := (x.pz ++ cwWords o bs.length).eraseDups }
  else
    let whole := (cwsOf o bs.length).filter (fun c => o ≤ 32 * c && 32 * c + 32 ≤ o + bs.length)
    { x with data := patch x.data o bs, pz := x.pz.filter (fun w => !whole.contains (w / 4)) }

/-- The lines that `n` bytes at `d` touch. -/
def linesOf (d n : Nat) : List Nat := if n = 0 then [] else (List.range ((d + n - 1) / 256 - d / 256 + 1)).map (· + d / 256)

/-- The part of a store that falls in line `a`: offset in the line, bytes. -/
def linePart (d : Nat) (bs : List Byte) (a : Nat) : Nat × List Byte :=
  let lo := max d (a * 256)
  let hi := min (d + bs.length) (a * 256 + 256)
  (lo - a * 256, (bs.drop (lo - d)).take (hi - lo))

/-- A store to device memory updates present lines and joins fills in flight; it allocates nothing (R112). -/
def storeThrough (g d : Nat) (bs : List Byte) (pz : Bool) : Upd :=
  each (linesOf d bs.length) (fun a => read fun s =>
    let l := leafOf s g
    let p := linePart d bs a
    match l.line a with
    | some x => setLeaf g { l with lines := l.lines.map (fun y => if y.addr = a then x.store p.1 p.2 pz else y) }
    | none => match l.fill a with
      | some f => setLeaf g { l with fills := l.fills.map (fun y => if y.addr = a then { f with stores := f.stores ++ [(p.1, p.2, pz)] } else y) }
      | none => skip)

/-- Does any 64-bit word of `n` bytes at line offset `o` hold the mark? -/
def Line.poisoned (x : Line) (o n : Nat) : Bool := x.pz.any (fun w => o / 8 ≤ w && w ≤ (o + n - 1) / 8)

/-- A fill arrives: the line as the slice holds it, with the stores merged; it is dropped if it was marked, if it serves
no line, or if the slice returned poison (R112, R116, R710). -/
def fillArrive (g a : Nat) : Upd := read fun s =>
  let l := leafOf s g
  match l.fill a with
  | none => skip
  | some f =>
    let m := memRead s (a * 256) 256
    let l' := { l with fills := l.fills.filter (·.addr ≠ a) }
    seqs [setLeaf g l',
      match f.st with
      | none => skip
      | some st => when (!f.discard && !m.2) (allocLine g
          (f.stores.foldl (fun x (st : Nat × List Byte × Bool) => x.store st.1 st.2.1 st.2.2) { addr := a, st := st, data := m.1 }))]

/-- UNPIN of a range (R114). -/
def unpinRange (g d n : Nat) : Upd := read fun s =>
  let l := leafOf s g
  let ls := linesOf d n
  setLeaf g { l with lines := l.lines.map (fun x => if ls.contains x.addr && x.st = .pinned then { x with st := .plain } else x) }

/-- CINV of a range (R116). -/
def cinvRange (g d n : Nat) : Upd := read fun s =>
  let l := leafOf s g
  let ls := linesOf d n
  setLeaf g { l with lines := l.lines.filter (fun x => !ls.contains x.addr || x.st = .pinned),
                     fills := l.fills.map (fun f => if ls.contains f.addr then { f with discard := true } else f) }

/-- The whole cache is invalidated, pinned lines included; fills in flight are discarded on arrival. -/
def flushLeaf (g : Nat) : Upd := read fun s =>
  let l := leafOf s g
  setLeaf g { l with lines := [], fills := l.fills.map (fun f => { f with discard := true }) }

/-! ## Scratch (R109 to R111) -/

/-- Bytes of scratch. -/
def scratchBytes (l : Leaf) (o n : Nat) : List Byte := (List.range n).map (fun i => SMap.get 0 (o + i) l.scratch)
/-- A value in scratch. -/
def scratchNum (l : Leaf) (o n : Nat) : Nat := ofBytes (scratchBytes l o n)
/-- The 64-bit words that `n` bytes at `o` touch. -/
def wordsOf (o n : Nat) : List Nat := if n = 0 then [] else (List.range ((o + n - 1) / 8 - o / 8 + 1)).map (· + o / 8)
/-- Is any of them poison? -/
def scratchPoisoned (l : Leaf) (o n : Nat) : Bool := (wordsOf o n).any (l.scratchPz.contains ·)

/-- Put bytes into scratch. -/
def Leaf.place (l : Leaf) (o : Nat) : List Byte → Leaf
  | [] => l
  | b :: bs => Leaf.place { l with scratch := SMap.set 0 o b l.scratch } (o + 1) bs

/-- Write one 64-bit word's share of a store: a whole word replaces its mark, a part of a poisoned word leaves it (R111). -/
def Leaf.wordStore (l : Leaf) (o : Nat) (bs : List Byte) (w : Nat) : Leaf :=
  let lo := max o (8 * w)
  let hi := min (o + bs.length) (8 * w + 8)
  let part := (bs.drop (lo - o)).take (hi - lo)
  if part.length = 8 then Leaf.place { l with scratchPz := l.scratchPz.filter (· ≠ w) } lo part
  else if l.scratchPz.contains w then l else l.place lo part

/-- Write bytes to scratch. -/
def Leaf.scratchStore (l : Leaf) (o : Nat) (bs : List Byte) : Leaf :=
  (wordsOf o bs.length).foldl (fun l w => l.wordStore o bs w) l

/-- Write the poison pattern into the words that a range touches: data 0 and the mark (R119, R584). -/
def Leaf.scratchPoison (l : Leaf) (o n : Nat) : Leaf :=
  (wordsOf o n).foldl (fun l w => { Leaf.place l (8 * w) (List.replicate 8 0) with
    scratchPz := if l.scratchPz.contains w then l.scratchPz else l.scratchPz ++ [w] }) l

/-- Write scratch of a core. -/
def scratchWrite (g o : Nat) (bs : List Byte) (pz : Bool) : Upd := read fun s =>
  let l := leafOf s g
  setLeaf g (if pz then l.scratchPoison o bs.length else l.scratchStore o bs)

/-- A change of CORE_LEAF_SPLIT: the cache is invalidated, and scratch beyond the smaller size becomes 0 (R110). -/
def splitLeaf (g oldSteps newSteps : Nat) : Upd := read fun s =>
  let l := leafOf s g
  let keep := (12 - max oldSteps newSteps) * 131072
  seqs [setLeaf g { l with lines := [], fills := l.fills.map (fun f => { f with discard := true }),
                           scratch := SMap.dropIf (fun o => decide (keep ≤ o)) l.scratch,
                           scratchPz := l.scratchPz.filter (fun w => decide (8 * w < keep)) }]

end Sys2Proof.Machine
end

