-- ==== Sys2Proof/Machine/Thread.lean ====
section
/-! DEFINITION. Sys2Proof/Machine/Thread.lean: what happens to threads: registers and poison, waking, errors, tokens, and
the commands of the CORE page (R80 to R84, R101, R125 to R128). -/
namespace Sys2Proof.Machine
open Sys2Proof

/-! ## Errors (R82 to R84, R128) -/

/-- Is the fault source of the CORE page enabled? -/
def coreSrcOn (s : State) (g n : Nat) : Bool := bit (rd s (coreB g + R.PG_FLT_EN)) n

/-- A thread's own error: THR_FINFO; T_FAULT where the source is not enabled; the source is raised (R82, R84, R128). -/
def thrFault (g th n detail : Nat) : Upd := read fun s =>
  let t := thr s g th
  let t1 := { t with finfoSrc := n, finfoDetail := detail % 2 ^ 24, ra := none }
  seqs [setThr g th (if coreSrcOn s g n then t1 else { t1.goto tFAULT with wait := .none }), raise ⟨.CORE, g⟩ n 0]

/-- A CORE source raised with no thread: CORE_DESC_FINFO names the descriptor (R128). -/
def descFault (g ring seq n : Nat) : Upd :=
  seqs [setReg (coreB g + R.CORE_DESC_FINFO) (n * 2 ^ 24 + ring % 4 * 2 ^ 16 + seq % 2 ^ 16), raise ⟨.CORE, g⟩ n 0]

/-! ## Tokens (R101, R102) -/

/-- A token counter. -/
def tok (s : State) (g k : Nat) : Nat := fld s (coreB g + R.CORE_TOK k) 15 0
/-- Set a token counter. -/
def setTok (g k v : Nat) : Upd := setReg (coreB g + R.CORE_TOK k) v

/-- Serve the threads waiting on a token, in the order they began to wait, until one's count is not there (R101). -/
def serveTok (g k : Nat) : Nat → Upd
  | 0 => skip
  | fuel + 1 => read fun s =>
    match SMap.get [] (thrKey g k) s.tokq with
    | [] => skip
    | th :: q =>
      let t := thr s g th
      match t.wait with
      | .tok _ n =>
        when (tok s g k ≥ n) (seqs [setTok g k (tok s g k - n), act (.tokq (thrKey g k) q), setThr g th t.ready.next, serveTok g k fuel])
      | _ => seqs [act (.tokq (thrKey g k) q), serveTok g k fuel]

/-- Would `n` more carry the counter above 65,535? -/
def tokOver (s : State) (g k n : Nat) : Bool := tok s g k + n > 65535
/-- Add to a token and serve its waiters. -/
def addTok (g k n : Nat) : Upd := seqs [read fun s => setTok g k (tok s g k + n), serveTok g k 65]

/-- Does the core take signals: its CORE page in IDLE, RUN, DRAIN, HALT or FAULT and reachable (R102). -/
def takesSignal (s : State) (g : Nat) : Bool :=
  let st := pgState s ⟨.CORE, g⟩
  siteEnabled s (g / 64) && !clockLost s ⟨.CORE, g⟩ && (st = stIDLE || st = stRUN || st = stDRAIN || st = stHALT || st = stFAULT)

/-- Count tokens of a signalling core: 0 signalled, 1 delivered, 2 undelivered, 4 adjustments (R651). -/
def tokLed (g t n : Nat) : Upd := ledAdd 0x07 (g / 64) (g % 64) t n
/-- Count the core's remote requests (R651). -/
def reqLed (g t n : Nat) : Upd := ledAdd 0x0A (g / 64) (g % 64) t n

/-! ## Barriers (R99) -/

/-- Threads of a core waiting at a barrier. -/
def atBarrier (s : State) (g k : Nat) : List (Nat × Thread) :=
  (coreThreads s g).filter (fun e => match e.2.wait with | .bar o _ => o = k | _ => false)
/-- The count they wait for. -/
def barCount (e : Nat × Thread) : Nat := match e.2.wait with | .bar _ n => n | _ => 0

/-! ## The CORE page's own writes and commands -/

/-- A write of RING_PROD that would overfill the ring or move backwards is out of range (R125). -/
def ringProdOk (s : State) (g n v : Nat) : Bool :=
  let cons := rd s (coreB g + R.RING_CONS n)
  let d (x : Nat) := (x + 2 ^ 32 - cons) % 2 ^ 32
  decide (d v ≤ 2 ^ fld s (coreB g + R.RING_SIZE n) 4 0) && decide (d (rd s (coreB g + R.RING_PROD n)) ≤ d v)

/-- Squash run-ahead in every thread of a core (R120, R123). -/
def squashAll (g : Nat) : Upd := read fun s =>
  each (coreThreads s g) (fun e => when e.2.ra.isSome (setThr g e.1 { e.2 with ra := none }))

/-- What a write to a CORE register does beside changing it (R101, R110, R120). -/
def coreHook (g o old new : Nat) : Upd :=
  if o = R.CORE_LEAF_SPLIT then splitLeaf g (old % 16) (new % 16)
  else if o = R.CORE_RUNAHEAD then when (new % 2 = 0) (squashAll g)
  else if 0x200 ≤ o ∧ o < 0x300 then tokLed g 4 ((new % 2 ^ 16 + 2 ^ 32 - old % 2 ^ 16) % 2 ^ 32)
  else skip

/-- Is every thread's slot of the core empty? -/
def slotsEmpty (s : State) (g : Nat) : Bool := (coreThreads s g).all (fun e => e.2.slots.isEmpty)

/-- RESUME: every stopped thread takes its kept state (R83). -/
def resumeThreads (g : Nat) : Upd := read fun s =>
  each (coreThreads s g) (fun e => when (e.2.state = tSTOPPED)
    (setThr g e.1 (if e.2.kept = tFREE then e.2.freed else { e.2 with state := e.2.kept, kept := 0 })))

/-- A thread freed by KILL_THREAD: its descriptor completes with status 2 (R402). -/
def killThread (g th : Nat) : Upd := read fun s =>
  let x := streamOf s g
  seqs [setThr g th (thr s g th).freed,
    act (.stream g { x with running := x.running.map (fun r => if r.threads.contains th then { r with killed := true } else r) })]

/-- CORE_CNT_* and CORE_DESC_FINFO cleared (R126). -/
def coreClear (r : Page.Ref) : Upd :=
  seqs [zeroRegs r (regRun R.CORE_CNT_LEAF_HIT 7), resetRegs [Page.base r + R.CORE_DESC_FINFO]]

end Sys2Proof.Machine
end

