-- ==== Sys2Proof/Machine/EngMem.lean ====
section
/-! DEFINITION. Sys2Proof/Machine/EngMem.lean: how the engines of a core read and write memory (R96, R112, R113, R118, R144,
R187). -/
namespace Sys2Proof.Machine
open Sys2Proof

/-- The origin of a core's accesses (R96). -/
def coreOrigin (g : Nat) : Origin := { cls := 3, inst := g }
/-- Its 16-bit code. -/
def coreOrg (g : Nat) : Nat := orgWord (coreOrigin g)

/-! ## Memory (R94, R113, R144) -/

/-- The lines of a range that the leaf cache holds. -/
def engHits (s : State) (g ea n : Nat) : List Line := if eaSpace ea = 0 then (linesOf ea n).filterMap (leafOf s g).line else []
/-- A hit changes its line as a STREAM read does; a miss allocates nothing (R144, R187). -/
def engTouch (g ea n : Nat) : Upd :=
  each (if eaSpace ea = 0 then linesOf ea n else []) (fun a => read fun s =>
    let l := leafOf s g
    onSome (l.line a) fun x => setLeaf g (match hitState .load 0 false x.st with
      | none => l.drop a
      | some st => l.front { x with st := st }))

/-- Device memory through lines that hit: the bytes as a number, and whether any of them is poison. -/
def devNum (s : State) (hits : List Line) (d n : Nat) : Nat × Bool :=
  (linesOf d n).foldl (fun r a =>
    let lo := max d (a * 256)
    let hi := min (d + n) (a * 256 + 256)
    let p := match hits.find? (·.addr = a) with
      | some x => (bits x.data (8 * (hi - a * 256) - 1) (8 * (lo - a * 256)), x.poisoned (lo - a * 256) (hi - lo))
      | none => memRead s lo (hi - lo)
    (r.1 + p.1 * 256 ^ (lo - d), r.2 || p.2)) (0, false)

/-- `n` bytes at `ea` as an engine reads them. -/
def engNum (s : State) (g : Nat) (hits : List Line) (ea n : Nat) : Nat × Bool :=
  if n = 0 then (0, false)
  else if eaSpace ea = 1 then
    (if scratchPoisoned (leafOf s g) (eaAddr ea) n then (0, true) else (scratchNum (leafOf s g) (eaAddr ea) n, false))
  else devNum s hits ea n

/-- Must a read of the range be sent again (R118)? -/
def engRetries (s : State) (ea n : Nat) : Bool := eaSpace ea = 0 && reachRange s ea (max n 1) = .retry

/-- Write bytes for an engine of core `g`. The leaf cache is not updated: only ST, COPY and FILL update it (R112). -/
def engWrite (g ea : Nat) (bs : List Byte) : Upd := read fun s =>
  if eaSpace ea = 1 then scratchWrite g (eaAddr ea) bs false
  else if reachRange s ea bs.length = .dead then deadDpa ea (coreOrg g) false
  else memWrite ea bs
/-- Write the poison pattern over a range. -/
def engPoison (g ea n : Nat) : Upd := read fun s =>
  if eaSpace ea = 1 then scratchWrite g (eaAddr ea) (List.replicate n 0) true
  else if reachRange s ea n = .dead then deadDpa ea (coreOrg g) false
  else memPoison ea n
/-- A read that met a dead DPA is reported (R271, R272). -/
def engDead (g ea n : Nat) : Upd := read fun s =>
  when (eaSpace ea = 0 && decide (reachRange s ea (max n 1) = .dead)) (deadDpa ea (coreOrg g) true)


/-! ## Results (R83, R119, R257) -/

/-- It completes with an error of its thread at its own PC. -/
def engError (g : Nat) (o : EOp) (n detail : Nat) (pz : Bool) : Upd := read fun s =>
  let t := thr s g o.th
  when (t.state ≠ tFREE && t.own = o.own) (seqs [setThr g o.th (t.erred o.pc), engResult g o 0 pz, thrFault g o.th n detail])

end Sys2Proof.Machine
end

