-- ==== Sys2Proof/Machine/DspCtl.lean ====
section
/-! DEFINITION. Sys2Proof/Machine/DspCtl.lean: the dispatch unit: rounds and their end, DOPEN, DLOGIT, DSKIP and BMSCAN in the
core's port, and expert prefetch (R234 to R260). -/
namespace Sys2Proof.Machine
open Sys2Proof

/-- A site's DSP page as a place. -/
abbrev dspR (site : Nat) : Page.Ref := ⟨.DSP, site⟩
abbrev dPoison : Nat := 0
abbrev dCfg : Nat := 1
abbrev dSeq : Nat := 2
abbrev dDma : Nat := 3
abbrev dLost : Nat := 4
abbrev dRet : Nat := 5

/-- Replace a round. -/
def setRound (site : Nat) (r : Round) : Upd := read fun s =>
  let x := dspOf s site
  setDsp site { x with rounds := x.rounds.map (fun y => if y.handle = r.handle then r else y) }

/-- A dispatch unit adds to a token; above 65,535 the counter keeps its value and the target core's source is raised. -/
def unitSignal (g k n : Nat) : Upd := read fun s =>
  if tokOver s g k n then raise ⟨.CORE, g⟩ cTokOvf 0 else addTok g k n

/-- Bytes of an element of a result or output row. -/
def esz (f : Nat) : Nat := if f = 1 then 2 else 4
/-- Placed choices of an expert, in slot order. -/
def Round.of (r : Round) (e : Nat) : List Choice := r.choices.filter (·.exp = e)
/-- Is token `t` skipped? -/
def Round.skips (r : Round) (t : Nat) : Bool := bit r.skip t
/-- Is token `t` poisoned? -/
def Round.bad (r : Round) (t : Nat) : Bool := SMap.find t r.logits = some none

/-- Release the pins of a round that meet `p`, by unpin requests (R246, R256). -/
def sendUnpins (site : Nat) (squash : Bool) (p : DPin → Bool) : Upd := read fun s =>
  let x := dspOf s site
  setDsp site { x with pins := x.pins.map (fun y => if p y && y.unpin.isNone then { y with unpin := some squash } else y) }

/-- The round ends: done signal, pins, history, the handle freed (R246, R254). -/
def endRound (site : Nat) (r : Round) : Upd := seqs [
  read fun s => when (takesSignal s r.doneCore) (unitSignal r.doneCore r.doneTok 1),
  sendUnpins site false (fun p => p.handle = r.handle && p.seq = r.seq),
  read fun s =>
    let x := dspOf s site
    let counts := ((List.range r.experts.length).map (fun e => (e, (r.of e).length))).filter (fun c => c.2 ≠ 0)
    seqs [setDsp site { x with
        rounds := x.rounds.filter (·.handle ≠ r.handle),
        hist := if r.state = 2 then x.hist.map (fun h => if h.1 = r.layer then (h.1, counts) else h) else x.hist },
      roundRegs site r]]

/-- Address of token `t`'s output row. -/
def Round.out (r : Round) (t : Nat) : Nat := (r.oBase + t * r.oPitch) % 2 ^ 41
/-- Write device memory for the dispatch unit; a dead target discards it. -/
def dspWrite (d : Nat) (bs : List Byte) : Upd := read fun s =>
  if reachRange s d bs.length = .dead then deadDpa d 0 false else memWrite d bs
/-- Write poison for it. -/
def dspPoison (d n : Nat) : Upd := read fun s =>
  if reachRange s d n = .dead then deadDpa d 0 false else memPoison d n

/-- A round aborts: poison in every row not written, its choices in flight abandoned, recorded, completed (R247). -/
def abortRound (site src : Nat) (r : Round) : Upd :=
  let n := r.inFlight
  let left := (List.range r.tokens).filter (fun t => !r.written.contains t)
  let b := dspB site
  seqs [each left (fun t => dspPoison (r.out t) (r.width * esz r.ofmt)),
    bump (b + R.DSP_CNT_IN) n, bump (b + R.DSP_CNT_ABANDONED) n, dspLed site 0x03 1 n, dspLed site 0x03 5 n,
    bump (b + R.DSP_CNT_ABORTS) 1, setReg (b + R.DSP_LAST_ABORT) (src % 256 * 2 ^ 24 + r.handle * 2 ^ 20 + r.layer),
    endRound site r,
    evt (dspR site) 1 0x0A01 0 (payload [(24, 1, r.handle), (25, 1, src), (26, 2, r.layer), (28, 4, n), (32, 2, left.length)])]

/-- Raise a DSP source; entry into FAULT aborts every round (R247, R261). -/
def dspFault (site n : Nat) : Upd := seqs [raise (dspR site) n 0,
  read fun s => when (pgState s (dspR site) = stFAULT) (each (dspOf s site).rounds (abortRound site n))]

/-- A round aborts on a source of its own. -/
def faultRound (site n : Nat) (r : Round) : Upd := seqs [abortRound site n r, dspFault site n]

/-! ## DOPEN (R235 to R238, R254) -/

/-- `n` bytes at byte `a` of a record. -/
def recF (r a n : Nat) : Nat := r / 256 ^ a % 256 ^ n
/-- An expert map entry. -/
def expertOf (e : Nat) : DExpert :=
  { home := recF e 0 2, cap := recF e 2 2, bias := recF e 4 4, inBase := recF e 8 8, retBase := recF e 16 8, pf := recF e 24 4,
    pfLines := recF e 28 2, tok := recF e 30 1, valid := bit (recF e 31 1) 0 }
/-- Is an address a DPA? -/
def isDpa (a : Nat) : Bool := decide (a < 2 ^ 41)
/-- Are the fields of a map entry within their values? -/
def expertOk (e : Nat) : Bool :=
  let x := expertOf e
  decide (recF e 31 1 < 2) && (!x.valid || (decide (x.home < 4096) && decide (1 ≤ x.cap ∧ x.cap ≤ 1024) && isDpa x.inBase && isDpa x.retBase
    && x.pf % 2 ^ 29 % 256 = 0 && decide (x.pfLines ≤ 1024) && decide (x.tok < 64)))
/-- Cores that an entry prefetches to. -/
def DExpert.pfCores (e : DExpert) : List Nat := (List.range (e.pf / 2 ^ 29 + 1)).map (· + e.home)
/-- Are the fields of a round record within their values? -/
def recordOk (r : Nat) : Bool :=
  let in_ (a n lo hi : Nat) : Bool := decide (lo ≤ recF r a n ∧ recF r a n ≤ hi)
  in_ 2 2 1 1024 && in_ 4 1 1 8 && decide (recF r 5 1 < 8) && decide (recF r 5 1 % 4 < 3) && in_ 6 1 0 15 && in_ 7 1 0 1 && in_ 8 2 1 256
    && in_ 10 2 0 4095 && in_ 12 1 0 63 && in_ 13 1 0 1 && in_ 14 1 0 1 && recF r 15 1 = 0
    && isDpa (recF r 16 8) && isDpa (recF r 24 8) && isDpa (recF r 32 8) && isDpa (recF r 40 8)
    && in_ 48 4 32 65536 && recF r 48 4 % 32 = 0 && recF r 52 4 % 32 = 0 && recF r 56 4 % 32 = 0
    && in_ 60 2 32 32768 && recF r 60 2 % 32 = 0 && recF r 62 2 = 0
/-- Are the fields of a skip record within their values? -/
def skipOk (k : Nat) : Bool := decide (1 ≤ recF k 4 2 ∧ recF k 4 2 ≤ 1024) && recF k 6 26 = 0
/-- The tokens a skip record skips in a layer (R252, R253). -/
def skipMask (k layer tokens : Nat) : Nat :=
  if recF k 0 2 ≤ layer ∧ layer ≤ recF k 2 2 then recF k 32 128 % 2 ^ min tokens (recF k 4 2) else 0
/-- How many bits of a mask are set below `n`. -/
def popBelow (m n : Nat) : Nat := ((List.range n).filter (bit m)).length

/-- Experts that an opening round predicts (R254). -/
def predict (s : State) (site layer : Nat) (es : List DExpert) : List Nat :=
  let c := rd s (dspB site + R.DSP_CTRL)
  if bit c 0 then []
  else
    let counts := ((dspOf s site).hist.lookup layer).getD []
    let usable := counts.filter (fun e => match es[e.1]? with | some x => x.valid && x.pfLines ≠ 0 | none => false)
    ((usable.foldr (fun e l => (l.takeWhile (fun y => y.2 > e.2)) ++ e :: l.dropWhile (fun y => y.2 > e.2)) []).map (·.1)).take (bits c 15 8)

/-- What a DOPEN finds: its status, and the round it opens. -/
def openRound (s : State) (site : Nat) (r m k : Nat) (pz : Bool) : Nat × Option Round :=
  let e := recF r 8 2
  let maps := (List.range e).map (fun i => recF m (32 * i) 32)
  let es := maps.map expertOf
  let valid := es.filter (·.valid)
  let tokens := recF r 2 2
  let skip := if recF r 40 8 = 0 then 0 else skipMask k (recF r 0 2) tokens
  let h := recF r 6 1
  if pz then (5, none)
  else if ((dspOf s site).round h).isSome then (1, none)
  else if !recordOk r || !maps.all expertOk || decide (recF r 4 1 > valid.length) || (recF r 40 8 ≠ 0 && !skipOk k) then (2, none)
  else if valid.any (fun x => !siteEnabled s (x.home / 64) || decide ((x.pfCores.getLastD 0) / 64 ≠ x.home / 64)) then (3, none)
  else if valid.foldl (fun n x => n + x.cap) 0 < (tokens - popBelow skip tokens) * recF r 4 1 then (4, none)
  else (0, some {
    handle := h, seq := (dspOf s site).seq + 1, layer := recF r 0 2, tokens := tokens, k := recF r 4 1, gate := recF r 5 1, experts := es,
    doneCore := recF r 10 2, doneTok := recF r 12 1, ofmt := recF r 13 1, rfmt := recF r 14 1, xBase := recF r 24 8, oBase := recF r 32 8,
    xBytes := recF r 48 4, xPitch := recF r 52 4, oPitch := recF r 56 4, width := recF r 60 2, skip := skip, time := s.now,
    predicted := if recF r 7 1 = 1 then predict s site (recF r 0 2) es else [] })

/-- The prefetch requests of an opening round (R255). -/
def roundPins (r : Round) : List DPin :=
  r.predicted.flatMap (fun e => match r.experts[e]? with
    | none => []
    | some x => x.pfCores.map (fun g => { handle := r.handle, seq := r.seq, exp := e, core := g,
                                          line := dpaOf g (x.pf % 2 ^ 29) / 256, n := x.pfLines }))

/-- A round opens. -/
def beginRound (site : Nat) (r : Round) : Upd := read fun s =>
  let x := dspOf s site
  let old := (x.hist.lookup r.layer).getD []
  seqs [setDsp site { x with rounds := x.rounds ++ [r], seq := r.seq, pins := x.pins ++ roundPins r,
                             hist := ((r.layer, old) :: x.hist.filter (·.1 ≠ r.layer)).take 32 },
    bump (dspB site + R.DSP_CNT_ROUNDS) 1, bump (dspB site + R.DSP_CNT_SKIPPED) (popBelow r.skip r.tokens)]

/-- What a DOPEN reads: record, map and skip record, with poison, or none while a tile answers RETRY_LATER. -/
def openReads (s : State) (g : Nat) (ea : Nat) : Option (Nat × Nat × Nat × Bool) :=
  if engRetries s ea 64 then none
  else
    let r := engNum s g [] ea 64
    let m := recF r.1 16 8
    let n := recF r.1 8 2 * 32
    let k := recF r.1 40 8
    if r.2 then some (0, 0, 0, true)
    else if !recordOk r.1 then some (r.1, 0, 0, false)
    else if engRetries s m n || (k ≠ 0 && engRetries s k 160) then none
    else
      let mm := engNum s g [] m n
      let kk := if k = 0 then (0, false) else engNum s g [] k 160
      some (r.1, mm.1, kk.1, mm.2 || kk.2)

/-- DOPEN at its dispatch unit; false while it must wait. -/
def doOpen (g : Nat) (o : EOp) : Upd := read fun s =>
  let site := g / 64
  if o.b ≠ 0 then seqs [engResult g o (freeVal s) false, act .drawn, dspFault site dSeq]
  else if !engEaOk s g o.a 64 1 then seqs [engResult g o 2 false, dspFault site dCfg]
  else onSome (openReads s g o.a) fun (r, m, k, pz) =>
    let (st, rnd) := openRound s site r m k pz
    seqs [onSome rnd (beginRound site), engResult g o st false, when (st ≠ 0) (dspFault site dCfg)]

/-! ## DLOGIT (R258, R259) -/

/-- The logits of row `i`: FP32 patterns, none if poisoned. -/
def logitRow (s : State) (g e : Nat) (o : EOp) (i : Nat) : Option (List Nat) :=
  let fmt := bits o.b 36 36
  let d := engNum s g [] ((o.a + i * bits o.b 35 20) % 2 ^ 64) (e * esz fmt)
  if d.2 then none
  else some ((List.range e).map (fun j => if fmt = 1 then d.1 / 2 ^ (16 * j) % 2 ^ 16 * 2 ^ 16 else d.1 / 2 ^ (32 * j) % 2 ^ 32))
/-- Is the logit word legal for the round? -/
def logitBad (b : Nat) (r : Round) : Bool :=
  let p := bits b 35 20
  bits b 63 44 ≠ 0 || bits b 39 37 ≠ 0 || r.state ≠ 1 || p % 4 ≠ 0 || decide (p < r.experts.length * esz (bits b 36 36))
    || decide (bits b 9 0 + bits b 19 10 + 1 > r.tokens)
    || ((List.range (bits b 19 10 + 1)).any (fun i => (SMap.find (bits b 9 0 + i) r.logits).isSome))

/-- Take one token's logits. -/
def takeLogits (g h : Nat) (o : EOp) (i : Nat) : Upd := read fun s =>
  let site := g / 64
  let t := bits o.b 9 0 + i
  onSome ((dspOf s site).round h) fun r =>
    let l := logitRow s g r.experts.length o i
    let nans := match l with | some l => (l.filter (fun v => (f32 v).isNan)).length | none => 0
    seqs [setRound site { r with logits := SMap.put t l r.logits, time := s.now },
      when (!r.skips t) (seqs [when (l.isNone) (dspFault site dPoison),
        when (nans > 0) (evt (dspR site) 3 0x0A03 0 (payload [(24, 1, h), (26, 2, t), (28, 2, nans)]))])]

/-- DLOGIT at its dispatch unit. -/
def doLogit (g : Nat) (o : EOp) : Upd := read fun s =>
  let site := g / 64
  let h := bits o.b 43 40
  let n := bits o.b 19 10 + 1
  match (dspOf s site).round h with
  | none => seqs [engDone g o, dspFault site dSeq]
  | some r =>
    let row (i : Nat) : Nat := (o.a + i * bits o.b 35 20) % 2 ^ 64
    let len := r.experts.length * esz (bits o.b 36 36)
    if logitBad o.b r || !(List.range n).all (fun i => engEaOk s g (row i) len 1) then seqs [engDone g o, dspFault site dSeq]
    else seqs [each (List.range n) (takeLogits g h o), engDone g o]
/-- Must a DLOGIT wait for a tile? -/
def logitWaits (s : State) (g : Nat) (o : EOp) : Bool :=
  match (dspOf s (g / 64)).round (bits o.b 43 40) with
  | none => false
  | some r => (List.range (bits o.b 19 10 + 1)).any (fun i =>
      engRetries s ((o.a + i * bits o.b 35 20) % 2 ^ 64) (r.experts.length * esz (bits o.b 36 36)))

/-! ## DSKIP and BMSCAN (R252, R260) -/

/-- DSKIP: a mask word, 0 outside the record's layers. -/
def doSkip (g : Nat) (o : EOp) : Upd := read fun s =>
  if bits o.b 63 32 ≠ 0 ∨ bits o.b 15 4 ≠ 0 then seqs [engResult g o (freeVal s) false, act .drawn, dspFault (g / 64) dSeq]
  else match (if eaSpace o.a ≤ 1 then eaFault s g o.a 160 1 else some cAddr) with
  | some n => engError g o n o.a false
  | none =>
    let k := engNum s g [] o.a 160
    let layer := bits o.b 31 16
    if k.2 then engError g o cPLoad o.a true
    else engResult g o (if recF k.1 0 2 ≤ layer ∧ layer ≤ recF k.1 2 2 then recF k.1 (32 + 8 * bits o.b 3 0) 8 else 0) false

/-- Where a BMSCAN stops at the latest. -/
def scanEnd (b : Nat) : Nat := max (bits b 31 0) (min (bits b 63 32) (bits b 31 0 + 65536))
/-- The bytes a BMSCAN reads: address and length. -/
def scanRange (o : EOp) : Nat × Nat :=
  let a := bits o.b 31 0 / 8
  ((o.a + a) % 2 ^ 64, if scanEnd o.b = bits o.b 31 0 then 0 else (scanEnd o.b + 7) / 8 - a)
/-- BMSCAN: the first set bit or where the scan stopped, and the set bits it passed before it: none, for it stops at the
first. -/
def doScan (g : Nat) (o : EOp) : Upd := read fun s =>
  let (ea, n) := scanRange o
  let start := bits o.b 31 0
  match (if n = 0 then none else if eaSpace ea ≤ 1 then eaFault s g ea n 1 else some cAddr) with
  | some f => engError g o f ea false
  | none =>
    let d := engNum s g [] ea n
    if d.2 then engError g o cPLoad ea true
    else engResult g o (((List.range (scanEnd o.b - start)).find? (fun i => bit d.1 (start % 8 + i))).map (· + start) |>.getD (scanEnd o.b)) false

/-! ## The port (R257, R261) -/

/-- May the dispatch unit take a forwarded instruction now? -/
def dspTakes (s : State) (site op : Nat) : Bool :=
  let st := pgState s (dspR site)
  !clockLost s (dspR site) && (st = stRUN || (st = stDRAIN && op = 0x81))
/-- Does the port accept an instruction: room for 8, and a dispatch unit that does not hold it? -/
def portRoom (s : State) (g op : Nat) : Bool :=
  let st := pgState s (dspR (g / 64))
  decide ((portOf s g).q.length < 8) && (op = 0x82 || op = 0x83 || op = 0x84 || st = stRUN || st = stHALT || (st = stDRAIN && op = 0x81))
/-- Threads waiting for the port look again. -/
def wakePort (g : Nat) : Upd := read fun s => wakeQueue g 4 (decide ((portOf s g).q.length < 8))

/-- Work off the port's queue from its head while something can be done. -/
def portAdvance (g : Nat) : Nat → Upd
  | 0 => skip
  | fuel + 1 => read fun s =>
    let x := portOf s g
    match x.q with
    | [] => skip
    | o :: q =>
      let pop (u : Upd) : Upd := seqs [setPort g { x with q := q }, u, wakePort g, portAdvance g fuel]
      match o.op with
      | 0x80 => when (dspTakes s (g / 64) 0x80 && (o.b ≠ 0 || !engEaOk s g o.a 64 1 || (openReads s g o.a).isSome)) (pop (doOpen g o))
      | 0x81 => when (dspTakes s (g / 64) 0x81 && !logitWaits s g o) (pop (doLogit g o))
      | 0x82 => seqs [setPort g { x with q := q, drets := x.drets ++ [o] }, wakePort g, portAdvance g fuel]
      | 0x83 => when (!engRetries s o.a 160) (pop (doSkip g o))
      | _ => when (!engRetries s (scanRange o).1 (scanRange o).2) (pop (doScan g o))
/-- Work off a port. -/
def portGo (g : Nat) : Upd := portAdvance g 9
/-- Work off the ports of a site. -/
def sitePorts (site : Nat) : Upd := each ((List.range 64).map (· + site * 64)) (fun g => read fun s =>
  when (!(portOf s g).q.isEmpty || (coreThreads s g).any (fun e => e.2.wait = .queue 4)) (seqs [wakePort g, portGo g]))

end Sys2Proof.Machine
end

