-- ==== Sys2Proof/Machine/Ecc.lean ====
section
/-! DEFINITION. Sys2Proof/Machine/Ecc.lean: the channel code RS(36,32), its decoder and the poison pattern (R580 to R583),
the wires of a symbol (R581), and CRC-32C. -/
namespace Sys2Proof

/-! ## GF(2^8) (R580) -/

/-- Times α in the field of x⁸ + x⁴ + x³ + x² + 1. -/
def gfDouble (a : Nat) : Nat := if a ≥ 128 then (2 * a) ^^^ 0x11D else 2 * a
/-- The product of two field elements, bit by bit of the second from its top. -/
def gfMulBits (a b : Nat) : Nat → Nat
  | 0 => 0
  | n + 1 => gfDouble (gfMulBits a (b / 2) n) ^^^ (if b % 2 = 1 then a else 0)
/-- The product of two field elements. -/
def gfMul (a b : Nat) : Nat := gfMulBits a b 8
/-- α to a power. -/
def gfAlpha : Nat → Nat
  | 0 => 1
  | n + 1 => gfDouble (gfAlpha n)
/-- The inverse: the 254th power; of 0, 0. -/
def gfInv (a : Nat) : Nat :=
  let a2 := gfMul a a
  let a4 := gfMul a2 a2
  let a8 := gfMul a4 a4
  let a16 := gfMul a8 a8
  let a32 := gfMul a16 a16
  let a64 := gfMul a32 a32
  let a128 := gfMul a64 a64
  gfMul (gfMul (gfMul a2 a4) (gfMul a8 a16)) (gfMul (gfMul a32 a64) a128)

/-! ## Encoding (R580) -/

/-- One step of the division by g(x) = x⁴ + 0x0F x³ + 0x36 x² + 0x78 x + 0x40: the remainder's four bytes, highest first. -/
def rsStep (r : Nat × Nat × Nat × Nat) (d : Nat) : Nat × Nat × Nat × Nat :=
  let f := r.1 ^^^ d
  (r.2.1 ^^^ gfMul f 0x0F, r.2.2.1 ^^^ gfMul f 0x36, r.2.2.2 ^^^ gfMul f 0x78, gfMul f 0x40)
/-- The four check bytes of 32 data bytes. -/
def rsCheck (d : List Nat) : Nat × Nat × Nat × Nat := d.foldl rsStep (0, 0, 0, 0)

/-! ## Decoding (R582, R583) -/

/-- A word as its difference from a codeword: symbol number and flipped bits. -/
abbrev Flips := List (Nat × Nat)

/-- Syndrome `j` of the flips: symbol `i` is the coefficient of x^(35 − i). -/
def syndrome (e : Flips) (j : Nat) : Nat := e.foldl (fun s x => s ^^^ gfMul (x.2 % 256) (gfAlpha ((35 - x.1 % 36) * j))) 0
/-- The four syndromes. -/
def syndromes (e : Flips) : List Nat := (List.range 4).map (syndrome e)

/-- What a decoder finds. -/
inductive Decoded where
  | clean
  | corrected (flips : Flips)
  | poison
  | uncorrectable
deriving DecidableEq, Repr

/-- The one symbol whose flip gives these syndromes, if there is one. -/
def oneSymbol (s : List Nat) : Option (Nat × Nat) :=
  match s with
  | [s0, s1, s2, s3] =>
    ((List.range 36).find? (fun i =>
      let x := gfAlpha (35 - i)
      s0 ≠ 0 && decide (s1 = gfMul s0 x) && decide (s2 = gfMul s1 x) && decide (s3 = gfMul s2 x))).map (fun i => (i, s0))
  | _ => none

/-- The two symbols whose flips give these syndromes, if there are two. -/
def twoSymbols (s : List Nat) : Option Flips :=
  match s with
  | [s0, s1, s2, s3] =>
    let det := gfMul s0 s2 ^^^ gfMul s1 s1
    if det = 0 then none
    else
      let inv := gfInv det
      let a := gfMul inv (gfMul s0 s3 ^^^ gfMul s1 s2)
      let b := gfMul inv (gfMul s1 s3 ^^^ gfMul s2 s2)
      match (List.range 36).filter (fun i => let x := gfAlpha (35 - i); gfMul x x ^^^ gfMul a x ^^^ b = 0) with
      | [i, j] =>
        let xi := gfAlpha (35 - i)
        let xj := gfAlpha (35 - j)
        let ei := gfMul (s1 ^^^ gfMul s0 xj) (gfInv (xi ^^^ xj))
        some [(i, ei), (j, s0 ^^^ ei)]
      | _ => none
  | _ => none

/-- The check bytes of the poison pattern, symbols 32 to 35 (R583). -/
def poisonFlips : Flips := [(32, 0x5A), (33, 0xA5), (34, 0x3C), (35, 0xC3)]

/-- Decode a word by its flips from a codeword: within one symbol of a poison word it is poison; within two of a codeword it
is corrected; every other word is uncorrectable (R582, R583). -/
def decodeFlips (e : Flips) : Decoded :=
  let s := syndromes e
  let p := syndromes (e ++ poisonFlips)
  if p = [0, 0, 0, 0] ∨ (oneSymbol p).isSome = true then .poison
  else if s = [0, 0, 0, 0] then .clean
  else match oneSymbol s with
    | some x => .corrected [x]
    | none => match twoSymbols s with
      | some l => .corrected l
      | none => .uncorrectable

/-- The wire every flipped bit of a symbol lies on, if they lie on one (R581, R585): bit 2b + j of symbol i travels on 2i + j. -/
def wireOf (x : Nat × Nat) : Option Nat :=
  if x.2 % 256 &&& 0xAA = 0 then some (2 * x.1) else if x.2 % 256 &&& 0x55 = 0 then some (2 * x.1 + 1) else none

/-! ## CRC-32C -/

/-- Shift a CRC register by one bit. -/
def crcBit (c : Nat) : Nat := if c % 2 = 1 then (c / 2) ^^^ 0x82F63B78 else c / 2
/-- Take in one byte. -/
def crcByte (c : Nat) (b : Byte) : Nat :=
  let x := c ^^^ b.toNat
  crcBit (crcBit (crcBit (crcBit (crcBit (crcBit (crcBit (crcBit x)))))))
/-- CRC-32C of bytes. -/
def crc32c (l : List Byte) : Nat := (l.foldl crcByte 0xFFFFFFFF) ^^^ 0xFFFFFFFF

end Sys2Proof
end

