-- ==== Sys2Proof/Machine/Slice.lean ====
section
/-! DEFINITION. Sys2Proof/Machine/Slice.lean: a channel's state, holds and retrainings, error counting and attribution,
steering, remap triggers, channel failure, and how a request is served (R266 to R298, R580 to R598). -/
namespace Sys2Proof.Machine
open Sys2Proof

abbrev fusB : Nat := Page.trunk .FUS
abbrev fusR : Page.Ref := ⟨.FUS, 0⟩

/-- The state of a channel, and setting it. -/
def chState (s : State) (g k : Nat) : Nat := fld s (slcB g + R.CH_STATUS k) 31 28
/-- Set a channel's state. -/
def setChState (g k v : Nat) : Upd := setFld (slcB g + R.CH_STATUS k) 31 28 v
/-- Serving, at the channel's rate. -/
def chServing (s : State) (g k : Nat) : Nat := 2 + fld s (slcB g + R.CH_STATUS k) 25 25
/-- Free spare lanes (R287). -/
def Chan.free (c : Chan) : Nat := 4 - c.steer.length
/-- Is the channel in service? -/
def chServes (s : State) (g k : Nat) : Bool := let x := chState s g k; x = 2 || x = 3 || x = 4

/-! ## Repair of the site (R599) -/

/-- A site is to be retired: it joins the retirements waiting, in ascending order. -/
def retireDue (site cause : Nat) : Upd := read fun s =>
  let f := s.fus
  when (siteEnabled s site && !f.retire.any (·.1 = site) && (f.now.map (·.1) ≠ some site))
    (act (.fus { f with retire := f.retire.filter (·.1 < site) ++ [(site, cause)] ++ f.retire.filter (·.1 > site) }))

/-! ## Holds (R292 to R294, R296) -/

/-- A channel's queue is held. -/
def beginHold (g k why : Nat) : Upd := seqs [
  read fun s => modChan g k (fun c => { c with hold := some (s.now, why), rt := none }), setChState g k 5]

/-- Count a hold of `t` units of 100 ns. -/
def countHold (g k t : Nat) : Upd := seqs [
  bump (slcB g + R.SLC_CNT_HOLD_US) (t / 10),
  read fun s => when (t > fld s (slcB g + R.CH_HOLD_MAX k) 8 0) (setReg (slcB g + R.CH_HOLD_MAX k) (min t 500))]

/-- The length of a hold in units of 100 ns. -/
def holdTime (s : State) (c : Chan) : Nat := match c.hold with | some (t, _) => (s.now - t) / 100 | none => 0

/-- A hold ends and the channel serves again. -/
def resumeChan (g k : Nat) : Upd := read fun s =>
  let c := chanAt s g k
  onSome c.hold fun h => seqs [countHold g k (holdTime s c), setChState g k (chServing s g k),
    modChan g k (fun c => { c with hold := none, again := none }),
    evt (slcR g) 4 0x0405 0 (payload [(24, 1, k), (26, 1, h.2), (28, 4, holdTime s c)])]

/-- A channel fails: its requests complete as dead accesses, and its site is retired; SLC_train_fail is raised where `train`
(R293, R597, R599). -/
def chanFails (train : Bool) (g k : Nat) : Upd := read fun s =>
  let c := chanAt s g k
  when (chState s g k ≠ 6) (seqs [
    onSome c.hold (fun h => seqs [countHold g k (holdTime s c),
      evt (slcR g) 4 0x0405 0 (payload [(24, 1, k), (25, 1, 1), (26, 1, h.2), (28, 4, holdTime s c)])]),
    setChState g k 6, modChan g k (fun c => { c with queue := [], rt := none, hold := none, again := none }),
    when train (raise (slcR g) 0 0), retireDue (g / 64) 0])
/-- A channel fails its training. -/
def failChan (g k : Nat) : Upd := chanFails true g k

/-! ## Retraining (R287 to R294) -/

/-- Full-channel retraining begins. -/
def startFull (g k : Nat) : Upd := read fun s =>
  when (chServes s g k) (seqs [bump (slcB g + R.CH_CNT_RT_FULL k) 1, beginHold g k 0])

/-- Retraining begins: by lane groups, or of the whole channel where no spare is free (R288, R291). -/
def startRetrain (g k : Nat) (full fast : Bool) : Upd := read fun s =>
  let c := chanAt s g k
  let st := pgState s (slcR g)
  if !(st = stIDLE || st = stRUN || st = stHALT) || !chServes s g k then skip
  else if c.rt.isSome then modChan g k (fun c => { c with again := some (full || c.again = some true) })
  else if full || c.free = 0 then startFull g k
  else seqs [modChan g k (fun c => { c with rt := some { f := c.free, began := s.now, gAt := s.now, fast := fast } }), setChState g k 4]

/-- A retraining by lane groups ends: what follows it is a waiting RETRAIN. -/
def endRetrain (g k : Nat) (ok : Bool) : Upd := read fun s =>
  let c := chanAt s g k
  onSome c.rt fun r => seqs [
    setChState g k (chServing s g k), modChan g k (fun c => { c with rt := none, again := none }),
    when ok (seqs [setReg (slcB g + R.CH_RT_LAST k) (s.now / 1000000), setFld (slcB g + R.CH_TEMP k) 31 16 (wrap 16 (layerT s g k)),
      evt (slcR g) 2 0x0403 0 (payload [(24, 1, k), (26, 1, c.free), (27, 1, r.wire), (28, 1, r.eye), (32, 4, (s.now - r.began) / 1000)])]),
    onSome c.again (fun full => startRetrain g k full false)]

/-! ## Steering (R592, R593) -/

/-- Payload of an event of R607. -/
def eccPl (g k : Nat) (l : List (Nat × Nat × Nat)) : Nat := payload ([(24, 1, g / 64), (25, 1, g % 64), (26, 1, k)] ++ l)

/-- A wire takes the lowest-numbered free spare lane. -/
def steerNow (g k wire why : Nat) : Upd := read fun s =>
  let c := chanAt s g k
  onSome ((List.range 4).find? (fun l => (c.steer.lookup l).isNone)) fun l => seqs [
    setChan g k { c with steer := SMap.put l wire c.steer, wires := c.wires.filter (·.1 ≠ wire), toSteer := c.toSteer.filter (· ≠ wire) },
    bump (fusB + R.FUS_CNT_STEER) 1,
    evt fusR 2 0x0482 0 (eccPl g k [(27, 1, wire), (28, 1, l), (29, 1, c.free - 1), (30, 1, why)])]

/-- A wire is to be steered: it waits for the lane group in progress; with no spare free the whole channel is retrained. -/
def steerWire (g k wire why : Nat) : Upd := read fun s =>
  let c := chanAt s g k
  if c.steer.any (·.2 = wire) then skip
  else if c.rt.isSome then setChan g k { c with toSteer := if c.toSteer.contains wire then c.toSteer else c.toSteer ++ [wire] }
  else if c.free = 0 then startFull g k
  else steerNow g k wire why

/-- Wires that waited are steered, lowest first (R604). -/
def steerWaiting (g k : Nat) : Upd := read fun s =>
  each ((List.range 72).filter (fun w => (chanAt s g k).toSteer.contains w)) (fun w => read fun t =>
    if (chanAt t g k).free = 0 then skip else steerNow g k w 0)

/-! ## Errors (R582, R585 to R587) -/

/-- Bank and row of a slice offset (R270). -/
def bankOf (off : Nat) : Nat := bits (caOf off) 13 10
/-- Its row. -/
def rowOf (off : Nat) : Nat := bits (caOf off) 25 14

/-- A row triggers: it waits to be remapped (R586, R595). -/
def remapTrigger (g k bank row : Nat) : Upd :=
  modChan g k (fun c => if c.waiting.contains (bank, row) then c else { c with waiting := c.waiting ++ [(bank, row)] })

/-- Charge a row in the tracker of 32 (R586). -/
def chargeRow (g k bank row : Nat) : Upd := read fun s =>
  let c := chanAt s g k
  let key := bank * 4096 + row
  let n := (c.track.lookup key).getD 0 + 1
  seqs [setChan g k { c with track := ((key, n) :: c.track.filter (·.1 ≠ key)).take 32 },
    when (n ≥ fld s (fusB + R.FUS_LIMITS) 7 0) (remapTrigger g k bank row)]

/-- Attribute a corrected symbol to its wire, in distinct rows within 1 s (R585). -/
def chargeWire (g k wire row : Nat) : Upd := read fun s =>
  let c := chanAt s g k
  let l := (((c.wires.lookup wire).getD []).filter (fun e => e.1 ≠ row && decide (s.now < e.2 + 1000000000))) ++ [(row, s.now)]
  seqs [setChan g k { c with wires := SMap.put wire l c.wires }, when (l.length ≥ fld s (fusB + R.FUS_LIMITS) 15 8) (steerWire g k wire 0)]

/-- A corrected codeword is counted and its symbols attributed. -/
def noteCorrected (g k off : Nat) (l : Flips) : Upd := seqs [
  modChan g k (fun c => { c with ce := c.ce + 1 }), bump (fusB + R.FUS_CNT_CE) 1,
  each l (fun x => match wireOf x with
    | some w => chargeWire g k w (bankOf off * 4096 + rowOf off)
    | none => chargeRow g k (bankOf off) (rowOf off))]

/-- A codeword confirmed uncorrectable: poison, counts, FUS_uncorr with ECC_UNCORR, and its row triggers (R582, R586).
`found`: 0 demand read, 1 scrubber, 2 sap unit, 3 remap copy. -/
def noteUncorr (g k off found org : Nat) : Upd := seqs [
  cwPoisonWrite (dpaOf g off / 32),
  modChan g k (fun c => { c with ue := c.ue + 1 }), bump (fusB + R.FUS_CNT_UE) 1, raise fusR 0 0,
  read fun s => evt fusR 0 0x0480 org (eccPl g k [(27, 1, found), (28, 4, caOf off), (32, 2, org), (36, 4, min (chanAt s g k).ue 0xFFFFFFFF)]),
  remapTrigger g k (bankOf off) (rowOf off)]

/-- What a checked reading of a codeword found: not poison, with the flips that correction leaves, or poison. -/
abbrev Checked := Option Flips

/-- Read the codeword at slice offset `off` with its check: read once more when the first reading is uncorrectable (R582). -/
def checkCw (g k off found org : Nat) (e1 e2 : Flips) (go : Checked → Upd) : Upd := read fun s =>
  if cwPoison s (dpaOf g off / 32) then go none
  else match decodeFlips e1 with
  | .clean => go (some e1)
  | .poison => go none
  | .corrected l => seqs [noteCorrected g k off l, go (some (e1 ++ l))]
  | .uncorrectable => match decodeFlips e2 with
    | .clean => seqs [noteCorrected g k off [], go (some e2)]
    | .poison => go none
    | .corrected l => seqs [noteCorrected g k off l, go (some (e2 ++ l))]
    | .uncorrectable => seqs [noteUncorr g k off found org, go none]

/-- The data bytes of a codeword with flips of its data symbols. -/
def flipBytes (bs : List Byte) (e : Flips) : List Byte :=
  ((List.range bs.length).zip bs).map (fun x => e.foldl (fun b f => if f.1 % 36 = x.1 then b ^^^ BitVec.ofNat 8 f.2 else b) x.2)

/-! ## Serving a request (R273, R274, R276 to R278) -/

/-- The codewords of a request, by their slice offsets. -/
def Req.cws (r : Req) : List Nat := (cwsOf r.off r.n).map (· * 32)
/-- The flips that a reading meets in the codeword at slice offset `off`. -/
def flipsAt (e : List (Nat × Nat)) (off : Nat) : Flips :=
  (e.filter (fun x => x.1 / 36 = off % 256 / 32)).map (fun x => (x.1 % 36, x.2))
/-- Does the request write the whole codeword? -/
def Req.whole (r : Req) (cw : Nat) : Bool := decide (r.off ≤ cw) && decide (cw + 32 ≤ r.off + r.n)
/-- Issue slots a request takes: two for a read-modify-write. -/
def Req.cost (r : Req) : Nat := r.cws.foldl (fun n c => n + (if r.add || (r.wr && !r.whole c) then 2 else 1)) 0
/-- The request's bytes. -/
def Req.bytes (r : Req) : List Byte := toBytes r.n r.data

/-- A partial write or an atomic of one codeword (R274). -/
def rmwCw (g k : Nat) (r : Req) (cw : Nat) : Upd := seqs [
  bump (slcB g + R.CH_CNT_RD k) 1, bump (slcB g + R.CH_CNT_WR k) 1, bump (slcB g + R.CH_CNT_RMW k) 1,
  checkCw g k cw 0 r.org (flipsAt r.e1 cw) (flipsAt r.e2 cw) (fun c => match c with
    | none => skip
    | some e => read fun s =>
      let d := dpaOf g cw
      let part := cwPart (dpaOf g r.off) (if r.add then toBytes r.n (memNum s (dpaOf g r.off) r.n + r.data) else r.bytes) (d / 32)
      seqs [memPlace d (flipBytes (memBytes s d 32) e), memPlace part.1 part.2])]

/-- Serve one codeword of a request. -/
def serveCw (g k : Nat) (r : Req) (cw : Nat) : Upd :=
  if r.add || (r.wr && !r.whole cw) then rmwCw g k r cw
  else if r.wr then seqs [bump (slcB g + R.CH_CNT_WR k) 1, cwWrite (dpaOf g r.off) r.bytes (dpaOf g cw / 32)]
  else seqs [bump (slcB g + R.CH_CNT_RD k) 1,
    checkCw g k cw (if r.scrub then 1 else 0) r.org (flipsAt r.e1 cw) (flipsAt r.e2 cw) (fun c => match c with
      | some e => when r.scrub (read fun s => memPlace (dpaOf g cw) (flipBytes (memBytes s (dpaOf g cw) 32) e))
      | none => skip)]

/-- Serve a request, and leave its row open (R279). -/
def serveReq (g k : Nat) (r : Req) : Upd := seqs [each r.cws (serveCw g k r),
  read fun s => modChan g k (fun c => { c with rows := (bankOf r.off, rowOf r.off, s.now) :: c.rows.filter (·.1 ≠ bankOf r.off) })]

end Sys2Proof.Machine
end

