-- ==== Sys2Proof/Machine/BootCtl.lean ====
section
/-! DEFINITION. Sys2Proof/Machine/BootCtl.lean: reaching full rate and full service (R557 to R560). -/
namespace Sys2Proof.Machine
open Sys2Proof

abbrev bootB : Nat := Page.trunk .BOOT
abbrev bootR : Page.Ref := ⟨.BOOT, 0⟩
/-- Device time in ms, low 32 bits. -/
def nowMs (s : State) : Nat := s.now / 1000000 % 2 ^ 32
/-- The bring-up step a site shows (R577). -/
def siteSub (s : State) (site : Nat) : Nat := fld s (Page.tile .TILE site + R.PG_STATE) 15 8
/-- Set it. -/
def setSub (site v : Nat) : Upd := setFld (Page.tile .TILE site + R.PG_STATE) 15 8 v
/-- Is the site in service? -/
def inService (s : State) (site : Nat) : Bool := getBit64 s (bootB + R.BOOT_SERVE_LO) site
/-- BOOT_STATUS.phase. -/
def bootPhase (s : State) : Nat := fld s (bootB + R.BOOT_STATUS) 31 28

/-- Is every enabled site at full rate or failed? (R560) -/
def sitesSettled (s : State) : Bool :=
  let es := enabledSites s
  !es.isEmpty && es.all (fun x => getBit64 s (bootB + R.BOOT_FULL_LO) x || getBit64 s (bootB + R.BOOT_FAIL_LO) x)

/-- Full service: every enabled site at full rate or failed, and the host link retrained upwards (R560). -/
def fullServiceCheck : Upd := read fun s =>
  let es := enabledSites s
  when ((bootPhase s = 2 || bootPhase s = 3) && sitesSettled s && s.boot.linkUp) (seqs [
    setFld (bootB + R.BOOT_STATUS) 31 28 4, setReg (bootB + R.BOOT_T_FULL) (nowMs s),
    evt bootR 3 0x0003 0 (payload [(24, 1, (es.filter (inService s)).length),
      (25, 1, (es.filter (getBit64 s (bootB + R.BOOT_FAIL_LO))).length), (28, 4, nowMs s - rd s (bootB + R.BOOT_T_PERST)),
      (32, 4, bootBw s), (36, 1, fld s (Page.trunk .HIF + R.HIF_LINK) 31 29)])])

/-- Do all 512 channels of a site run at 1.6 Gbit/s? -/
def allFast (s : State) (site : Nat) : Bool :=
  (List.range 512).all (fun i => fld s (slcB (site * 64 + i / 8) + R.CH_STATUS (i % 8)) 25 25 = 1)

/-- A site in service whose last channel has reached 1.6 Gbit/s is at full rate (R559). -/
def fullRateCheck (site : Nat) : Upd := read fun s =>
  when (inService s site && !getBit64 s (bootB + R.BOOT_FULL_LO) site && allFast s site) (seqs [
    setBit64 (bootB + R.BOOT_FULL_LO) site true, setSub site 7, setReg (Page.tile .TILE site + R.TILE_FULL_T) (nowMs s),
    read fun t => evt bootR 2 0x0002 0 (payload [(24, 1, site), (28, 4, bootBw t)]), fullServiceCheck])

end Sys2Proof.Machine
end

