-- ==== Sys2Proof/Machine/Domain.lean ====
section
/-! DEFINITION. Sys2Proof/Machine/Domain.lean: switching power domains, fences, and lost islands (R501 to R503, R521 to R524,
R530 to R532). -/
namespace Sys2Proof.Machine
open Sys2Proof

/-- Registers of the pages that meet `p`. -/
def onPages (p : Page.Ref → Bool) (off : Nat) : Bool := match Page.ofOff off with | some r => p r | none => false
/-- Pages of a site of these kinds; `c` restricts core pages to one core. -/
def sitePages (site : Nat) (c : Option Nat) (ts : List PType) : List Page.Ref :=
  ts.flatMap (fun t => if Page.isCore t then (match c with
    | some k => [⟨t, site * 64 + k⟩]
    | none => (List.range 64).map (fun k => ⟨t, site * 64 + k⟩)) else [⟨t, site⟩])

/-- A block is about to lose its power, by retirement if `ret`: a waits command ends ABORTED, and STATE_CHANGED (R58, R63,
R64, R600). -/
def blockOff (ret : Bool) (r : Page.Ref) : Upd := read fun s =>
  let st := pgState s r
  when (st ≠ stOFF && st ≠ stRETIRED) (seqs [endBusy evt r 6, if ret then stateChanged evt r st stRETIRED 3 else stateChanged evt r st stOFF 1])

/-- Blocks lose their power: what they hold is lost and counted, and their registers will be at reset when power returns. -/
def blocksOff (ret : Bool) (rs : List Page.Ref) : Upd := seqs [each rs (blockOff ret), each rs (fun r => blockFx evt r (if ret then 2 else 0)),
  act (.regsReset (onPages (fun r => rs.contains r)))]

/-- TPWR's registers of a site. -/
abbrev tpwrB (site : Nat) : Nat := Page.tile .TPWR site
/-- Count a domain's turn-on or turn-off. -/
def countDom (site : Nat) (on : Bool) : Upd := bump (tpwrB site + (if on then R.TPWR_CNT_ON else R.TPWR_CNT_OFF)) 1
/-- Islands now lost, without those that meet `p`. -/
def unlose (p : Nat × Nat × Nat → Bool) : Upd := read fun s => act (.lost (s.lost.filter (fun x => !p x)))

/-- A core domain goes off, by retirement if `ret`. -/
def coreOffBy (ret : Bool) (site c : Nat) : Upd := read fun s =>
  when (domOn s site c .core) (seqs [blocksOff ret (sitePages site (some c) [.CORE, .MXU]),
    setBit64 (tpwrB site + R.TPWR_CORE_ON_LO) c false, countDom site false, unlose (fun x => x = (0, site, c))])
/-- A core domain goes off. -/
def coreOff (site c : Nat) : Upd := coreOffBy false site c
/-- A core domain comes up at the island's present setting: its blocks leave RESET for IDLE (R58, R524, R548). -/
def coreOn (site c : Nat) : Upd := read fun s =>
  when (!domOn s site c .core) (seqs [setBit64 (tpwrB site + R.TPWR_CORE_ON_LO) c true, countDom site true,
    read fun t => act (.clk { t.clk with cur := SMap.set 36 (site * 64 + c) (freqTarget t (site * 64 + c)) t.clk.cur }),
    each (sitePages site (some c) [.CORE, .MXU]) (fun r => setState r stIDLE)])
/-- The blocks of the tile-common domain. -/
def commonTypes : List PType := [.DSP, .KVM, .PFX, .BCST]
/-- The tile-common domain goes off, the cores before it (R522). -/
def commonOffBy (ret : Bool) (site : Nat) : Upd := seqs [each (List.range 64) (coreOffBy ret site), read fun s =>
  when (domOn s site 0 .common) (seqs [blocksOff ret (sitePages site none commonTypes), setFld (tpwrB site + R.TPWR_DOM) 1 1 0, countDom site false])]
/-- The tile-common domain goes off. -/
def commonOff (site : Nat) : Upd := commonOffBy false site
/-- The tile-common domain comes up. -/
def commonOn (site : Nat) : Upd := read fun s =>
  when (!domOn s site 0 .common) (seqs [setFld (tpwrB site + R.TPWR_DOM) 1 1 1, countDom site true,
    each commonTypes (fun t => setState ⟨t, site⟩ (idleOf t))])

/-- A site leaves service. -/
def outOfService (site : Nat) : Upd := seqs [setBit64 (bootB + R.BOOT_SERVE_LO) site false, setBit64 (bootB + R.BOOT_FULL_LO) site false,
  read fun s => act (.boot { s.boot with val := SMap.del site s.boot.val, steps := s.boot.steps.filter (·.1 ≠ site) })]

/-- The memory domain goes off, the others before it: the slices' contents are lost (R522, R523). -/
def memoryOffBy (ret : Bool) (site : Nat) : Upd := seqs [commonOffBy ret site, read fun s =>
  when (domOn s site 0 .memory) (seqs [blocksOff ret (sitePages site none [.SLC, .SAP]), setFld (tpwrB site + R.TPWR_DOM) 2 2 0, countDom site false,
    act (.memClear (fun d => d / 2 ^ 35 = site)), unlose (fun x => decide (2 ≤ x.1 ∧ x.1 ≤ 3) && x.2.1 = site),
    each ((s.sap.filter (fun e => e.1 / 64 = site))) (fun e => act (.sap e.1 {})),
    each ((s.slc.filter (fun e => e.1 / 64 = site))) (fun e => act (.slc e.1 e.2.kept)), outOfService site])]

/-- The memory domain goes off. -/
def memoryOff (site : Nat) : Upd := memoryOffBy false site

/-- The site enters bring-up alone, from its step `n` (R532, R549, R602). -/
def bringUpAlone (site n : Nat) : Upd := seqs [
  setState ⟨.TILE, site⟩ stRESET, setSub site n, setBit64 (bootB + R.BOOT_FAIL_LO) site false,
  read fun s =>
    let steps := s.boot.steps.filter (·.1 ≠ site) ++ (if n = 0 then [] else [(site, s.now)])
    act (.boot { s.boot with alone := s.boot.alone.filter (· ≠ site) ++ [site], steps := steps })]

/-- Fence a site (R503). -/
def fenceSite (site : Nat) : Upd := setBit64 (Page.trunk .CLK + R.CLK_FENCED_LO) site true

/-- A site loses every domain, its root plate and bark domain included (R530). -/
def siteDark (site : Nat) : Upd := seqs [memoryOff site, read fun s =>
  when (domOn s site 0 .root) (seqs [blocksOff false (sitePages site none [.RTR, .XPR, .TFLT, .LDG]), setFld (tpwrB site + R.TPWR_DOM) 0 0 0]), fenceSite site]

end Sys2Proof.Machine
end

