-- ==== Sys2Proof/Machine/ClockCtl.lean ====
section
/-! DEFINITION. Sys2Proof/Machine/ClockCtl.lean: core frequencies, device time and the state of TILE_RESET (R497 to R500,
R506 to R514). -/
namespace Sys2Proof.Machine
open Sys2Proof

abbrev clkB : Nat := Page.trunk .CLK
abbrev clkR : Page.Ref := ⟨.CLK, 0⟩
abbrev timB : Nat := Page.trunk .TIM
abbrev timR : Page.Ref := ⟨.TIM, 0⟩

/-- Is CLK's TILE_RESET of the site in progress? -/
def tileBusy (s : State) (site : Nat) : Bool :=
  match SMap.find clkB s.busy with | some b => b.op = 0x11 && b.arg = site | none => false
/-- An island restart failed (R515). -/
def restartFailed : Upd := raise clkR 4 0

/-- The cores that a FREQ_SET names (R514). -/
def freqScope (s : State) (a : Nat) : List Nat :=
  match bits a 7 6 with
  | 0 => [bits a 19 14 * 64 + bits a 13 8]
  | 1 => (List.range 64).map (· + bits a 19 14 * 64)
  | _ => (enabledSites s).flatMap (fun x => (List.range 64).map (· + x * 64))
/-- Record the settings of a FREQ_SET (R497, R500). -/
def freqSetAll (a : Nat) : Upd := read fun s =>
  act (.clk { s.clk with set := (freqScope s a).foldl (fun m g => SMap.set 36 g (a % 64) m) s.clk.set })
/-- The code an island has reached. -/
def setCur (g v : Nat) : Upd := read fun s => act (.clk { s.clk with cur := SMap.set 36 g v s.clk.cur })

end Sys2Proof.Machine
end

