-- ==== Sys2Proof/Machine/ThermCtl.lean ====
section
/-! DEFINITION. Sys2Proof/Machine/ThermCtl.lean: compute halts, trips, flow-lost and its end, and ring records (R618 to R634). -/
namespace Sys2Proof.Machine
open Sys2Proof

abbrev thmB : Nat := Page.trunk .THM
abbrev thmR : Page.Ref := ⟨.THM, 0⟩
/-- A bit of THM_STATUS. -/
def thmBit (s : State) (n : Nat) : Bool := fld s (thmB + R.THM_STATUS) n n = 1
/-- Set a bit of THM_STATUS. -/
def setThm (n : Nat) (b : Bool) : Upd := setFld (thmB + R.THM_STATUS) n n (b2n b)

/-- A quadrant halts compute: cause 0 DRAM, 1 logic (R618). -/
def haltQuad (site q cause : Nat) (t : Int) : Upd := read fun s =>
  when (!quadHalted s site q) (seqs [setFld (tthB site + R.TTHM_STATE) q q 1,
    evt (tthR site) 1 0x0311 0 (payload [(24, 1, q), (25, 1, 1), (26, 1, cause), (28, 2, wrap 16 t)]), raise (tthR site) 0 0])
/-- A quadrant's halt ends. -/
def unhaltQuad (site q : Nat) : Upd := read fun s =>
  when (quadHalted s site q) (seqs [setFld (tthB site + R.TTHM_STATE) q q 0, each (quadCores q) (fun c => sapWake (site * 64 + c)),
    evt (tthR site) 1 0x0311 0 (payload [(24, 1, q), (28, 2, wrap 16 (effLogic s site q))])])
/-- Every quadrant of every enabled site. -/
def everyQuad (s : State) (f : Nat → Nat → Upd) : Upd := each (enabledSites s) (fun x => each (List.range 4) (f x))

/-- Is a quadrant at a halt threshold, and by which reading? -/
def haltCause (s : State) (site q : Nat) : Option (Nat × Int) :=
  if effStack s site q ≥ 400 then some (0, effStack s site q) else if effLogic s site q ≥ 432 then some (1, effLogic s site q) else none

/-- A trip of a site: THERMTRIP_N, every quadrant halted, the site's domains off and the site fenced (R620). -/
def trip (site q sensor : Nat) (t : Int) : Upd := read fun s =>
  when (fld s (tthB site + R.TTHM_STATE) 8 8 = 0) (seqs [
    act (.pins { s.pins with thermtrip := true }), everyQuad s (fun x p => haltQuad x p 1 (effLogic s x p)),
    memoryOff site, fenceSite site, setFld (tthB site + R.TTHM_STATE) 8 8 1, setThm 3 true, bump (thmB + R.THM_CNT_TRIP) 1,
    raise (tthR site) 1 0, evt (tthR site) 2 0x0312 0 (payload [(24, 1, q), (25, 1, sensor), (26, 2, wrap 16 t)])])

/-- C_est as THM_FLOW reports it. -/
def flowWk (s : State) : Nat := fld s (thmB + R.THM_FLOW) 15 0
/-- THM_FLOW_MIN. -/
def flowMin (s : State) : Nat := fld s (thmB + R.THM_FLOW_MIN) 15 0
/-- Do both conditions of R630 hold now? -/
def resumeFit (s : State) : Bool :=
  decide (flowWk s ≥ flowMin s) && (enabledSites s).all (fun x => (List.range 4).all (fun q => decide (effStack s x q < 360) && decide (effLogic s x q < 400)))
/-- Have they held for 1 s? -/
def resumeReady (s : State) : Bool := thmBit s 2 && !thmBit s 3 && resumeFit s && (match s.thm.fit with | some t => decide (s.now ≥ t + 1000000000) | none => false)

/-- Flow-lost ends: by command 0, automatically 1 (R630). A quadrant still at a halt threshold stays halted. -/
def flowResume (how : Nat) : Upd := read fun s => seqs [
  setThm 2 false, everyQuad s unhaltQuad, faultnCheck evt,
  evt thmR 3 0x0303 0 (payload [(24, 1, how), (26, 2, flowWk s), (28, 4, (s.now - s.thm.lostAt) / 1000000)])]

/-- The ring counts are saved (R632). -/
def ringSave : Upd := read fun s => seqs [
  act (.thm { s.thm with saved := s.tth.map (fun e => (e.1, e.2.counts)) }), setReg (thmB + R.THM_RING_SAVE) (rd s (thmB + R.THM_RING_SAVE) + 1)]

/-- The commands of the THM page (R634). -/
def thmCmds : List CmdDef :=
  [ cReset, cClear,
    { op := 0x10, legal := [stRUN, stFAULT], waits := true, fails := fun s _ _ => !resumeReady s, run := fun _ _ => flowResume 0 },
    { op := 0x11, legal := [stRUN], waits := true, canFail := fun _ _ _ => true, fin := fun _ _ ok => if ok then ringSave else raise thmR 5 0 },
    simpleCmd 0x12 [stRUN, stFAULT] (fun _ => each (List.range 64) (fun x => resetRegs [tthB x + R.TTHM_R])),
    simpleCmd 0x13 [stRUN, stFAULT] (fun r => zeroRegs r (regRun R.THM_CNT_FLOW_WARN 4)) ]

/-- The commands of the TTHM page. -/
def tthmCmds : List CmdDef := [cReset, cClear]

end Sys2Proof.Machine
end

