-- ==== Sys2Proof/Machine/PwrCtl.lean ====
section
/-! DEFINITION. Sys2Proof/Machine/PwrCtl.lean: the power limit, fast cuts, domain switching by TPWR, and the commands of the
PWR and TPWR pages (R522 to R532, R539). -/
namespace Sys2Proof.Machine
open Sys2Proof

abbrev pwrB : Nat := Page.trunk .PWR
abbrev pwrR : Page.Ref := ⟨.PWR, 0⟩
/-- A site's TPWR page as a place. -/
abbrev tpwrR (site : Nat) : Page.Ref := ⟨.TPWR, site⟩
/-- A bit of PWR_STATE. -/
def pwrBit (s : State) (n : Nat) : Bool := fld s (pwrB + R.PWR_STATE) n n = 1
/-- Set a bit of PWR_STATE. -/
def setPwr (n : Nat) (b : Bool) : Upd := setFld (pwrB + R.PWR_STATE) n n (b2n b)
/-- TDP in W. -/
def tdpW (s : State) : Nat := fld s (pwrB + R.PWR_INFO) 31 16
/-- PWR_CAP in W. -/
def capW (s : State) : Nat := fld s (pwrB + R.PWR_CAP) 15 0

/-- P_lim in W and its reason code, at a bus voltage in mV: the lowest of PWR_CAP, TDP and the bus voltage by 180 A, or by
120 A with a pair lost (R526). -/
def pLim (s : State) (bus : Nat) : Nat × Nat :=
  let i := bus * (if s.pwr.lost = 0 then 180 else 120) / 1000
  if i < min (capW s) (tdpW s) then (i, 3) else if capW s < tdpW s then (capW s, 1) else (tdpW s, 2)

/-- PWR_CAP_ACTIVE as the registers stand. -/
def capEvent : Upd := read fun s =>
  let o := pwrB + R.PWR_LIMIT
  evt pwrR 3 0x0703 0 (payload [(24, 1, fld s o 31 29), (25, 1, fld s o 21 16), (26, 2, fld s o 15 0), (28, 2, fld s (pwrB + R.PWR_POWER) 15 0)])
/-- TPWR_CAP_ACTIVE of a site. -/
def siteCapEvent (site : Nat) : Upd := read fun s =>
  evt (tpwrR site) 1 0x0711 0 (payload [(24, 1, fld s (tpwrB site + R.TPWR_FCAP) 5 0), (26, 2, fld s (tpwrB site + R.TPWR_P1) 15 0 / 10),
    (28, 2, fld s (tpwrB site + R.TPWR_CAP) 15 0)])

/-- A fast cut: the cap falls to code 0 at once (R527). -/
def fastCut : Upd := seqs [
  setFld (pwrB + R.PWR_LIMIT) 21 16 0, setFld (pwrB + R.PWR_LIMIT) 31 29 4, bump (pwrB + R.PWR_CNT_FAST_CUT) 1,
  read fun s => act (.pwr { s.pwr with above := none, below := none }), capEvent]

/-- A core of a site may be turned off in IDLE, FAULT or OFF only (R523). -/
def coreLoose (s : State) (site c : Nat) : Bool :=
  let st := shownState s ⟨.CORE, site * 64 + c⟩
  st = stIDLE || st = stFAULT || st = stOFF
/-- Is core `c` requested on? -/
def coreReq (s : State) (site c : Nat) : Bool := getBit64 s (tpwrB site + R.TPWR_CORE_REQ_LO) c
/-- CORES_APPLY fails for a core that may not be turned off, and for one to be turned on without its outer domains (R522). -/
def coresRefuse (s : State) (site : Nat) : Bool :=
  (List.range 64).any fun c =>
    let on := domOn s site c .core
    let want := coreReq s site c
    (on && !want && !coreLoose s site c) || (!on && want && !(domOn s site 0 .common && domOn s site 0 .memory))
/-- Every core domain of a site goes to what TPWR_CORE_REQ asks. -/
def coresApply (site : Nat) : Upd := read fun s =>
  each (List.range 64) (fun c => if coreReq s site c then coreOn site c else coreOff site c)

/-- DOM_SET fails where it would break the nesting: tile-common on without memory, or off under a core (R522). -/
def domRefuse (s : State) (site a : Nat) : Bool :=
  (bit a 0 && !bit a 1) || (!bit a 0 && (List.range 64).any (fun c => domOn s site c .core)) || !domOn s site 0 .root
/-- DOM_SET: a memory domain turned on brings the site up again from its first step; a tile-common domain turned on alone takes the tile part by unicast (R532, R672). -/
def domSet (site a : Nat) : Upd := read fun s =>
  if !bit a 1 then memoryOff site
  else if !domOn s site 0 .memory then seqs [setFld (tpwrB site + R.TPWR_DOM) 2 2 1, countDom site true, when (bit a 0) (commonOn site), bringUpAlone site 1]
  else if bit a 0 then when (!domOn s site 0 .common) (seqs [commonOn site, tpLoaded site]) else commonOff site

/-- A stage starts again: its sites' root plates and bark domains come up, and its enabled sites begin their bring-up (R532). -/
def stageStart (n : Nat) : Upd := read fun s => when (bit (rd s (pwrB + R.PWR_STAGES)) (16 + n)) (seqs [
  setFld (pwrB + R.PWR_STAGES) (16 + n) (16 + n) 0,
  each ((stageSites n).filter (fun x => phys s x = 0 || phys s x = 3)) (fun x => seqs [setFld (tpwrB x + R.TPWR_DOM) 0 0 1,
    each [PType.RTR, .XPR, .TFLT, .LDG] (fun t => setState ⟨t, x⟩ stRUN),
    when (siteEnabled s x) (bringUpAlone x 0)])])

/-- SAVE_RELEASE: the found record's slot is erased (R539). -/
def saveRelease : Upd := read fun s => onSome s.pwr.found fun i => seqs [
  act (.pwr { s.pwr with slots := SMap.del i s.pwr.slots, found := none }), setFld (pwrB + R.PWR_SAVE_STATUS) 31 30 1]

/-- The commands of the PWR page (R539). -/
def pwrCmds : List CmdDef :=
  [ cReset, cClear,
    { op := 0x10, legal := [stRUN, stFAULT], waits := true, argOk := fun _ _ a => a < 16, canFail := fun _ _ _ => true, fin := fun _ a ok => when ok (stageStart a) },
    { op := 0x11, legal := [stRUN], waits := true, fails := fun s _ _ => s.pwr.found.isNone, fin := fun _ _ _ => saveRelease },
    simpleCmd 0x12 [stRUN, stFAULT] (fun r => seqs [zeroRegs r (regRun R.PWR_CNT_UV 4), setFld (pwrB + R.PWR_POWER) 31 16 0]) ]

/-- The commands of a TPWR page (R539). -/
def tpwrCmds : List CmdDef :=
  [ cReset, cClear,
    { op := 0x10, legal := [stRUN], waits := true, fails := fun s r _ => coresRefuse s r.inst, fin := fun r _ _ => coresApply r.inst },
    { op := 0x11, legal := [stRUN], waits := true,
      argOk := fun s r a => decide (bits a 7 2 = 0) && decide (a < 512) && (bit a 1 || bit a 8 || !domOn s r.inst 0 .memory),
      fails := fun s r a => domRefuse s r.inst a, fin := fun r a _ => domSet r.inst a },
    simpleCmd 0x12 [stRUN, stFAULT] (fun r => zeroRegs r (regRun R.TPWR_CNT_ON 2)) ]

end Sys2Proof.Machine
end

