-- ==== Sys2Proof/Machine/BootCmds.lean ====
section
/-! DEFINITION. Sys2Proof/Machine/BootCmds.lean: the commands of the BOOT and LIC pages (R556, R564, R565, R573, R575). -/
namespace Sys2Proof.Machine
open Sys2Proof

/-- Every channel at full rate is recorded (R556). -/
def settingsSave : Upd := read fun s =>
  let keys := (enabledSites s).flatMap (fun x => (List.range 512).map (· + x * 512))
  let fast := keys.filter (fun i => fld s (slcB (i / 8) + R.CH_STATUS (i % 8)) 25 25 = 1)
  act (.boot { s.boot with records := fast.foldl (fun m i => SMap.put i (layerT s (i / 8) (i % 8)) m) s.boot.records })

/-- The commands of the BOOT page (R573). -/
def bootCmds : List CmdDef :=
  [ cClear,
    { op := 0x10, legal := [stRUN], waits := true, canFail := fun _ _ _ => true, fin := fun _ _ ok => if ok then settingsSave else raise bootR 2 0 },
    { op := 0x11, legal := [stRUN], waits := true, fin := fun _ _ _ => read fun s => act (.boot { s.boot with records := [] }) } ]

/-- The staged length. -/
def stageLen (s : State) : Nat := fld s (licB + R.LIC_STAGE_LEN) 10 0
/-- The staged blob: LIC_STAGE_LEN bytes of the staging words. -/
def stagedBlob (s : State) : Blob :=
  { len := stageLen s, data := (List.range 256).foldl (fun n i => n + rd s (licB + R.LIC_STAGE i) * 2 ^ (32 * i)) 0 % 256 ^ stageLen s }
/-- Why the staged blob is refused, flash aside. -/
def stageReason (s : State) : Nat := licReason s (stagedBlob s) (stageLen s)

/-- A blob that passes becomes the pending licence; one equal to the active licence changes nothing (R565). -/
def licAccept : Upd := read fun s =>
  let b := stagedBlob s
  when (s.lic.active ≠ some b) (seqs [act (.lic { s.lic with pending := some b }), licRegs,
    evt licR 0 0x0010 0 (payload [(24, 1, b.counter), (25, 1, b.tiles), (26, 1, b.coppice), (27, 1, b.ports), (28, 1, b.clock), (30, 2, b.tdp)])])
/-- A blob that fails a check, or whose record could not be written (reason 8). -/
def licReject : Upd := read fun s =>
  let why := if stageReason s = 0 then 8 else stageReason s
  seqs [setFld (licB + R.LIC_STATE) 31 24 why, evt licR 1 0x0011 0 (payload [(24, 1, why), (25, 1, (stagedBlob s).counter), (26, 2, stageLen s)]),
    when (why = 8) (raise licR 0 0)]

/-- The commands of the LIC page (R575). -/
def licCmds : List CmdDef :=
  [ cClear,
    { op := 0x10, legal := [stRUN], waits := true, ready := fun s _ _ => stageReason s = 0,
      canFail := fun s _ _ => stageReason s ≠ 0 || s.lic.active ≠ some (stagedBlob s), fin := fun _ _ ok => if ok then licAccept else licReject },
    { op := 0x11, legal := [stRUN], waits := true, fails := fun s _ _ => s.lic.pending.isNone,
      fin := fun _ _ _ => read fun s => seqs [act (.lic { s.lic with pending := none }), licRegs] },
    simpleCmd 0x12 [stRUN] (fun r => zeroRegs r (R.LIC_STAGE_LEN :: regRun (R.LIC_STAGE 0) 256)) ]

/-- A write to LIC: read-only staging while LIC_INSTALL is BUSY, and the lengths of a blob (R575). -/
def licCheck (s : State) (o new : Nat) : Nat :=
  let staging := decide (o = R.LIC_STAGE_LEN) || decide (R.LIC_STAGE 0 ≤ o ∧ o < R.LIC_STAGE 256)
  let busy := match SMap.find licB s.busy with | some b => b.op = 0x10 | none => false
  let l := bits new 10 0
  if staging && busy then 2 else if o = R.LIC_STAGE_LEN ∧ l ≠ 0 ∧ (l < 160 ∨ 1024 < l ∨ l % 16 ≠ 0) then 1 else 0

end Sys2Proof.Machine
end

