-- ==== Sys2Proof/Machine/FusCtl.lean ====
section
/-! DEFINITION. Sys2Proof/Machine/FusCtl.lean: row remapping, promotion of spares, and the commands of the FUS page (R594 to
R605). -/
namespace Sys2Proof.Machine
open Sys2Proof

/-! ## The remap table (R594 to R597) -/

/-- Remap entries of a channel in use. -/
def rmapFor (c : Chan) (bank row : Nat) : Option (Nat × Nat) := c.rmap.find? (fun e => bits e.2 27 24 = bank && bits e.2 23 12 = row)
/-- The lowest-numbered good spare of a bank that is not in use. -/
def freeSpare (c : Chan) (bank : Nat) : Option Nat :=
  (List.range 3).find? (fun x => !c.bad.contains (bank * 3 + x) && !c.rmap.any (fun e => bits e.2 27 24 = bank && bits e.2 11 10 = x))
/-- An entry's value (FUS_RMAPn). -/
def rmapVal (gen bank row spare : Nat) : Nat := 2 ^ 31 + gen * 2 ^ 29 + bank * 2 ^ 24 + row * 2 ^ 12 + spare * 2 ^ 10

/-- How a trigger would be met: entry, its old and new value; none where repair is exhausted (R595 to R597). -/
def remapPlan (c : Chan) (bank row : Nat) : Option (Nat × Nat × Nat) :=
  match freeSpare c bank, rmapFor c bank row with
  | none, _ => none
  | some sp, some (n, old) => if bits old 30 29 ≥ 3 then none else some (n, old, rmapVal (bits old 30 29 + 1) bank row sp)
  | some sp, none => ((List.range 16).find? (fun n => (c.rmap.lookup n).isNone)).map (fun n => (n, 0, rmapVal 1 bank row sp))

/-- The row's 32 codewords are read and corrected into the spare; `e1` and `e2` are the flips their two readings meet. -/
def copySpare (g k bank row : Nat) (e1 e2 : List (Nat × Nat)) : Upd :=
  let at' (i : Nat) : Nat := offOfCa k (row * 2 ^ 14 + bank * 2 ^ 10 + 32 * i)
  let mine (l : List (Nat × Nat)) (i : Nat) : Flips := (l.filter (fun x => x.1 / 36 = i)).map (fun x => (x.1 % 36, x.2))
  each (List.range 32) fun i => checkCw g k (at' i) 3 0 (mine e1 i) (mine e2 i) (fun c => match c with
    | none => skip
    | some e => read fun s => memPlace (dpaOf g (at' i)) (flipBytes (memBytes s (dpaOf g (at' i)) 32) e))

/-- Good spare rows not in use. -/
def sparesLeft (c : Chan) : Nat := 48 - c.bad.length - c.rmap.length
/-- A planned remap is carried out: the entry, the old spare marked bad, ECC_REMAP and the journal entry (R595, R596). -/
def remapRow (g k bank row : Nat) (p : Nat × Nat × Nat) : Upd := seqs [
  modChan g k (fun c =>
    let bad := if p.2.1 = 0 then c.bad else c.bad ++ [bank * 3 + bits p.2.1 11 10]
    { c with rmap := SMap.put p.1 p.2.2 c.rmap, bad := bad, waiting := c.waiting.filter (· ≠ (bank, row)), track := c.track.filter (·.1 ≠ bank * 4096 + row) }),
  bump (fusB + R.FUS_CNT_REMAP) 1,
  read fun s => evt fusR 1 0x0481 0 (eccPl g k [(27, 1, p.1), (28, 4, p.2.2), (32, 1, sparesLeft (chanAt s g k)), (33, 1, (chanAt s g k).rmap.length)]),
  hwEntry 2 (fusB + R.FUS_RMAP p.1) p.2.1 p.2.2 (g * 8 + k)]

/-! ## Coppice (R602, R603) -/

/-- Dormant sites. -/
def dormantSites (s : State) : List Nat := sitesOf (fun x => phys s x = 1)
/-- Manhattan distance of two sites on the grid. -/
def gridDist (a b : Nat) : Nat := (max (a % 8) (b % 8) - min (a % 8) (b % 8)) + (max (a / 8) (b / 8) - min (a / 8) (b / 8))
/-- The dormant site nearest to `r`, the lower number first among equals; without a retired site the lowest. -/
def nearestDormant (s : State) (r : Nat) : Option Nat :=
  (dormantSites s).foldl (fun b x => match b with
    | some y => if r < 64 && decide (gridDist x r < gridDist y r) then some x else b
    | none => some x) none
/-- The allowance and what is spent of it. -/
def allowance (s : State) : Nat := fld s (licB + R.LIC_ACTIVE0) 23 16
/-- Promotions counted. -/
def promoted (s : State) : Nat := fld s (licB + R.LIC_ACTIVE1) 31 16
/-- May one more be promoted? -/
def mayPromote (s : State) : Bool := allowance s = 255 || decide (promoted s < allowance s)
/-- ECC_COPPICE. -/
def coppiceEvent (site out ret : Nat) : Upd := read fun s =>
  evt fusR 5 0x0485 0 (payload [(24, 1, if site < 64 then site else 0xFF), (25, 1, 0xFF), (26, 1, 0xFF), (27, 1, site), (28, 1, out), (29, 1, ret),
    (30, 2, promoted s), (32, 1, allowance s)])
/-- A dormant site is promoted against the allowance and comes up alone. -/
def promote (site ret : Nat) : Upd := seqs [
  bumpFld (licB + R.LIC_ACTIVE1) 31 16 1, setDormant site false, setFld (fusB + R.FUS_COPPICE) 15 8 site,
  read fun s => act (.fus { s.fus with coming := some (site, ret) }), bringUpAlone site 0, coppiceEvent site 0 ret]
/-- A promotion that was asked for (R602, R603): `named` is the site a COPPICE command names. -/
def coppice (ret : Nat) (named : Option Nat) : Upd := read fun s =>
  match (match named with | some x => if phys s x = 1 then some x else none | none => nearestDormant s ret) with
  | none => coppiceEvent 0xFF 1 ret
  | some x => if mayPromote s then promote x ret else coppiceEvent 0xFF 2 ret

/-! ## Commands (R605) -/

/-- What a COPPICE argument names. -/
def coppiceArg (a : Nat) : Option Nat := if bit a 6 then none else some (bits a 5 0)
/-- Is the site that the last promotion promoted in service? -/
def comingDone (s : State) : Bool := match s.fus.coming with | some (x, _) => inService s x | none => false
/-- Is there no promotion waiting, and the last one failed or none? -/
def comingFailed (s : State) : Bool := s.fus.waiting.isEmpty && (match s.fus.coming with | some (x, _) => !siteEnabled s x || getBit64 s (bootB + R.BOOT_FAIL_LO) x | none => true)

/-- The FUS_SEL channel's plan for REMAP_ROW. -/
def selPlan (s : State) (a : Nat) : Option (Nat × Nat × Nat) := remapPlan (chanAt s (fusSel s).1 (fusSel s).2) (bits a 15 12) (bits a 11 0)
/-- REMAP_ROW carried out on the selected channel. -/
def selRemap (a : Nat) : Upd := read fun s => onSome (selPlan s a) fun p =>
  seqs [copySpare (fusSel s).1 (fusSel s).2 (bits a 15 12) (bits a 11 0) [] [], remapRow (fusSel s).1 (fusSel s).2 (bits a 15 12) (bits a 11 0) p]

/-- The commands of the FUS page (R605). RETIRE ends with the fourth step of its retirement. -/
def fusCmds : List CmdDef :=
  [ cClear,
    { op := 0x10, legal := [stRUN, stFAULT], waits := true, argOk := fun s _ a => a / 64 = 4 && siteEnabled s (a % 64),
      run := fun _ a => retireDue (a % 64) 4, ready := fun _ _ _ => false },
    { op := 0x11, legal := [stRUN, stFAULT], waits := true, argOk := fun _ _ a => a ≤ 64,
      fails := fun s _ a => !mayPromote s || (match coppiceArg a with | some x => decide (phys s x ≠ 1) | none => (dormantSites s).isEmpty),
      run := fun _ a => read fun s => act (.fus { s.fus with waiting := s.fus.waiting ++ [(if bit a 6 then fld s (fusB + R.FUS_COPPICE) 7 0 else 255, coppiceArg a)], coming := none }),
      ready := fun s _ _ => s.fus.waiting.isEmpty && comingDone s, canFail := fun s _ _ => comingFailed s },
    { op := 0x12, legal := [stRUN], waits := true, argOk := fun _ _ a => a < 65536, fails := fun s _ a => (selPlan s a).isNone, run := fun _ a => selRemap a },
    { op := 0x13, legal := [stRUN], waits := true, argOk := fun _ _ a => a < 72,
      fails := fun s _ _ => (chanAt s (fusSel s).1 (fusSel s).2).free = 0, run := fun _ a => read fun s => steerWire (fusSel s).1 (fusSel s).2 a 1 },
    simpleCmd 0x14 [stRUN, stFAULT] (fun r => zeroRegs r (regRun R.FUS_CNT_CE 4)) ]

end Sys2Proof.Machine
end

