-- ==== Sys2Proof/Machine/Sha.lean ====
section
/-! DEFINITION. Sys2Proof/Machine/Sha.lean: the SHA-384 digest, which the spec names for images and broadcasts (R662, R671). -/
namespace Sys2Proof

/-- Round constants 0 to 19. -/
def shaK0 : List Nat := [
  0x428A2F98D728AE22, 0x7137449123EF65CD, 0xB5C0FBCFEC4D3B2F, 0xE9B5DBA58189DBBC,
  0x3956C25BF348B538, 0x59F111F1B605D019, 0x923F82A4AF194F9B, 0xAB1C5ED5DA6D8118,
  0xD807AA98A3030242, 0x12835B0145706FBE, 0x243185BE4EE4B28C, 0x550C7DC3D5FFB4E2,
  0x72BE5D74F27B896F, 0x80DEB1FE3B1696B1, 0x9BDC06A725C71235, 0xC19BF174CF692694,
  0xE49B69C19EF14AD2, 0xEFBE4786384F25E3, 0x0FC19DC68B8CD5B5, 0x240CA1CC77AC9C65]
/-- Round constants 20 to 39. -/
def shaK1 : List Nat := [
  0x2DE92C6F592B0275, 0x4A7484AA6EA6E483, 0x5CB0A9DCBD41FBD4, 0x76F988DA831153B5,
  0x983E5152EE66DFAB, 0xA831C66D2DB43210, 0xB00327C898FB213F, 0xBF597FC7BEEF0EE4,
  0xC6E00BF33DA88FC2, 0xD5A79147930AA725, 0x06CA6351E003826F, 0x142929670A0E6E70,
  0x27B70A8546D22FFC, 0x2E1B21385C26C926, 0x4D2C6DFC5AC42AED, 0x53380D139D95B3DF,
  0x650A73548BAF63DE, 0x766A0ABB3C77B2A8, 0x81C2C92E47EDAEE6, 0x92722C851482353B]
/-- Round constants 40 to 59. -/
def shaK2 : List Nat := [
  0xA2BFE8A14CF10364, 0xA81A664BBC423001, 0xC24B8B70D0F89791, 0xC76C51A30654BE30,
  0xD192E819D6EF5218, 0xD69906245565A910, 0xF40E35855771202A, 0x106AA07032BBD1B8,
  0x19A4C116B8D2D0C8, 0x1E376C085141AB53, 0x2748774CDF8EEB99, 0x34B0BCB5E19B48A8,
  0x391C0CB3C5C95A63, 0x4ED8AA4AE3418ACB, 0x5B9CCA4F7763E373, 0x682E6FF3D6B2B8A3,
  0x748F82EE5DEFB2FC, 0x78A5636F43172F60, 0x84C87814A1F0AB72, 0x8CC702081A6439EC]
/-- Round constants 60 to 79. -/
def shaK3 : List Nat := [
  0x90BEFFFA23631E28, 0xA4506CEBDE82BDE9, 0xBEF9A3F7B2C67915, 0xC67178F2E372532B,
  0xCA273ECEEA26619C, 0xD186B8C721C0C207, 0xEADA7DD6CDE0EB1E, 0xF57D4F7FEE6ED178,
  0x06F067AA72176FBA, 0x0A637DC5A2C898A6, 0x113F9804BEF90DAE, 0x1B710B35131C471B,
  0x28DB77F523047D84, 0x32CAAB7B40C72493, 0x3C9EBE0A15C9BEBC, 0x431D67C49C100D4C,
  0x4CC5D4BECB3E42B6, 0x597F299CFC657E2A, 0x5FCB6FAB3AD6FAEC, 0x6C44198C4A475817]
/-- The initial hash words. -/
def shaH : List Nat := [
  0xCBBB9D5DC1059ED8, 0x629A292A367CD507, 0x9159015A3070DD17, 0x152FECD8F70E5939,
  0x67332667FFC00B31, 0x8EB44A8768581511, 0xDB0C2E0D64F98FA7, 0x47B5481DBEFA4FA4]

/-- A 64-bit word rotated right. -/
def rotr64 (n x : Nat) : Nat := x / 2 ^ n + x % 2 ^ n * 2 ^ (64 - n)
/-- A 64-bit sum. -/
def sum64 (l : List Nat) : Nat := l.foldl (fun a b => (a + b) % 2 ^ 64) 0
/-- The next word of the message schedule; `w` holds the last sixteen, the latest first. -/
def shaNext (w : List Nat) : Nat :=
  let g (i : Nat) : Nat := w.getD (i - 1) 0
  let s0 := rotr64 1 (g 15) ^^^ rotr64 8 (g 15) ^^^ g 15 / 2 ^ 7
  let s1 := rotr64 19 (g 2) ^^^ rotr64 61 (g 2) ^^^ g 2 / 2 ^ 6
  sum64 [g 16, s0, g 7, s1]
/-- One round over the eight working words with constant `k` and schedule word `w`. -/
def shaRound (v : List Nat) (k w : Nat) : List Nat :=
  match v with
  | [a, b, c, d, e, f, g, h] =>
    let t1 := sum64 [h, rotr64 14 e ^^^ rotr64 18 e ^^^ rotr64 41 e, (e &&& f) ^^^ ((2 ^ 64 - 1 - e) &&& g), k, w]
    let t2 := sum64 [rotr64 28 a ^^^ rotr64 34 a ^^^ rotr64 39 a, (a &&& b) ^^^ (a &&& c) ^^^ (b &&& c)]
    [sum64 [t1, t2], a, b, c, sum64 [d, t1], e, f, g]
  | _ => v
/-- The rounds: constants left, working words, schedule words not yet used (the first sixteen), and those used, latest first. -/
def shaRounds : List Nat → List Nat → List Nat → List Nat → List Nat
  | [], v, _, _ => v
  | k :: ks, v, w :: ws, past => shaRounds ks (shaRound v k w) ws (w :: past)
  | k :: ks, v, [], past => let w := shaNext past; shaRounds ks (shaRound v k w) [] (w :: past.take 15)
/-- A big-endian number. -/
def beNum (l : List Byte) : Nat := l.foldl (fun n b => n * 256 + b.toNat) 0
/-- Take in `n` blocks of 128 bytes. -/
def shaBlocks : Nat → List Byte → List Nat → List Nat
  | 0, _, h => h
  | n + 1, l, h =>
    let ws := (List.range 16).map (fun i => beNum ((l.drop (8 * i)).take 8))
    let v := shaRounds (shaK0 ++ shaK1 ++ shaK2 ++ shaK3) h ws []
    shaBlocks n (l.drop 128) ((h.zip v).map (fun p => sum64 [p.1, p.2]))
/-- The padding after `n` bytes: a one bit, zeros, and the length in bits. -/
def shaPad (n : Nat) : List Byte :=
  (0x80 : Byte) :: List.replicate ((239 - n % 128) % 128) 0 ++ ((toBytes 16 (8 * n)).reverse)
/-- SHA-384 of bytes: 48 bytes. -/
def sha384 (l : List Byte) : List Byte :=
  let m := l ++ shaPad l.length
  ((shaBlocks (m.length / 128) m shaH).take 6).flatMap (fun w => (toBytes 8 w).reverse)

end Sys2Proof
end

