-- ==== Sys2Proof/Machine/FwuCtl.lean ====
section
/-! DEFINITION. Sys2Proof/Machine/FwuCtl.lean: Xazara images, starting a sap broadcast, and the commands of the FWU, BCST and MGT pages
(R660 to R666, R673, R684). -/
namespace Sys2Proof.Machine
open Sys2Proof

/-! ## Images (R662 to R666) -/

/-- The offsets of a slot's registers. -/
def slotReg (slot : Nat) : Nat := fwuB + if slot = 0 then R.FWU_SLOTA else R.FWU_SLOTB
/-- Its version register. -/
def slotVer (slot : Nat) : Nat := fwuB + if slot = 0 then R.FWU_VERA else R.FWU_VERB
/-- The running slot. -/
def runSlot (s : State) : Nat := fld s (fwuB + R.FWU_RUNNING) 0 0
/-- The slot that a write programs: the one that is not running. -/
def idleSlot (s : State) : Nat := 1 - runSlot s

/-- `n` bytes of an image at byte `a`. -/
def imgF (d a n : Nat) : Nat := d / 256 ^ a % 256 ^ n
/-- Is the image laid out as R662 says, its tile part matching its digest (signature aside)? -/
def imgFormat (len d : Nat) : Bool :=
  let off := imgF d 28 4
  let tl := imgF d 32 4
  decide (352 ≤ len ∧ len % 16 = 0 ∧ len ≤ 16777216) && imgF d 0 4 = 0x315A4158 && imgF d 4 2 = 1 && imgF d 6 2 = 0 && imgF d 8 4 = len
    && decide (1 ≤ imgF d 12 4 ∧ imgF d 12 4 ≤ 255) && imgF d 84 172 = 0 && off % 256 = 0
    && decide (256 ≤ tl ∧ tl ≤ 262144 ∧ tl % 256 = 0 ∧ 256 ≤ off ∧ off + tl ≤ len - 96) && toBytes 48 (imgF d 36 48) = sha384 (toBytes tl (imgF d off tl))
/-- Why an image does not verify, as FWU_STATUS.reason (R664 step 1, log 66). -/
def imgReason (s : State) (len d : Nat) : Nat :=
  if !imgFormat len d then 3 else if !Config.imageSigned len d then 1
  else if imgF d 12 4 < fld s (fwuB + R.FWU_MIN_SVN) 7 0 then 2 else 0
/-- FWU_STATUS. -/
def fwuStatus (why pct : Nat) : Upd := setReg (fwuB + R.FWU_STATUS) (why * 2 ^ 24 + pct * 2 ^ 16)

/-- Programming begins: until it ends the slot does not verify (R665). -/
def imgBegin (slot : Nat) : Upd := setFld (slotReg slot) 31 31 0
/-- The slot is programmed and its sequence recorded; FW_IMAGE_WRITTEN (R664 steps 2 to 4). -/
def imgEnd (x : Img) : Upd := read fun s => seqs [
  setReg (slotReg x.slot) (2 ^ 31 + x.svn * 2 ^ 16 + (fld s (slotReg (runSlot s)) 15 0 + 1) % 65536), setReg (slotVer x.slot) x.ver, fwuStatus 0 100,
  evt fwuR 0 0x0900 0 (payload [(24, 1, x.slot), (25, 1, x.svn), (28, 4, x.ver)])]

/-- The DPA range of a staged image. -/
def imgRange (s : State) : Nat × Nat := (rd64 s (fwuB + R.FWU_SRC_LO) % 2 ^ 41, fld s (fwuB + R.FWU_LEN) 24 0)
/-- IMAGE_WRITE is accepted: the image is taken and verified; if it passes, the idle slot is erased. -/
def imgTake : Upd := read fun s =>
  let r := imgRange s
  let lost := decide (2 ^ 41 < r.1 + r.2) || rangePoison s r.1 r.2 || reachRange s r.1 (max r.2 1) ≠ .ok
  let d := memNum s r.1 r.2
  let why := if lost then 6 else imgReason s r.2 d
  seqs [act (.fwu { s.fwu with img := some { slot := idleSlot s, svn := imgF d 12 4, ver := imgF d 16 4, why := why } }),
    fwuStatus why 0, when (why = 0) (imgBegin (idleSlot s))]
/-- IMAGE_WRITE ends; a good image that fails met a flash error. -/
def imgDone (ok : Bool) : Upd := read fun s => onSome s.fwu.img fun x => seqs [act (.fwu { s.fwu with img := none }),
  if ok then imgEnd x else when (x.why = 0) (seqs [fwuStatus 5 0, raise fwuR 0 0])]
/-- SVN_COMMIT (R666): the floor never falls. -/
def svnCommit : Upd := read fun s => setFld (fwuB + R.FWU_MIN_SVN) 7 0 (max (fld s (fwuB + R.FWU_MIN_SVN) 7 0) (fld s (fwuB + R.FWU_RUNNING) 31 24))

/-! ## Starting a sap broadcast (R667, R668, R673) -/

/-- First word and words of the image. -/
def bcWords (s : State) : Nat × Nat := (fld s (fwuB + R.FWU_BC_WORDS) 26 16, fld s (fwuB + R.FWU_BC_WORDS) 11 0)
/-- Are they in range? -/
def bcOk (s : State) : Bool := let w := bcWords s; decide (1 ≤ w.2 ∧ w.2 ≤ 2048 ∧ w.1 + w.2 ≤ 2048)
/-- Can the image not be read? (log 67) -/
def bcUnread (s : State) : Bool :=
  let a := rd64 s (fwuB + R.FWU_BC_SRC_LO) % 2 ^ 41
  let n := 4 * (bcWords s).2
  decide (2 ^ 41 < a + n) || rangePoison s a n || reachRange s a (max n 1) ≠ .ok
/-- BCAST_SAP begins: a new id, and every chunk into every column. -/
def bcStart : Upd := read fun s =>
  let w := bcWords s
  let id := (fld s (fwuB + R.FWU_BC_STATE) 31 16 + 1) % 65536
  let sites := rd64 s (fwuB + R.FWU_BC_SITES_LO)
  let n := (w.2 + 63) / 64
  let d := memNum s (rd64 s (fwuB + R.FWU_BC_SRC_LO) % 2 ^ 41) (4 * w.2)
  let b : Bcast := {
    id := id, targets := (List.range 64).filter (bit sites), n := n, start := w.1, words := w.2,
    units := fld s (fwuB + R.FWU_BC_UNITS) 7 0, cores := rd64 s (fwuB + R.FWU_BC_CORES_LO), data := d, since := s.now }
  seqs [act (.fwu { s.fwu with bc := some b }), setReg (fwuB + R.FWU_BC_STATE) (id * 2 ^ 16 + 2 ^ 12), setReg64 (fwuB + R.FWU_BC_FENCED_LO) 0,
    bump (fwuB + R.FWU_CNT_BROADCASTS) 1, bump (fwuB + R.FWU_CNT_CHUNKS) (8 * n),
    each b.targets (fun x => act (.bcst x { id := id, n := n, phase := 1, holds := true }))]

/-- Every site that is to load has been told, and no load waits. -/
def bcSettled (s : State) (b : Bcast) : Bool :=
  b.phase = 4 && (bcTargets s b).all (fun x => b.fenced.contains x || b.acted.contains x) && loadsWaiting s b = 0
/-- Was every load made, and no site fenced? -/
def bcClean (b : Bcast) : Bool := b.fenced.isEmpty && b.made = b.entered
/-- A property of the broadcast in progress. -/
def bcIs (s : State) (p : Bcast → Bool) : Bool := match s.fwu.bc with | some b => p b | none => false

/-! ## Commands (R684) -/

/-- The commands of the FWU page. -/
def fwuCmds : List CmdDef :=
  [ { cReset with legal := [stRUN, stFAULT] }, cClear,
    { op := 0x10, legal := [stRUN], waits := true, run := fun _ _ => imgTake, ready := fun s _ _ => (s.fwu.img.map (·.why)) = some 0,
      canFail := fun _ _ _ => true, fin := fun _ _ ok => imgDone ok },
    { op := 0x11, legal := [stRUN], waits := true, argOk := fun _ _ a => a = 0x100, fin := fun _ _ _ => svnCommit },
    { op := 0x12, legal := [stRUN], waits := true, argOk := fun s _ a => a = 0 && bcOk s, fails := fun s _ _ => bcUnread s, run := fun _ _ => bcStart,
      ready := fun s _ _ => bcIs s (fun b => bcSettled s b && bcClean b),
      canFail := fun s _ _ => bcIs s (fun b => b.phase = 6 || (bcSettled s b && !bcClean b)), fin := fun _ _ ok => bcEnds evt (if ok then 0 else 1) },
    { op := 0x13, legal := [stRUN], waits := true, ready := fun s _ _ => s.bcst.all (fun e => !e.2.holds) },
    simpleCmd 0x14 [stRUN, stFAULT] (fun r => zeroRegs r (regRun R.FWU_CNT_CHUNKS 3)) ]
/-- The commands of a BCST page. -/
def bcstCmds : List CmdDef :=
  [ { cReset with legal := [stRUN, stFAULT] }, cClear, simpleCmd 0x10 [stRUN, stFAULT] (fun r => zeroRegs r (regRun R.BCST_CNT_RX 4)) ]
/-- The commands of the MGT page. -/
def mgtCmds : List CmdDef :=
  [ { cReset with legal := [stRUN, stFAULT] }, cClear, simpleCmd 0x10 [stRUN, stFAULT] (fun r => zeroRegs r (regRun R.MGT_CNT_RX 5)) ]

end Sys2Proof.Machine
end

