-- ==== Sys2Proof/Machine/FabCtl.lean ====
section
/-! DEFINITION. Sys2Proof/Machine/FabCtl.lean: what cores send into the fabric: the requests of their threads' memory operations and
of their send ports; and the reconciliation of links (R105, R107, R418 to R423, R434, R453 to R456). -/
namespace Sys2Proof.Machine
open Sys2Proof

/-! ## Operations in slots (R107) -/

/-- Do two ranges of one space share a byte? -/
def overlap (a n b m : Nat) : Bool := a / 2 ^ 62 = b / 2 ^ 62 && decide (a < b + m) && decide (b < a + n)
/-- Does the operation write memory? -/
def MemOp.writes (m : MemOp) : Bool :=
  match m.kind with | .st | .copy | .fill | .aadd | .acas => true | _ => false
/-- Does the operation read or write any of `n` bytes at `a`, one of the two accesses writing? -/
def MemOp.conflicts (m : MemOp) (a n : Nat) (wr : Bool) : Bool :=
  m.kind ≠ .sig && m.kind ≠ .pref && m.kind ≠ .ra
    && (((m.writes || wr) && overlap m.ea m.len a n) || (m.kind = .copy && wr && overlap m.src m.len a n))
/-- Must operation `m` wait for the earlier `e`, whose bytes it overlaps? (R107) -/
def MemOp.after (m e : MemOp) : Bool :=
  m.kind ≠ .sig && m.kind ≠ .pref && m.kind ≠ .ra
    && (e.conflicts m.ea m.len m.writes || (m.kind = .copy && e.conflicts m.src m.len false))
/-- Is slot `i` held back by an earlier operation of its thread? -/
def heldBack (t : Thread) (i : Nat) (m : MemOp) : Bool := (t.slots.take i).any (fun e => m.after e)
/-- Is an access in the core held back by an operation in a slot? -/
def busyRange (t : Thread) (a n : Nat) (wr : Bool) : Bool := t.slots.any (fun m => m.conflicts a n wr)

/-! ## Packets (R419, R420) -/

/-- The origin that a 16-bit code names. -/
def originOf (w : Nat) : Origin := { cls := w / 4096, inst := w % 4096 }
/-- Change the packets. -/
def modPkts (f : List Pkt → List Pkt) : Upd := read fun s => act (.fab { s.fab with pkts := f s.fab.pkts })
/-- A packet enters the fabric at its source's router. -/
def inject (p : Pkt) : Upd := read fun s => modPkts (· ++ [{ p with time := s.now }])
/-- A core sends a request under the next tag. -/
def sendReq (g : Nat) (p : Pkt) : Upd := read fun s =>
  act (.fab { pkts := s.fab.pkts ++ [{ p with src := g, org := coreOrg g, tag := s.fab.next, node := g / 64, time := s.now }],
              next := (s.fab.next + 1) % 2 ^ 32 })

/-- The endpoint that answers for a register: its core, core 0 of its site, the bough port, or the trunk controller. -/
def regDst (off : Nat) : Nat :=
  match Page.ofOff off with
  | some r => if Page.isCore r.t then r.inst else if Page.isTile r.t then r.inst * 64 else if r.t = .BGH then 0x1000 + 1 + r.inst else 0x1000
  | none => 0x1000

/-- Does the operation leave its site over the fabric (R418)? -/
def remoteOp (g : Nat) (m : MemOp) : Bool :=
  match m.kind with
  | .ld | .st => if eaSpace m.ea = 2 then decide (eaAddr m.ea / 0x200000 ≠ g / 64)
      else eaSpace m.ea = 0 && decide (dpaSite m.ea ≠ g / 64) && m.lines.isEmpty
  | .aadd | .acas => decide (dpaSite m.ea ≠ g / 64)
  | .sig => decide (m.ea / 64 ≠ g / 64)
  | _ => false

/-- Its request. -/
def opPkt (m : MemOp) : Pkt :=
  match m.kind with
  | .sig => { typ := 0x04, vc := 0, src := 0, dst := m.ea, op0 := m.rd + m.val % 65536 * 65536 }
  | .aadd => { typ := 0x03, vc := 0, src := 0, dst := dpaCore m.ea, addr := m.ea, op0 := m.val, wid := m.len }
  | .acas => { typ := 0x03, vc := 0, src := 0, dst := dpaCore m.ea, addr := m.ea, op0 := m.val, op1 := m.val2, wid := m.len, cas := true }
  | .st => if eaSpace m.ea = 2 then { typ := 0x05, vc := 0, src := 0, dst := regDst (eaAddr m.ea), addr := eaAddr m.ea, len := 4, data := m.val }
      else { typ := 0x02, vc := 0, src := 0, dst := dpaCore m.ea, addr := m.ea, len := m.len, data := m.val, pz := m.pz }
  | _ => if eaSpace m.ea = 2 then { typ := 0x05, vc := 0, src := 0, dst := regDst (eaAddr m.ea), addr := eaAddr m.ea }
      else { typ := 0x01, vc := 0, src := 0, dst := dpaCore m.ea, addr := m.ea, op0 := m.len }

/-- Send the request of the operation in slot `i`. -/
def sendOp (g th i : Nat) : Upd := read fun s =>
  let t := thr s g th
  onSome t.slots[i]? fun m => seqs [setThr g th { t with slots := t.slots.set i { m with tag := some s.fab.next, again := false } }, sendReq g (opPkt m)]
/-- Send every request of a thread that nothing holds back and that has not been sent (R105, R107). -/
def sendOps (g th : Nat) : Upd := each (List.range 4) (fun i => read fun s =>
  let t := thr s g th
  onSome t.slots[i]? fun m => when (remoteOp g m && m.tag.isNone && !heldBack t i m) (sendOp g th i))

/-! ## The send port (R453 to R455) -/

/-- Bytes of a send word. -/
abbrev swLen (b : Nat) : Nat := bits b 31 0
/-- Are a SEND's word and addresses in order (R454)? -/
def sendOk (s : State) (g : Nat) (o : EOp) : Bool :=
  let n := swLen o.b
  decide (bits o.b 63 52 = 0 ∧ n % 32 = 0 ∧ 32 ≤ n ∧ n ≤ 16777216) && engEaOk s g o.a n 32 && decide (o.d % 32 = 0 ∧ o.d + n ≤ 2 ^ 41)
    && decide (dpaSite o.d ≠ g / 64 ∧ dpaSite (o.d + n - 1) ≠ g / 64)
/-- The head of a send port leaves it. -/
def sndPop (g : Nat) : Upd := modSnd g (fun x => { q := x.q.drop 1, run := none })
/-- Room in a send port. -/
def sndRoom (s : State) (g : Nat) : Bool := decide ((sndOf s g).q.length < 8)
/-- One BULK packet of a SEND: its data from the source at this offset, flagged as poison where the source is. -/
def bulkAt (s : State) (g : Nat) (o : EOp) (off : Nat) : Pkt × Bool :=
  let n := min 256 (swLen o.b - off)
  let d := engNum s g (engHits s g (o.a + off) n) (o.a + off) n
  ({ typ := 0x20, vc := 2, src := 0, dst := dpaCore (o.d + off), addr := o.d + off, len := n, data := d.1, pz := d.2, force := bit o.b 51 }, d.2)
/-- The next packet of a SEND, while fewer than 16 are on their way; a source that answers RETRY_LATER is waited for. -/
def sendNext (g : Nat) : Upd := read fun s => onSome (sndOf s g).run fun r =>
  when (decide (r.pos < swLen r.op.b) && decide (r.outs.length < 16) && !engRetries s (r.op.a + r.pos) (min 256 (swLen r.op.b - r.pos))) (
    let p := bulkAt s g r.op r.pos
    seqs [modSnd g (fun x => { x with run := some { r with pos := r.pos + p.1.len, outs := r.outs ++ [(s.fab.next, r.pos, s.now, false)], met := r.met || p.2 } }),
      sendReq g p.1])
/-- The signal of a SEND. -/
def sigPkt (o : EOp) : Pkt := { typ := 0x04, vc := 0, src := 0, dst := bits o.b 43 32, op0 := bits o.b 49 44 + 65536 }
/-- A SEND has completed: poison it met is its thread's error (R454). -/
def sendEnds (g : Nat) (r : SendRun) : Upd := seqs [sndPop g, if r.met then engError g r.op cPLoad r.op.a false else engDone g r.op]

/-- A BSEND starts: it takes a frame credit, and the port begins the frame (R455). -/
def bsendStart (g : Nat) (o : EOp) (p : Nat) : Upd := read fun s =>
  let h := memRead s o.a 64
  let f : BFrame := { core := g, op := o, bytes := if h.2 then 64 else max 1 (bits h.1 191 160), met := h.2, time := s.now }
  seqs [modBgh p (fun x => { x with fcred := x.fcred - 1, frame := some f }), frameLed p 0 1]

/-- The head of a send port goes as far as it can, and those behind it. -/
def sndAdvance (g : Nat) : Nat → Upd
  | 0 => skip
  | k + 1 => read fun s => onSome (sndOf s g).q.head? fun o => when (opReady s g o) (
      let bad : Upd := seqs [sndPop g, engError g o cAddr o.a false, sndAdvance g k]
      if o.op = 0xA0 then match (sndOf s g).run with
        | none => if !sendOk s g o then bad
            else seqs [modSnd g (fun x => { x with run := some { op := o } }), each (List.range 16) (fun _ => sendNext g)]
        | some r => if r.pos < swLen o.b ∨ r.outs.isEmpty = false then each (List.range 16) (fun _ => sendNext g)
            else match r.sig with
              | none => if bit o.b 50 then seqs [tokLed g 0 1, modSnd g (fun x => { x with run := some { r with sig := some (s.fab.next, s.now, false) } }), sendReq g (sigPkt o)]
                  else seqs [sendEnds g r, sndAdvance g k]
              | some _ => skip
      else
        let p := o.b % 8
        if o.b ≥ 8 then bad
        else if o.op = 0xA1 then
          if !engEaOk s g o.a 64 32 || eaSpace o.a ≠ 0 then bad
          else if (bghOf s p).frame.isSome && (match (bghOf s p).frame with | some f => f.op = o && f.core = g | none => false) then skip
          else if pgState s (bghR p) ≠ stRUN then seqs [sndPop g, engResult g o 2 false, sndAdvance g k]
          else when ((bghOf s p).frame.isNone && decide ((bghOf s p).fcred > 0)) (bsendStart g o p)
        else seqs [modBgh p (fun x => { x with fback := x.fback + 1 }), sndPop g, engDone g o, sndAdvance g k])
/-- A core's send port goes on, and threads waiting for room in it look again. -/
def sndGo (g : Nat) : Upd := read fun s => when (!(sndOf s g).q.isEmpty) (seqs [sndAdvance g 9, read fun t => wakeQueue g 6 (sndRoom t g)])
/-- Every send port goes on. -/
def sndKick : Upd := read fun s => each s.snd (fun e => sndGo e.1)

/-! ## Reconciliation (R434) -/

/-- Both ends stop sending on a link that is DOWN: state RECON; an end still UP counts its losses first. -/
def reconStart (n l : Nat) : Upd := read fun s => onSome (farEnd s n l) fun m =>
  let one (n l : Nat) : Upd := seqs [linkLoss evt n l 0, read fun t => modRtr n (fun x => { x with links := SMap.put l 3 x.links, began := SMap.put l t.now x.began })]
  when (linkSt s n l ≠ 3) (seqs [one n l, one m (opp n l)])
/-- The page whose command reconciles a link, with its argument. -/
def linkPage (n l : Nat) : Page.Ref × Nat := if l < 4 then (rtrR n, l) else (xprR n, l - 32)
/-- A LINK_RECON or PEER_RECON of this link ends. -/
def reconDone (n l st : Nat) : Upd := read fun s =>
  let r := linkPage n l
  when (match SMap.find (Page.base r.1) s.busy with | some b => b.op = 0x10 && decide (b.arg = r.2) | none => false) (endBusy evt r.1 st)

/-- Counters of RTR and XPR. -/
def rtrClear (r : Page.Ref) : Upd := zeroRegs r (regRun R.RTR_CNT_FWD 12)

/-- The commands of the RTR page (R456). -/
def rtrCmds : List CmdDef :=
  [ cReset, cStart, cClear,
    { op := 0x10, legal := [stRUN, stFAULT], waits := true, argOk := fun _ _ a => a < 4, fails := fun s r a => linkSt s r.inst a = 0,
      run := fun r a => read fun s => when (linkSt s r.inst a = 2) (reconStart r.inst a), ready := fun s r a => linkSt s r.inst a = 1 },
    simpleCmd 0x11 [stIDLE, stRUN, stFAULT] rtrClear ]
/-- The commands of the XPR page. -/
def xprCmds : List CmdDef :=
  [ cReset, cStart, cClear,
    { op := 0x10, legal := [stRUN, stFAULT], waits := true, argOk := fun _ _ a => a < 64, fails := fun s r a => linkSt s r.inst (32 + a) = 0,
      run := fun r a => read fun s => when (linkSt s r.inst (32 + a) = 2) (reconStart r.inst (32 + a)), ready := fun s r a => linkSt s r.inst (32 + a) = 1 },
    simpleCmd 0x11 [stIDLE, stRUN, stFAULT] (fun r => zeroRegs r (regRun R.XPR_CNT_TX 4)) ]

end Sys2Proof.Machine
end

