-- ==== Sys2Proof/Machine/Lpt.lean ====
section
/-! DEFINITION. Sys2Proof/Machine/Lpt.lean: the layer placement table: reading a copy, its validity, and the copy the trunk uses
(R409 to R413, R415). -/
namespace Sys2Proof.Machine
open Sys2Proof

/-- DPA of a site's copy (R409). -/
def lptAt (site : Nat) : Nat := dpaOf (site * 64) 0x1FFF0000
/-- A field of the copy at `a`. -/
def lptNum (s : State) (a off n : Nat) : Nat := memNum s (a + off) n
/-- Layers and stand entries of a copy. -/
def lptLayers (s : State) (a : Nat) : Nat := lptNum s a 2 2
/-- Stand entries in use. -/
def lptStands (s : State) (a : Nat) : Nat := lptNum s a 4 2
/-- A field of stand entry `k`, at byte `o` (R411). -/
def standNum (s : State) (a k o n : Nat) : Nat := lptNum s a (64 + 32 * k + o) n
/-- A field of layer entry `i` (R412). -/
def layerNum (s : State) (a i o n : Nat) : Nat := lptNum s a (2112 + 32 * i + o) n
/-- Does the stand hold its layers: active or stalled? -/
def standHolds (s : State) (a k : Nat) : Bool := let x := standNum s a k 14 1; x = 1 || x = 2
/-- The end of a chain: a bough port or host software. -/
def chainEnd (n : Nat) : Bool := n = 0xFE || n = 0xFD
/-- The stands that hold layers. -/
def holders (s : State) (a : Nat) : List Nat := (List.range (lptStands s a)).filter (standHolds s a)
/-- Stands met from stand `k` along the down links, each linked back by up; none where a link is broken. -/
def chainFrom (s : State) (a k : Nat) : Nat → Option Nat
  | 0 => none
  | n + 1 =>
    let d := standNum s a k 13 1
    if chainEnd d then some 1
    else if (holders s a).contains d && standNum s a d 12 1 = k then (chainFrom s a d n).map (· + 1) else none

/-- The layers of a stand. -/
def standLayers (s : State) (a k : Nat) : List Nat := (List.range (lptLayers s a)).filter (fun i => layerNum s a i 2 1 = k)
/-- Are they consecutive and within the stand's first and last? -/
def standOk (s : State) (a k : Nat) : Bool :=
  let l := standLayers s a k
  match l.head? with
  | none => true
  | some i0 => l = (List.range l.length).map (· + i0) && l.all (fun i =>
      let y := layerNum s a i 0 2
      decide (standNum s a k 8 2 ≤ y ∧ y ≤ standNum s a k 10 2))

/-- Is the copy at `a` valid? (R413) -/
def lptValid (s : State) (a : Nat) : Bool :=
  let l := lptLayers s a
  let n := lptStands s a
  lptNum s a 0 2 = 1 && decide (1 ≤ l ∧ l ≤ 1024) && decide (1 ≤ n ∧ n ≤ 64) && !rangePoison s a (2112 + 32 * l)
    && lptNum s a 12 4 = crc32c (memBytes s a 12 ++ memBytes s (a + 16) (2096 + 32 * l))
    && (holders s a).all (standOk s a)
    && (List.range l).all (fun i => (holders s a).contains (layerNum s a i 2 1))
    && (match (holders s a).filter (fun k => chainEnd (standNum s a k 12 1)) with
        | [k] => chainFrom s a k 65 = some (holders s a).length
        | _ => false)

/-- The copy the trunk uses: the valid one of the highest generation on the enabled sites but `but` (R413, R415). -/
def lptCopy (s : State) (but : Nat) : Option Nat :=
  (((enabledSites s).filter (· ≠ but)).map lptAt).foldl (fun b a =>
    if !(reach s a = .ok && lptValid s a) then b
    else match b with
      | some x => if lptNum s a 8 4 > lptNum s x 8 4 then some a else b
      | none => some a) none

/-- The layers a site's retirement affects: stand mask, lowest, highest and number of layers (R415). -/
def lptAffected (s : State) (site : Nat) : Nat × Nat × Nat × Nat :=
  match lptCopy s site with
  | none => (0, 0, 0, 0)
  | some a =>
    let l := (List.range (lptLayers s a)).filter (fun i => bit (layerNum s a i 8 8) site)
    let ns := l.map (fun i => layerNum s a i 0 2)
    (((l.map (fun i => layerNum s a i 2 1)).eraseDups).foldl (fun m k => m + 2 ^ k) 0, ns.foldl min (ns.headD 0), ns.foldl max 0, l.length)

end Sys2Proof.Machine
end

