-- ==== Sys2Proof/Machine/BghCtl.lean ====
section
/-! DEFINITION. Sys2Proof/Machine/BghCtl.lean: bough ports: link states, messages, the return of a link, and the commands of the BGH
pages (R435 to R456). -/
namespace Sys2Proof.Machine
open Sys2Proof

/-! ## The link (R440 to R443) -/

/-- BGH_STATUS.link: 0 DOWN, 1 training, 2 RECON, 3 HELLO, 4 UP. -/
def bghLink (s : State) (p : Nat) : Nat := fld s (bghB p + R.BGH_STATUS) 23 20
/-- Set it; with lock lost no lane is in lock. -/
def setLink (p v : Nat) : Upd := seqs [setFld (bghB p + R.BGH_STATUS) 23 20 v, when (v ≤ 1) (setFld (bghB p + R.BGH_STATUS) 31 24 0)]
/-- BGH_CTRL.role: 1 up, 2 down, 3 side. -/
def bghRole (s : State) (p : Nat) : Nat := fld s (bghB p + R.BGH_CTRL) 1 0
/-- Does the port take part: not in OFF or RESET, its engine not shut down? -/
def bghLive (s : State) (p : Nat) : Bool := pgState s (bghR p) ≠ stOFF && pgState s (bghR p) ≠ stRESET && !(bghOf s p).dark
/-- Is the port's START in progress? -/
def bghStarting (s : State) (p op : Nat) : Bool := match SMap.find (bghB p) s.busy with | some b => b.op = op | none => false

/-- Training begins, for START or for a return. -/
def bghTrain (p : Nat) : Upd := seqs [setLink p 1, modBgh p (fun x => { x with ctrl := [], offer := none, conf := false, inbox := x.inbox.filter (fun m => match m with | .ctrl _ => false | _ => true) })]
/-- A link goes DOWN: 0 no good flit, 1 the resend limit, 2 lane lock, 3 a reset of the port. It retrains where auto_rt or a START asks for
it. What is lost is known only at its return. -/
def bghDown (p cause : Nat) : Upd := read fun s =>
  let up := bghLink s p = 4
  when (decide (bghLink s p ≥ 1)) (seqs [
    if fld s (bghB p + R.BGH_CTRL) 4 4 = 1 || bghStarting s p 2 then bghTrain p else seqs [bghTrain p, setLink p 0],
    when up (seqs [evt (bghR p) 0 0x0600 0 (payload [(24, 1, p), (25, 1, cause)]), raise (bghR p) 0 0])])

/-! ## Messages (R441, R450) -/

/-- A CTRL message: code, reset bit, next sequence expected, and the flit buffers free per VC: what has been accepted has been
freed. -/
def ctrlMsg (s : State) (p code : Nat) : Nat :=
  code + b2n (bghOf s p).lost * 2 ^ 8 + (bghOf s p).rxSeq % 4096 * 2 ^ 16 + 64 * 2 ^ 32 + 64 * 2 ^ 64 + 512 * 2 ^ 96 + 16 * 2 ^ 128
/-- Queue a CTRL message. -/
def sendCtrl (p code : Nat) : Upd := read fun s => modBgh p (fun x => { x with ctrl := x.ctrl ++ [ctrlMsg s p code] })
/-- Queue a management frame. -/
def sendMgmt (p d : Nat) : Upd := modBgh p (fun x => { x with mgmt := x.mgmt ++ [d] })
/-- `n` bytes of a message at byte `a`. -/
def msgF (d a n : Nat) : Nat := d / 256 ^ a % 256 ^ n
/-- A message from (byte, width, value). -/
def msgOf (l : List (Nat × Nat × Nat)) : Nat := l.foldl (fun m x => m + x.2.2 % 256 ^ x.2.1 * 256 ^ x.1) 0

/-- The LPT copy the trunk uses, with the stand whose up or down is the bough port. -/
def bghStand (s : State) (o : Nat) : Option (Nat × Nat) := (lptCopy s 64).bind fun a => ((holders s a).find? (fun k => standNum s a k o 1 = 0xFE)).map (fun k => (a, k))
/-- Tag, first and last layer of this module. -/
def lptSelf (s : State) : Nat × Nat × Nat := match lptCopy s 64 with | some a => (lptNum s a 16 8, lptNum s a 24 2, lptNum s a 26 2) | none => (0, 0, 0)
/-- Slots of the entry stand that the bough feeds, which an up-port grants (R442). -/
def entrySlots (s : State) (p : Nat) : Nat := if bghRole s p = 1 then (match bghStand s 12 with | some (a, k) => standNum s a k 15 1 | none => 0) else 0
/-- The HELLO of a port (R448, R450). -/
def helloMsg (s : State) (p : Nat) : Nat :=
  let l := lptSelf s
  msgOf ([(0, 1, 0x20), (1, 1, 1), (32, 8, l.1), (40, 2, l.2.1), (42, 2, l.2.2), (44, 1, bghRole s p), (45, 1, entrySlots s p),
    (48, 4, rd s (bghB p + R.BGH_FSEQ))] ++ (List.range 4).map (fun i => (16 + 4 * i, 4, rd s (Page.trunk .IDN + R.IDN_SERIAL i))))
/-- Queue the HELLO. -/
def sendHello (p : Nat) : Upd := read fun s => sendMgmt p (helloMsg s p)

/-- Flit buffers that the peer's offer says are free. -/
def offerCreds (d : Nat) : List Nat := (List.range 4).map (fun v => msgF d (4 + 4 * v) 4)
/-- LINK_RECONCILED of a port. -/
def bghReconciled (p outcome : Nat) : Upd := read fun s =>
  evt (bghR p) 1 0x0601 0 (payload ([(24, 1, p), (25, 1, outcome)] ++ perVc (fun v => (bghOf s p).cred.getD v 0)))

/-- The peer's offer decides: where either end has lost its sequence state, every flit unacknowledged is lost and the sequences
start at 0; else the sender goes back to what the peer expects (R443). -/
def offerDecides (p d : Nat) : Upd := read fun s =>
  let x := bghOf s p
  let fresh := x.lost || bit d 8
  seqs [when (fresh && x.was) (seqs [replayLost evt p 3,
      when x.rxFrame.isSome (seqs [evt (bghR p) 3 0x0604 0 (payload [(24, 1, 5), (32, 4, (x.rxFrame.getD (0, 0, [])).1)]),
        modBgh p (fun y => { y with rxFrame := none, fback := y.fback + 1 }), raise (bghR p) 2 0])]),
    if fresh then modBgh p (fun y => { y with lost := true, replay := [], cur := 0, txSeq := 0, rxSeq := 0, tries := 0, nacked := false, nackDue := false, mgmt := [] })
    else let exp := bits d 27 16
      modBgh p (fun y =>
        let left := y.replay.dropWhile (fun f => f.seq ≠ exp)
        { y with replay := left, cur := 0, tries := 0, nacked := false, nackDue := false }),
    when (!fresh) (read fun t =>
      each (List.range 4) (fun v => flitLed p v 1 (inReplay x.replay v - inReplay (bghOf t p).replay v)))]

/-- Both offers and both confirms are exchanged: credits are set, and the link is UP, or HELLOs follow (R442 steps 3 and 4, R443).
A port in FAULT holds back its confirm until CLEAR_FAULT. -/
def reconFinish (p : Nat) : Upd := read fun s =>
  let x := bghOf s p
  onSome x.offer fun d => when (x.conf && bghLink s p = 2 && pgState s (bghR p) ≠ stFAULT) (seqs [
    modBgh p (fun y => { y with cred := offerCreds d, freed := [0, 0, 0, 0], offer := none, conf := false }),
    if x.lost then seqs [setLink p 3, sendHello p]
    else seqs [setLink p 4, bghReconciled p 0, when (bghStarting s p 0x10) (endBusy evt (bghR p) 1)]])

/-! ## Commands (R456) -/

/-- CLEAR_FAULT completes R443: a port that was UP goes back to RUN, and confirms what it held back. -/
def bghClear (p : Nat) : Upd := read fun s =>
  if (bghOf s p).was then seqs [setState (bghR p) stRUN, when (bghOf s p).offer.isSome (sendCtrl p 2), reconFinish p] else toIdle (bghR p)

/-- REMOTE: a register frame to the peer under the next tag, with origin class 0. -/
def remoteSend (p a : Nat) : Upd := read fun s =>
  let x := bghOf s p
  let wr := bit a 8
  seqs [modBgh p (fun y => { y with tag := (x.tag + 1) % 65536, remote := some (x.tag, wr, s.now) }),
    sendMgmt p (msgOf [(0, 1, if wr then 0x11 else 0x10), (1, 1, 1), (2, 2, x.tag), (8, 4, rd s (bghB p + R.BGH_RACC_OFF)),
      (16, 4, if wr then rd s (bghB p + R.BGH_RACC_DATA) else 0)])]

/-- The commands of a BGH page. -/
def bghCmds : List CmdDef :=
  [ { cReset with fin := fun r _ _ => seqs [toIdle r, sndKick] },
    { op := 2, legal := [stIDLE], waits := true, fails := fun s r _ => bghRole s r.inst = 0,
      run := fun r _ => seqs [read fun s => modBgh r.inst (fun x => { x with began := s.now, dark := false }), bghTrain r.inst], ready := fun _ _ _ => false },
    { (cDrain (fun s r _ => (bghOf s r.inst).frame.isNone)) with fin := fun r _ _ => seqs [toIdle r, sndKick] },
    { cClear with run := fun r _ => bghClear r.inst },
    { op := 0x10, legal := [stRUN, stFAULT], waits := true, run := fun r _ => bghTrain r.inst, ready := fun s r _ => bghLink s r.inst = 4 },
    simpleCmd 0x11 [stIDLE, stRUN, stDRAIN, stFAULT] (fun r => zeroRegs r (regRun (R.BGH_CNT 0) 8 ++ [R.BGH_LOST])),
    { op := 0x12, legal := [stRUN], waits := true, argOk := fun _ _ a => a = 0 || a = 0x100, run := fun r a => remoteSend r.inst a, ready := fun _ _ _ => false } ]

/-- BGH_FSEQ is writable for role down only (R448). -/
def bghCheck (s : State) (p o : Nat) : Nat := if o = R.BGH_FSEQ ∧ bghRole s p ≠ 2 then 2 else 0

end Sys2Proof.Machine
end

