-- ==== Sys2Proof/Machine/HifCtl.lean ====
section
/-! DEFINITION. Sys2Proof/Machine/HifCtl.lean: the host link, device memory through BAR2, the copy queues' commands, and what writes to
the HIF and EVQ pages are checked for (R459 to R475, R489 to R491). -/
namespace Sys2Proof.Machine
open Sys2Proof

/-! ## The link (R459, R462, R463) -/

/-- Does the configuration space answer: the link is up and Xazara has run (R542 step 6, R544)? -/
def cfgAnswers (s : State) : Bool := linkUp s && decide (fld s (trkB + R.TRK_FW_STATE) 7 0 ≥ 2)
/-- May the link train to this rate code, width and mode, with this highest common rate? (R459) -/
def linkOk (rate width : Nat) (fm : Bool) (top : Nat) : Bool :=
  decide (1 ≤ rate ∧ rate ≤ top ∧ top ≤ 4) && (width = 4 || width = 8 || width = 16) && (fm || decide (rate ≤ 2))
/-- HIF_LINK after a training; retrainings are counted. -/
def setHifLink (rate width : Nat) (fm : Bool) (top : Nat) (again : Bool) : Upd := read fun s =>
  let n := fld s (hifB + R.HIF_LINK) 15 0
  setReg (hifB + R.HIF_LINK) (rate * 2 ^ 29 + width * 2 ^ 24 + b2n fm * 2 ^ 23 + top * 2 ^ 20 + min (n + b2n again) 0xFFFF)

/-- Is a read of host memory outstanding for the copy? -/
def Copy.reading (c : Copy) : Bool := c.since.isSome
/-- The configuration space returns to its reset values, BAR2's size with it (R462, R464). -/
def cfgReset : Upd := seqs [act .cfgClear, setReg (hifB + R.HIF_WIN_SIZE) 28]
/-- Discard what is outstanding towards the host; each requester is told as by a timeout (R462). -/
def dropOutstanding (burst : Upd) : Upd := read fun s =>
  let l := s.hif.copies.filter Copy.reading
  seqs [modHif (fun h => { h with stale := [] }),
    each l (fun c => read fun t => seqs [setCopy c.q (some { c with since := none }),
      copyAbandon evt 3 { c with since := none } (rd t (hifB + R.CQ_CONS c.q) + 1), setFld (hifB + R.CQ_CTRL c.q) 1 1 1]),
    when (!l.isEmpty) (raise hifR 4 0), burst]
/-- The link goes down (R462, R490, R505). -/
def linkDown (burst : Upd) : Upd := read fun s => seqs [
  setFld (hifB + R.HIF_LINK) 31 23 0, dropOutstanding burst, cfgReset,
  when (pgState s hifR = stRUN) (raise hifR 0 0)]

/-! ## Device memory through BAR2 (R465 to R467) -/

/-- Does a byte read as it stands: its slice answers, and its codeword holds no poison? -/
def byteGood (s : State) (a : Nat) : Bool := reach s a = .ok && !cwPoison s (a / 32)
/-- What a host read of `n` bytes returns; poison and dead bytes are 0 (R467, R584). -/
def bar2Data (s : State) (dpa n : Nat) : Nat := ofBytes ((List.range n).map (fun i => if byteGood s (dpa + i) then memByte s (dpa + i) else 0))
/-- The first dead granule of a range whose site is not enabled is reported (R272). -/
def reportDead (org dpa n : Nat) (isRead : Bool) : Upd := read fun s =>
  onSome ((granules dpa (max n 1)).find? (fun x => decide (reach s x = .dead))) (fun x => deadDpa (max x dpa) org isRead)

/-- The completion of a BAR2 read that found its tiles (R467). -/
def bar2Reply (org dpa n : Nat) : Upd := read fun s =>
  let good := (granules dpa (max n 1)).all (fun x => decide (reach s x = .ok)) && !rangePoison s dpa n
  seqs [reportDead org dpa n true,
    if good then act (.out (.bar2Cpl dpa n (bar2Data s dpa n) 0))
    else seqs [bump (hifB + R.HIF_CNT_POISON_OUT) 1,
      if fld s (hifB + R.HIF_CTRL) 1 1 = 1 then act (.out (.bar2Cpl dpa n (bar2Data s dpa n) 1)) else act (.out (.bar2Cpl dpa n 0 2)),
      raise hifR 3 0]]

/-- The addresses that a write with byte enables `be` writes in a codeword. -/
def cwEnabled (dpa n be cw : Nat) : List Nat :=
  ((List.range 32).map (· + cw * 32)).filter (fun a => decide (dpa ≤ a ∧ a < dpa + n) && bit be (a - dpa))
/-- One codeword's share of a BAR2 write: poison where EP was set; a whole codeword replaces poison, a part leaves it (R274, R467). -/
def bar2Cw (dpa n be data : Nat) (ep : Bool) (cw : Nat) : Upd := read fun s =>
  let l := cwEnabled dpa n be cw
  if l.isEmpty then skip
  else if ep then cwPoisonWrite cw
  else when (l.length = 32 || !cwPoison s cw) (seqs [when (l.length = 32) (act (.poison cw false)),
    each l (fun a => act (.mem a (BitVec.ofNat 8 (data / 256 ^ (a - dpa)))))])
/-- A BAR2 write that found its tiles; what goes to a dead DPA is discarded (R467). -/
def bar2Store (org dpa n be data : Nat) (ep : Bool) : Upd := read fun s =>
  seqs [reportDead org dpa n false, each ((cwsOf dpa n).filter (cwAlive s)) (bar2Cw dpa n be data ep),
    when ep (seqs [bump (hifB + R.HIF_CNT_POISON_IN) 1, raise hifR 2 org])]

/-! ## What writes are checked for -/

/-- The copy-queue register at offset `o`: queue and offset within it. -/
def cqReg (o : Nat) : Option (Nat × Nat) := if 0x200 ≤ o ∧ o < 0x280 then some ((o - 0x200) / 0x20, (o - 0x200) % 0x20) else none
/-- The ring register at offset `o`: ring and offset within it. -/
def erReg (o : Nat) : Option (Nat × Nat) := if 0x400 ≤ o ∧ o < 0xC00 then some ((o - 0x400) / 0x20, (o - 0x400) % 0x20) else none
/-- Base, size or shadow of a ring: the offsets a running ring keeps (R489, R491). -/
def ringFixed (k : Nat) : Bool := k = 0 || k = 4 || k = 8 || k = 0x14 || k = 0x18

/-- Checks of HIF: the window's place, and the copy queues (R465, R472, R489). -/
def hifCheck (s : State) (o new : Nat) : Nat :=
  let w := fld s (hifB + R.HIF_WIN_SIZE) 4 0
  if o = R.HIF_WIN_BASE_LO ∧ new % 2 ^ w ≠ 0 then 1
  else if o = R.HIF_WIN_BASE_HI ∧ new * 2 ^ 32 % 2 ^ w ≠ 0 then 1
  else match cqReg o with
    | none => 0
    | some (q, k) =>
      if ringFixed k && bit (rd s (hifB + R.CQ_CTRL q)) 0 then 2
      else if k = 0xC then
        let c := rd s (hifB + R.CQ_CONS q)
        let ahead (x : Nat) : Nat := (x + 2 ^ 32 - c) % 2 ^ 32
        if ahead new < ahead (rd s (hifB + R.CQ_PROD q)) ∨ 2 ^ fld s (hifB + R.CQ_SIZE q) 4 0 < ahead new then 1 else 0
      else 0

/-- Checks of EVQ: a running ring's place, and ER_CONS between its old value and ER_PROD (R482, R491). -/
def evqCheck (s : State) (o new : Nat) : Nat :=
  match erReg o with
  | none => 0
  | some (n, k) =>
    let on := bit (rd s (evqB + R.ER_CTRL n)) 0
    if ringFixed k && on then 2
    else if k = 0x10 ∧ !(!on && new = 0) then
      let c := rd s (evqB + R.ER_CONS n)
      if (rd s (evqB + R.ER_PROD n) + 2 ^ 32 - c) % 2 ^ 32 < (new + 2 ^ 32 - c) % 2 ^ 32 then 1 else 0
    else 0
/-- May ER_PROD be written with `v`? A write of 0 while its ring's en is 0 (R491). -/
def erProdOk (s : State) (r : Page.Ref) (o v : Nat) : Bool :=
  match r.t, erReg o with
  | .EVQ, some (n, 0xC) => v = 0 && !bit (rd s (evqB + R.ER_CTRL n)) 0
  | _, _ => false

/-- After a write to a ring's ER_PROD, ER_CONS or ER_CTRL: held records go, and messages fall due (R482 to R484). -/
def evqHook (o : Nat) : Upd :=
  onSome (erReg o) (fun x => when (x.2 = 0xC || x.2 = 0x10 || x.2 = 0x1C)
    (seqs [read fun s => releaseRing x.1 s.evq.hold.length, msixCheck x.1]))

/-! ## Commands -/

/-- The commands of the HIF page (R489). A retraining ends when the link is up again: PCIE_LINK_UP ends it. -/
def hifCmds : List CmdDef :=
  [ { cReset with legal := [stIDLE, stRUN, stFAULT] }, cStart, cClear,
    { op := 0x10, legal := [stIDLE, stRUN, stFAULT], waits := true, argOk := fun _ _ a => a < 4,
      run := fun r a => seqs [cqEmpty evt a, setFld (Page.base r + R.CQ_CTRL a) 1 1 0],
      ready := fun s _ a => !s.hif.stale.any (·.1 = a) },
    { op := 0x11, legal := [stRUN], waits := true, argOk := fun _ _ a => decide (1 ≤ a ∧ a ≤ 4), ready := fun _ _ _ => false },
    simpleCmd 0x12 [stIDLE, stRUN, stFAULT] (fun r => zeroRegs r (regRun R.HIF_CNT_BAR0_RD 8)) ]

/-- The commands of the EVQ page (R491). -/
def evqCmds : List CmdDef :=
  [ { cReset with legal := [stIDLE, stRUN, stFAULT] }, { cStart with run := fun r _ => seqs [setState r stRUN, releaseAll] }, cClear ]

end Sys2Proof.Machine
end

