-- ==== Sys2Proof/Machine/MvCtl.lean ====
section
/-! DEFINITION. Sys2Proof/Machine/MvCtl.lean: the words of the MV instructions, what refuses them, and how the MV queue starts
them (R186 to R188, R196 to R206, R223 to R230). -/
namespace Sys2Proof.Machine
open Sys2Proof

/-- Raise a source of the MXU page. -/
def mxuFault (g n : Nat) : Upd := raise ⟨.MXU, g⟩ n 0
abbrev vPoisonW : Nat := 12
abbrev vPoisonX : Nat := 13
abbrev vExc : Nat := 14
abbrev vSeq : Nat := 16
abbrev vAddr : Nat := 17
abbrev vTime : Nat := 18

/-! ## The vector word (R188, R199) -/

abbrev vwPitch (b : Nat) : Nat := bits b 63 48 * 32
abbrev vwScalePitch (b : Nat) : Nat := bits b 47 36
abbrev vwLen (b : Nat) : Nat := bits b 35 20
abbrev vwFmt (b : Nat) : Nat := bits b 19 16
/-- Vectors. -/
def vwCount (b : Nat) : Nat := bits b 2 0 + 1
/-- Does MVSET break a field rule? -/
def vwBad (b : Nat) : Bool :=
  bits b 15 3 ≠ 0 || vwPitch b = 0 || vwLen b = 0 || ! [1, 2, 3, 4, 5, 6, 0xA].contains (vwFmt b)
    || (!scaled (vwFmt b) && vwScalePitch b ≠ 0)
/-- Does every vector and scale row lie in scratch? -/
def vwAddrOk (s : State) (g : Nat) (o : EOp) : Bool :=
  (List.range (vwCount o.b)).all (fun t =>
    let v := (o.a + t * vwPitch o.b) % 2 ^ 64
    let c := (o.d + t * vwScalePitch o.b) % 2 ^ 64
    eaSpace v = 1 && engEaOk s g v (vwLen o.b * elemBits (vwFmt o.b) / 8) 1
      && (!scaled (vwFmt o.b) || (eaSpace c = 1 && engEaOk s g c ((vwLen o.b + 31) / 32) 1)))

/-! ## The run word (R186, R187, R200, R223) -/

abbrev rwFirst (b : Nat) : Nat := bits b 63 48
abbrev rwFmt (b : Nat) : Nat := bits b 19 16
abbrev rwSparse (b : Nat) : Nat := bits b 23 21
abbrev rwBank (b : Nat) : Nat := bits b 1 1
/-- Indices of a run. -/
def rwCount (b : Nat) : Nat := bits b 47 32 + 1
/-- N and M of a sparse code. -/
def nmOf (sp : Nat) : Nat × Nat := match sp with | 1 => (2, 4) | 2 => (1, 4) | 3 => (2, 8) | 4 => (4, 8) | _ => (1, 1)
/-- Outputs of a group (R184). -/
def rwOuts (b : Nat) : Nat := 2048 / elemBits (rwFmt b)
/-- Does the run break a field rule, its format pair or its alignment? -/
def rwBad (vec b : Nat) : Bool :=
  let (n, m) := nmOf (rwSparse b)
  let al := if scaled (rwFmt b) then 32 * m / n else m
  bits b 31 24 ≠ 0 || bits b 15 9 ≠ 0 || bits b 7 2 ≠ 0 || decide (rwSparse b > 4)
    || ! [1, 2, 3, 4, 5, 6, 9, 0xA, 0xB].contains (rwFmt b) || decide (isInt (rwFmt b) ≠ isInt (vwFmt vec))
    || decide (rwFirst b + rwCount b > vwLen vec) || rwFirst b % al ≠ 0 || rwCount b % al ≠ 0
/-- Scale-record lines of a run. -/
def rwScaleLines (b : Nat) : Nat := if !scaled (rwFmt b) then 0 else mvLines b / 32 * (rwOuts b / 256)
/-- Do `n` bytes at `ea` lie in the core's own slice? -/
def ownSlice (g ea n : Nat) : Bool := decide (ea < 2 ^ 41) && dpaCore ea = g && decide (dpaOff ea + n ≤ 2 ^ 29)
/-- Do `n` bytes at `ea` lie in the core's own slice or scratch? (R225) -/
def ownPlace (s : State) (g ea n : Nat) : Bool := ownSlice g ea n || (eaSpace ea = 1 && engEaOk s g ea n 1)

/-! ## The store word (R202, R203) -/

/-- Bytes of a token row of MVST. -/
def swRow (b : Nat) : Nat := ((bits b 9 0 + 1) * elemBits (bits b 19 16) + 7) / 8
/-- Does MVST break a field rule? -/
def msBad (b : Nat) : Bool :=
  bits b 63 40 ≠ 0 || bits b 23 21 ≠ 0 || bits b 15 14 ≠ 0 || decide (bits b 9 0 > 511)
    || ! [0, 1, 2, 3, 4, 5, 9].contains (bits b 19 16) || decide (bits b 39 24 < swRow b)
/-- Do its rows and scale bytes lie in device memory or scratch? -/
def msAddrOk (s : State) (g : Nat) (o : EOp) : Bool :=
  let p := bits o.b 39 24
  p % 32 = 0 && (List.range (bits o.b 13 11 + 1)).all (fun t => engEaOk s g ((o.a + t * p) % 2 ^ 64) (swRow o.b) 1
    && (!scaled (bits o.b 19 16) || engEaOk s g ((o.d + 16 * t) % 2 ^ 64) ((bits o.b 9 0 + 32) / 32) 1))

/-! ## Starting (R201, R205, R206) -/

/-- A run aborts: its bank loses its mark, and it is recorded (R207). -/
def mvAbort (g src k : Nat) (o : EOp) : Upd := read fun s =>
  let m := mvOf s g
  seqs [setMv g { m with run := if (m.run.map (·.op)) = some o then none else m.run, valid := m.valid.filter (· ≠ rwBank o.b) },
    setReg (mxuB g + R.MXU_MV_ABORT) (src % 256 * 2 ^ 24 + k % 65536 * 2 ^ 8 + rwBank o.b * 2 ^ 6 + o.th % 64),
    bump (mxuB g + R.MXU_MV_CNT_ABORT) 1, engDone g o]

/-- MVRUN starts, or aborts at once; the metadata is that of the latest MVMETA (R201, R225). -/
def startRun (g : Nat) (o : EOp) : Upd := read fun s =>
  let m := mvOf s g
  let fail (n : Nat) : Upd := seqs [mvAbort g n (rwFirst o.b) o, mxuFault g n]
  let needs := rwSparse o.b ≠ 0 || bits o.b 20 20 = 1
  match m.vec with
  | none => fail vSeq
  | some v =>
    if rwBad v.b o.b || (needs && m.md.isNone) then fail vSeq
    else if !ownSlice g o.a 256 || (scaled (rwFmt o.b) && !ownSlice g o.d (rwScaleLines o.b * 256))
        || (bits o.b 20 20 = 0 && !ownSlice g o.a (mvLines o.b * 256)) then fail vAddr
    else setMv g { m with run := some { op := { o with time := s.now }, vec := v, md := if needs then m.md else none } }

/-- Start what the head of the queue holds, and go on while something starts: at most `fuel` instructions. -/
def mvAdvance (g : Nat) : Nat → Upd
  | 0 => skip
  | fuel + 1 => read fun s =>
    let m := mvOf s g
    let st := pgState s ⟨.MXU, g⟩
    match m.q with
    | [] => skip
    | o :: q =>
      let bank := if o.op = 0x51 then rwBank o.b else bits o.b 10 10
      let runOn := match m.run with | some r => rwBank r.op.b = bank | none => false
      let storeOn := match m.store with | some r => bits r.b 10 10 = bank | none => false
      let go := match o.op with
        | 0x50 | 0x54 => m.run.isNone
        | 0x51 => m.run.isNone && !storeOn
        | _ => m.store.isNone && !runOn
      let pop : Upd := setMv g { m with q := q }
      when ((st = stRUN || st = stDRAIN) && go && !attClaims s g 0 && !clockLost s ⟨.MXU, g⟩) (seqs [pop, wakeMxu g,
        (match o.op with
          | 0x50 =>
            if vwBad o.b then seqs [setMv g { m with q := q, vec := none }, engDone g o, mxuFault g vSeq]
            else if !vwAddrOk s g o then seqs [setMv g { m with q := q, vec := none }, engDone g o, mxuFault g vAddr]
            else seqs [setMv g { m with q := q, vec := some o }, engDone g o]
          | 0x54 =>
            if bits o.b 31 0 ≠ 0 ∨ bits o.b 63 32 % 32 ≠ 0 then seqs [setMv g { m with q := q, md := none }, engDone g o, mxuFault g vSeq]
            else if !ownPlace s g o.a 1 then seqs [setMv g { m with q := q, md := none }, engDone g o, mxuFault g vAddr]
            else seqs [setMv g { m with q := q, md := some o }, engDone g o]
          | 0x51 => startRun g o
          | _ =>
            if o.op = 0x52 && msBad o.b then seqs [engDone g o, mxuFault g vSeq]
            else if o.op = 0x53 && bits o.b 19 16 ≠ 0 then seqs [engDone g o, mxuFault g vSeq]
            else if o.op = 0x52 && !msAddrOk s g o then seqs [engDone g o, mxuFault g vAddr]
            else setMv g { m with q := q, store := some o }),
        mvAdvance g fuel])

/-- Start whatever the MV queue can start. -/
def mvGo (g : Nat) : Upd := mvAdvance g 17

end Sys2Proof.Machine
end

