-- ==== Sys2Proof/Machine/SapAlu.lean ====
section
/-! DEFINITION. Sys2Proof/Machine/SapAlu.lean: micro-instructions of the sap units: their fields, which are legal, and what the
arithmetic ones compute (R304 to R310). -/
namespace Sys2Proof.Machine
open Sys2Proof

/-! ## Fields (R305) -/

/-- The opcode. -/
def sOp (w : Nat) : Nat := bits w 31 26
/-- The ATOM marker. -/
def sAtom (w : Nat) : Bool := bit w 25
/-- d, or v of form M. -/
def sD (w : Nat) : Nat := bits w 24 21
/-- a. -/
def sA (w : Nat) : Nat := bits w 20 17
/-- b. -/
def sB (w : Nat) : Nat := bits w 16 13
/-- c. -/
def sC (w : Nat) : Nat := bits w 12 9
/-- t. -/
def sT (w : Nat) : Nat := bits w 8 7
/-- sub. -/
def sSub (w : Nat) : Nat := bits w 6 3
/-- imm17 of form I. -/
def sImm (w : Nat) : Int := sext 17 w
/-- imm17 of form M, or zero-extended. -/
def sUImm (w : Nat) : Nat := bits w 16 0
/-- The target word of form J. -/
def sTarget (w : Nat) : Nat := bits w 10 0

/-- Form R: its zero field, and the types it may have. -/
def legalR (w : Nat) (ts : List Nat) : Bool := bits w 2 0 = 0 && ts.contains (sT w)
/-- Form J: its zero fields. -/
def legalJ (w : Nat) : Bool := bits w 24 21 = 0 && bits w 16 11 = 0

/-- Is a micro-instruction legal (R306 to R308, R310)? -/
def sLegal (w : Nat) : Bool :=
  match sOp w with
  | 0x00 => bits w 24 0 = 0
  | 0x01 | 0x09 | 0x0A | 0x0B | 0x13 | 0x2A | 0x2B | 0x2E => legalR w [0]
  | 0x02 | 0x03 | 0x04 | 0x05 => legalJ w
  | 0x08 | 0x0C | 0x0D | 0x0E | 0x0F | 0x1A => true
  | 0x10 => sA w = 0
  | 0x11 => sA w = 0 && decide (sUImm w ≤ 15)
  | 0x12 => sA w = 0 && decide (sUImm w ≤ 3)
  | 0x14 => legalR w [0] && decide (sSub w ≤ 8)
  | 0x18 | 0x19 => sD w % 2 = 0
  | 0x20 | 0x21 | 0x22 | 0x24 | 0x25 => legalR w [0, 1, 2]
  | 0x23 | 0x26 | 0x27 => legalR w [0, 1]
  | 0x28 => legalR w [0, 1] && decide (sSub w ≤ 10)
  | 0x29 => legalR w [0] && (decide (sSub w ≤ 2) || (decide (sSub w ≤ 6) && sA w % 4 = 0) || (sSub w = 7 && sD w % 4 = 0))
  | 0x2C => legalR w [0, 1] && decide (sSub w ≤ 4)
  | 0x2D => legalR w [0] && decide (sSub w ≤ 2)
  | _ => false

/-! ## Lanes (R302, R305) -/

/-- The 16 words of a vector register. -/
def lanes32 (v : Nat) : List Nat := (List.range 16).map (fun i => v / 2 ^ (32 * i) % 2 ^ 32)
/-- The 32 half-words of a vector register. -/
def lanes16 (v : Nat) : List Nat := (List.range 32).map (fun i => v / 2 ^ (16 * i) % 2 ^ 16)
/-- A BF16 pattern's value. -/
def bf (x : Nat) : Num := Fmt.bf16.decode x
/-- The lanes of a register of type FP32 (0) or BF16 (1) as values. -/
def lanesF (t v : Nat) : List Num := if t = 1 then (lanes16 v).map bf else (lanes32 v).map f32
/-- Values as lanes of a register, each rounded once. -/
def packF (t : Nat) (l : List Num) : Nat := if t = 1 then packBits 16 (l.map Fmt.bf16.encode) else packBits 32 (l.map toF32)

/-- A lane-wise operation on two registers: on values for FP32 and BF16, on words for INT32. -/
def lane2 (t : Nat) (f : Num → Num → Num) (i : Nat → Nat → Nat) (x y : Nat) : Nat :=
  if t = 2 then packBits 32 (List.zipWith i (lanes32 x) (lanes32 y)) else packF t (List.zipWith f (lanesF t x) (lanesF t y))
/-- The larger and the smaller of two INT32 words. -/
def imax (x y : Nat) : Nat := if sext 32 x < sext 32 y then y else x
def imin (x y : Nat) : Nat := if sext 32 y < sext 32 x then y else x
/-- VFMA. -/
def laneFma (t x y z : Nat) : Nat := packF t (List.zipWith (fun (p : Num × Num) c => (p.1.mul p.2).add c) ((lanesF t x).zip (lanesF t y)) (lanesF t z))
/-- A register and an FP32 scalar. -/
def laneS (t : Nat) (f : Num → Num → Num) (x s : Nat) : Nat := packF t ((lanesF t x).map (fun a => f a (f32 s)))

/-! ## Functions (R307) -/

/-- VACT function `sub` of an FP32 pattern. -/
def vact (sub p : Nat) : Nat :=
  match sub with
  | 0 => toF32 (Num.zmax (f32 p) .zero)
  | 1 => Approx.gelu32 p
  | 2 => Approx.silu32 p
  | 3 => Approx.sigmoid32 p
  | 4 => Approx.tanh32 p
  | 5 => Approx.exp32 p
  | 6 => Approx.recip32 p
  | 7 => Approx.rsqrt32 p
  | 8 => mul32 p p
  | 9 => toF32 (f32 p).abs
  | _ => toF32 (f32 p).neg
/-- VACT on a register. -/
def laneAct (t sub v : Nat) : Nat := packF t ((lanesF t v).map (fun x => f32 (vact sub (toF32 x))))

/-- FP32 to INT32, RNE, saturating; of a NaN it is open. -/
def toInt32 (p : Nat) : Nat :=
  match f32 p with
  | .nan => Config.approx 10 p % 2 ^ 32
  | .inf n => if n then 2 ^ 31 else 2 ^ 31 - 1
  | .fin n m e =>
    let r := Num.rneTo m e 0
    if n then wrap 32 (-(min r (2 ^ 31) : Nat)) else min r (2 ^ 31 - 1)

/-- FOP `sub` on x[a] and x[b]. -/
def fop (sub x y : Nat) : Nat :=
  match sub with
  | 0 => add32 x y
  | 1 => sub32 x y
  | 2 => mul32 x y
  | 3 => toF32 ((f32 x).zmax (f32 y))
  | 4 => toF32 ((f32 x).zmin (f32 y))
  | 5 => Approx.recip32 x
  | 6 => Approx.rsqrt32 x
  | 7 => toF32 (Num.ofInt (sext 32 x))
  | _ => toInt32 x

/-- The exact sum of values, from the first. -/
def exactSum : List Num → Num
  | [] => .zero
  | x :: l => l.foldl Num.add x
/-- The extreme of values under `f`, from the first. -/
def extreme (f : Num → Num → Num) : List Num → Num
  | [] => .zero
  | x :: l => l.foldl f x

/-- PACC `sub`: x combined with the reduction of lanes, a sum formed exactly and rounded once before it is added (R309). -/
def pacc (sub x : Nat) (l : List Num) : Nat :=
  match sub with
  | 0 => add32 x (toF32 (exactSum l))
  | 1 => add32 x (toF32 (exactSum (l.map (fun a => a.mul a))))
  | 2 => toF32 ((f32 x).zmax (extreme Num.zmax l))
  | 3 => toF32 ((f32 x).zmin (extreme Num.zmin l))
  | _ => toF32 ((f32 x).zmax (extreme Num.zmax (l.map Num.abs)))

/-- Combine a step's partials in their order (R322): each addition rounded; open where the units sent different operations. -/
def redCombine (op : Nat) (same : Bool) (input : Nat) : List Nat → Nat
  | [] => 0
  | x :: l =>
    if !same then input % 2 ^ 32
    else match op with
      | 0 => l.foldl add32 x
      | 1 => toF32 ((l.map f32).foldl Num.zmax (f32 x))
      | _ => toF32 ((l.map f32).foldl Num.zmin (f32 x))

/-! ## Conversions (R308) -/

/-- The largest magnitude of a block, NaN if it holds one. -/
def blockMax (l : List Num) : Num := extreme Num.max (l.map Num.abs)
/-- The scale byte of a block of 32 for VCVT 3 to 6. -/
def cvtScale (sub : Nat) (l : List Num) : Nat :=
  match sub with
  | 3 => mxScale 5 l
  | 4 => mxScale 9 l
  | 5 => Fmt.e4m3.encode ((blockMax l).divWide (.ofInt 6))
  | _ => Fmt.e4m3.encode ((blockMax l).divWide (.ofInt 7))
/-- An element of a block under its scale byte. -/
def cvtElem (sub sc : Nat) (x : Num) : Nat :=
  match sub with
  | 3 => mxElem 5 sc x
  | 4 => mxElem 9 sc x
  | _ =>
    let c := if sub = 5 then 0xD else 0xE
    let s := Fmt.e4m3.decode sc
    if s.isNan then Config.approx 9 (toF32 x) % 16 else if s.isZero then 0 else elemEnc c (x.divWide s)
/-- 64 values as elements with their two scale bytes. -/
def cvtPack (sub : Nat) (l : List Num) : Nat × Nat :=
  let s0 := cvtScale sub (l.take 32)
  let s1 := cvtScale sub (l.drop 32)
  (packBits (if sub = 3 then 8 else 4) ((l.take 32).map (cvtElem sub s0) ++ (l.drop 32).map (cvtElem sub s1)), s0 + 256 * s1)
/-- 64 E4M3 elements with E8M0 scales as four FP32 registers. -/
def cvtOpen (v sc : Nat) : List Nat :=
  let val (i : Nat) : Num := (Fmt.e4m3.decode (v / 256 ^ i % 256)).mul (e8m0 (sc / 256 ^ (i / 32)))
  (List.range 4).map (fun j => packBits 32 ((List.range 16).map (fun i => toF32 (val (16 * j + i)))))

end Sys2Proof.Machine
end

