-- ==== Sys2Proof/Machine/AttNum.lean ====
section
/-! DEFINITION. Sys2Proof/Machine/AttNum.lean: the arithmetic of attention and of the KV cache: rotary encoding, scores, the fold of
a block, bounds and key summaries, quantisation, and SipHash-2-4 (R338 to R352, R365). -/
namespace Sys2Proof.Machine
open Sys2Proof

/-! ## Rotary encoding (R339, R340) -/

/-- Rounded to FP64. -/
def toF64 (x : Num) : Num := Fmt.f64.decode (Fmt.f64.encode x)
/-- The series of atanh: `t` and its square in units of 2^-256. -/
def atanhSum (t2 : Nat) : Nat → Nat → Nat → Nat
  | 0, _, _ => 0
  | fuel + 1, n, t => t / (2 * n + 1) + atanhSum t2 fuel (n + 1) (t * t2 / 2 ^ 256)
/-- ln of m * 2^e in units of 2^-256, m nonzero. -/
def lnFix (m : Nat) (e : Int) : Int :=
  let p := 2 ^ Nat.log2 m
  let t := (m - p) * 2 ^ 256 / (m + p)
  (e + Nat.log2 m) * (Approx.ln2 : Int) + 2 * (atanhSum (t * t / 2 ^ 256) 90 0 t : Int)
/-- base^(-2i/d) of a positive base, rounded to FP64. -/
def ropePow (m : Nat) (e : Int) (i d : Nat) : Num :=
  let v := -(2 * (i : Int) * lnFix m e / (d : Int))
  toF64 (Approx.exp (.fin (decide (v < 0)) v.natAbs (-256)))
/-- θ of pair `i`: each step rounded to FP64; none where base or f is no positive, finite number. -/
def ropeAngle (pos f base i d : Nat) : Num :=
  match f32 base with
  | .fin false m e => if m = 0 then .nan else toF64 ((toF64 ((Num.ofInt pos).mul (f32 f))).mul (ropePow m e i d))
  | _ => .nan

/-- 2π in units of 2^-512. -/
def twoPi : Nat := 84243741786901272438893642969118776210511994626978509211189370176207611564552197839587770744495452692887542593832666970654585833251198323084707548407665199
/-- The series of cos (from k = 0) and sin (from k = 1) of x in units of 2^-512. -/
def trigSum (x : Int) : Nat → Nat → Int → Int → Int
  | 0, _, _, acc => acc
  | fuel + 1, k, t, acc => trigSum x fuel (k + 2) (-t * x / 2 ^ 512 * x / 2 ^ 512 / ((k + 1) * (k + 2) : Nat)) (acc + t)
/-- cos and sin of an angle as FP32 patterns, each within 1 ulp; of no finite angle they are unstated. -/
def trig (a : Num) : Nat × Nat :=
  let p := Fmt.f64.encode a
  match a with
  | .fin n m e =>
    let x : Nat := (if -512 ≤ e then m * 2 ^ (e + 512).toNat else m / 2 ^ (-512 - e).toNat) % twoPi
    let c := trigSum x 100 0 (2 ^ 512) 0
    let s := trigSum x 100 1 x 0
    (Approx.within 11 1 p (.fin (decide (c < 0)) c.natAbs (-512)), Approx.within 12 1 p (.fin (decide (s < 0) != n) s.natAbs (-512)))
  | _ => (Approx.unstated 11 p, Approx.unstated 12 p)
/-- A row of FP32 patterns rotated by its position. -/
def ropeRow (pos f base d : Nat) (x : List Nat) : List Nat :=
  (List.range (d / 2)).flatMap (fun i =>
    let (c, s) := trig (ropeAngle pos f base i d)
    let a := (x[2 * i]?).getD 0
    let b := (x[2 * i + 1]?).getD 0
    [sub32 (mul32 a c) (mul32 b s), add32 (mul32 a s) (mul32 b c)])

/-- The FP32 patterns of `n` elements of a row held as a number: FP32 (0) or BF16 (1). -/
def rowElems (fmt n x : Nat) : List Nat :=
  (List.range n).map (fun i => if fmt = 1 then x / 2 ^ (16 * i) % 2 ^ 16 * 2 ^ 16 else x / 2 ^ (32 * i) % 2 ^ 32)
/-- A list cut into runs of 32. -/
def groups32 (n : Nat) (l : List α) : List (List α) := (List.range ((n + 31) / 32)).map (fun g => (l.drop (32 * g)).take 32)
/-- A query row in its engine's form: BF16 for the MV path, MXFP8 E4M3 for the array (R347). -/
def queryForm (eng d : Nat) (x : List Nat) : List Num :=
  if eng = 0 then x.map (fun v => Fmt.bf16.decode (Fmt.bf16.encode (f32 v)))
  else (groups32 d (x.map f32)).flatMap (fun g =>
    let sc := mxScale 5 g
    g.map (fun v => (Fmt.e4m3.decode (mxElem 5 sc v)).mul (e8m0 sc)))

/-! ## Blocks (R341 to R344) -/

/-- Bytes of `n` elements of a KV format. -/
def kvBytes (fmt n : Nat) : Nat := n * elemBits fmt / 8
/-- Where a block's elements begin. -/
def kvP (d : Nat) : Nat := (96 + 6 * d + 255) / 256 * 256
/-- Bytes of a block. -/
def kvSize (fmt d : Nat) : Nat := kvP d + 2 * kvBytes fmt (64 * d)
/-- Where the K scales begin; the V scales lie 2d bytes on. -/
def kvScales (d : Nat) : Nat := 96 + 2 * d
/-- Is a format code one of the KV cache? -/
def kvFmtOk (c : Nat) : Bool := c = 0xC || c = 0xD || c = 0xE

/-- Element `i` of token `j`, dequantised, from the elements and scales held as numbers. -/
def kvVal (fmt d scales elems j i : Nat) : Num :=
  (elemAt fmt elems (j * d + i)).mul (scaleVal fmt (byteAt scales (j * (d / 32) + i / 32)))

/-- A block header (R343). -/
structure BlkHdr where
  state : Nat
  fmt : Nat
  d32 : Nat
  valid : Nat
  tent : Nat
  layer : Nat
  head : Nat
  seg0 : Nat
  pos0 : Nat
  bmask : Nat
  sum : Nat
  id : Nat
deriving DecidableEq, Repr
/-- `n` bytes at byte `a` of a record. -/
def fieldAt (r a n : Nat) : Nat := r / 256 ^ a % 256 ^ n
/-- The fields of a header's 64 bytes. -/
def hdrOf (h : Nat) : BlkHdr :=
  { state := fieldAt h 0 1, fmt := fieldAt h 1 1, d32 := fieldAt h 2 1, valid := fieldAt h 3 1, tent := fieldAt h 4 1, layer := fieldAt h 6 2,
    head := fieldAt h 8 1, seg0 := fieldAt h 10 2, pos0 := fieldAt h 12 4, bmask := fieldAt h 16 8, sum := fieldAt h 24 8, id := fieldAt h 32 4 }
/-- A header's 64 bytes. -/
def BlkHdr.bytes (h : BlkHdr) : List Byte :=
  toBytes 1 h.state ++ toBytes 1 h.fmt ++ toBytes 1 h.d32 ++ toBytes 1 h.valid ++ toBytes 1 h.tent ++ toBytes 1 0 ++ toBytes 2 h.layer
    ++ toBytes 1 h.head ++ toBytes 1 0 ++ toBytes 2 h.seg0 ++ toBytes 4 h.pos0 ++ toBytes 8 h.bmask ++ toBytes 8 h.sum ++ toBytes 4 h.id
    ++ List.replicate 28 0
/-- Segment and position of token `i` (R344). -/
def BlkHdr.place (h : BlkHdr) (i : Nat) : Nat × Nat :=
  let on := (List.range (i + 1)).filter (fun b => b ≠ 0 && bit h.bmask b)
  ((h.seg0 + on.length) % 2 ^ 16, match on.getLast? with | none => h.pos0 % 2 ^ 20 + i | some b => i - b)

/-! ## Scores (R338, R348) -/

/-- Does a mask mode allow a key? -/
def keyAllowed (mask pre : Nat) (q k : Nat × Nat) : Bool :=
  q.1 = k.1 && (match mask with
    | 0 => decide (k.2 ≤ q.2)
    | 1 => true
    | _ => decide (k.2 ≤ q.2) || decide (k.2 < pre))
/-- The linear bias of a key, rounded (R339). -/
def keyBias (slope qpos kpos : Nat) : Nat := toF32 ((f32 slope).neg.mul (.ofInt ((qpos : Int) - kpos)))
/-- The dot product: each 32 dimensions exactly and rounded once, then added in order. -/
def dotKey (d : Nat) (q k : List Num) : Nat :=
  let parts := ((groups32 d q).zip (groups32 d k)).map (fun g => toF32 (Num.sum (List.zipWith Num.mul g.1 g.2)))
  match parts with | [] => 0 | x :: l => l.foldl add32 x
/-- A score. -/
def scoreOf (enc d scale slope qpos kpos : Nat) (q k : List Num) : Nat :=
  let s := toF32 ((f32 (dotKey d q k)).mul (f32 scale))
  if enc = 2 then add32 s (keyBias slope qpos kpos) else s

/-! ## Folding a block (R349, R350) -/

abbrev negInf32 : Nat := 0xFF800000
abbrev nan32 : Nat := 0x7FC00000
/-- The largest of some scores, NaN if one is. -/
def maxScore (l : List Nat) : Nat := toF32 ((l.map f32).foldl Num.max (.inf true))
/-- exp(m − mn), 0 where m is −Inf. -/
def expDown (m mn : Nat) : Nat := if m = negInf32 then 0 else Approx.exp32 (sub32 m mn)
/-- The contribution of 32 tokens to dimension `i`: their weights and V values on the MV path, and on the array weights and scales
together in MXFP8. -/
def vSum (eng fmt d vs ve i : Nat) (p : List (Nat × Nat)) : Num :=
  if eng = 0 then Num.sum (p.map (fun e => (Fmt.bf16.decode (Fmt.bf16.encode (f32 e.2))).mul (kvVal fmt d vs ve e.1 i)))
  else
    let x := p.map (fun e => (f32 e.2).mul (scaleVal fmt (byteAt vs (e.1 * (d / 32) + i / 32))))
    let sc := mxScale 5 x
    Num.sum ((p.zip x).map (fun e => ((Fmt.e4m3.decode (mxElem 5 sc e.2)).mul (e8m0 sc)).mul (elemAt fmt ve (e.1.1 * d + i))))
/-- Fold a block into m, l and o: `scores` are the allowed tokens' scores by token number, `n` the block's tokens. -/
def foldBlock (eng fmt d n vs ve : Nat) (scores : List (Nat × Nat)) (m l : Nat) (o : List Nat) : Nat × Nat × List Nat :=
  let mb := maxScore (scores.map (·.2))
  let mn := toF32 ((f32 m).max (f32 mb))
  if (f32 mn).isNan then (nan32, nan32, o.map (fun _ => nan32))
  else if mn = negInf32 then (m, l, o)
  else
    let c := f32 (expDown m mn)
    let p := (List.range n).map (fun j => (j, match scores.lookup j with | some s => Approx.exp32 (sub32 s mn) | none => 0))
    let gs := groups32 n p
    (mn, toF32 (((f32 l).mul c).add (Num.sum (p.map (fun e => f32 e.2)))),
      ((List.range d).zip o).map (fun e =>
        (gs.foldl (fun (a : Nat × Bool) g =>
          (toF32 ((if a.2 then (f32 a.1).mul c else f32 a.1).add (vSum eng fmt d vs ve e.1 g)), false)) (e.2, true)).1))
/-- Fold a raw partial into m, l and o (R352). -/
def foldPartial (mp lp : Nat) (op : List Nat) (m l : Nat) (o : List Nat) : Nat × Nat × List Nat :=
  let mn := toF32 ((f32 m).max (f32 mp))
  if (f32 mn).isNan then (nan32, nan32, o.map (fun _ => nan32))
  else if mn = negInf32 then (m, l, o)
  else
    let c := f32 (expDown m mn)
    let cp := f32 (expDown mp mn)
    let mix (x y : Nat) : Nat := toF32 (((f32 x).mul c).add ((f32 y).mul cp))
    (mn, mix l lp, List.zipWith mix o op)

/-! ## Bounds and summaries (R345, R346) -/

/-- Rounded upward to FP32. -/
def upF32 (x : Num) : Nat :=
  let p := toF32 x
  if (f32 p).lt x then (if p = 0x80000000 then 1 else if bit p 31 then p - 1 else p + 1) else p
/-- The bound of a block for a query row, from the summary held as a number. -/
def blockBound (d sum : Nat) (q : List Num) : Nat :=
  let at_ (b i : Nat) : Num := .ofInt (sext 8 (byteAt sum (b + i)))
  upF32 ((Num.sum (((List.range d).zip q).map (fun e => (e.2.mul (at_ 32 e.1)).max (e.2.mul (at_ (32 + d) e.1))))).mul (e8m0 (byteAt sum 0)))
/-- Rounded to an integer upward and downward. -/
def ceilNum : Num → Int
  | .fin n m e =>
    let q : Nat := if 0 ≤ e then m * 2 ^ e.toNat else m / 2 ^ (-e).toNat
    let rest := e < 0 && m % 2 ^ (-e).toNat ≠ 0
    if n then -(q : Int) else q + b2n rest
  | _ => 0
/-- The floor is minus the ceiling of minus. -/
def floorNum (x : Num) : Int := -ceilNum x.neg
/-- The key summary of `n` committed tokens (R345); with a NaN element its bytes are open. -/
def summaryOf (fmt d n ks ke : Nat) : List Byte :=
  let k (i : Nat) : List Num := (List.range n).map (fun j => kvVal fmt d ks ke j i)
  let all := (List.range d).flatMap k
  let top := all.foldl (fun a x => a.max x.abs) .zero
  let byte : Nat := if top.isNan then Config.approx 14 ke % 256
    else ((List.range 255).find? (fun b => !(Num.mul (.ofInt 127) (e8m0 b)).lt top)).getD 254
  let unit : Num := .pow2 (127 - (byte : Int))
  let ext (f : Num → Num → Num) (r : Num → Int) (i : Nat) : Byte :=
    if top.isNan then BitVec.ofNat 8 (Config.approx 14 (ke + i + 1))
    else match k i with | [] => 0 | x :: l => BitVec.ofNat 8 (wrap 8 (r ((l.foldl f x).mul unit)))
  if n = 0 then List.replicate (32 + 2 * d) 0
  else [BitVec.ofNat 8 byte, BitVec.ofNat 8 n] ++ List.replicate 30 0 ++ (List.range d).map (ext Num.max ceilNum)
    ++ (List.range d).map (ext Num.min floorNum)

/-! ## Quantisation (R342) -/

/-- A row of FP32 patterns as a token's elements and scale bytes in a KV format. -/
def kvQuant (fmt d : Nat) (x : List Nat) : List Byte × List Byte :=
  let sub := if fmt = 0xC then 3 else if fmt = 0xD then 5 else 6
  let gs := groups32 d (x.map f32)
  let scs := gs.map (cvtScale sub)
  let es := (gs.zip scs).flatMap (fun e => e.1.map (cvtElem sub e.2))
  (toBytes (kvBytes fmt d) (packBits (elemBits fmt) es), scs.map (BitVec.ofNat 8))

/-! ## SipHash-2-4 (R365) -/

/-- A 64-bit rotation. -/
def rotl64 (x n : Nat) : Nat := (x * 2 ^ n) % 2 ^ 64 + x / 2 ^ (64 - n)
/-- One round. -/
def sipRound (v : Nat × Nat × Nat × Nat) : Nat × Nat × Nat × Nat :=
  let (v0, v1, v2, v3) := v
  let v0 := (v0 + v1) % 2 ^ 64
  let v1 := rotl64 v1 13 ^^^ v0
  let v0 := rotl64 v0 32
  let v2 := (v2 + v3) % 2 ^ 64
  let v3 := rotl64 v3 16 ^^^ v2
  let v0 := (v0 + v3) % 2 ^ 64
  let v3 := rotl64 v3 21 ^^^ v0
  let v2 := (v2 + v1) % 2 ^ 64
  let v1 := rotl64 v1 17 ^^^ v2
  (v0, v1, rotl64 v2 32, v3)
/-- Take in a word. -/
def sipWord (v : Nat × Nat × Nat × Nat) (w : Nat) : Nat × Nat × Nat × Nat :=
  let x := sipRound (sipRound (v.1, v.2.1, v.2.2.1, v.2.2.2 ^^^ w))
  (x.1 ^^^ w, x.2)
/-- SipHash-2-4 of 8-byte words under a 128-bit key: the last word carries the length. -/
def sipHash (key : Nat) (ws : List Nat) : Nat :=
  let k0 := key % 2 ^ 64
  let k1 := key / 2 ^ 64 % 2 ^ 64
  let v := (ws ++ [8 * ws.length % 256 * 2 ^ 56]).foldl sipWord
    (k0 ^^^ 0x736f6d6570736575, k1 ^^^ 0x646f72616e646f6d, k0 ^^^ 0x6c7967656e657261, k1 ^^^ 0x7465646279746573)
  let f := sipRound (sipRound (sipRound (sipRound (v.1, v.2.1, v.2.2.1 ^^^ 0xFF, v.2.2.2))))
  f.1 ^^^ f.2.1 ^^^ f.2.2.1 ^^^ f.2.2.2

end Sys2Proof.Machine
end

