-- ==== Sys2Proof/Machine/AttCtl.lean ====
section
/-! DEFINITION. Sys2Proof/Machine/AttCtl.lean: the score unit: how it works off its queue, runs and their blocks (R347 to R355,
R373, R374, R377 to R379). -/
namespace Sys2Proof.Machine
open Sys2Proof

abbrev aaPoison : Nat := 20
abbrev aaSeq : Nat := 21
abbrev aaAddr : Nat := 22
abbrev aaHdr : Nat := 23
abbrev aaTime : Nat := 24

/-- Base of a site's KVM page. -/
abbrev kvmB (site : Nat) : Nat := Page.tile .KVM site
/-- Slots of region `c` of a site's pool. -/
def rgnCount (s : State) (site c : Nat) : Nat := fld s (kvmB site + R.KVM_RGN c) 17 0
/-- Bytes of a slot. -/
def slotBytes (s : State) (site : Nat) : Nat := fld s (kvmB site + R.KVM_GEOM) 11 0 * 256
/-- Is a block id one of the site's pool (R357)? -/
def inPool (s : State) (site id : Nat) : Bool := decide (id < 2 ^ 24) && decide (id % 2 ^ 18 < rgnCount s site (id / 2 ^ 18))
/-- Where a block lies (R357). -/
def slotDpa (s : State) (site id : Nat) : Nat :=
  site * 2 ^ 35 + id / 2 ^ 18 % 64 * 2 ^ 29 + fld s (kvmB site + R.KVM_RGN (id / 2 ^ 18 % 64)) 31 19 * 65536 + id % 2 ^ 18 * slotBytes s site

/-- The fields of a list header (R356). -/
structure ListHdr where
  committed : Nat
  tentative : Nat
  entries : Nat
  capacity : Nat
  tentEntries : Nat
  layer : Nat
  head : Nat
  fmt : Nat
  d32 : Nat
  gen : Nat
deriving DecidableEq, Repr
/-- The fields of a list header's 64 bytes. -/
def listOf (h : Nat) : ListHdr :=
  { committed := fieldAt h 0 4, tentative := fieldAt h 4 2, entries := fieldAt h 6 2, capacity := fieldAt h 8 2,
    tentEntries := fieldAt h 10 2, layer := fieldAt h 12 2, head := fieldAt h 14 1, fmt := fieldAt h 15 1, d32 := fieldAt h 16 1,
    gen := fieldAt h 20 4 }
/-- Does a list record lie on a site, up to its entry `n`? -/
def listHere (site l n : Nat) : Bool := decide (l < 2 ^ 41) && dpaSite l = site && dpaSite (l + 64 + 4 * n - 1) = site

/-! ## The end of an instruction -/

/-- The head of the queue is complete; an engine that was claimed goes on. -/
def attPop (g : Nat) (o : EOp) : Upd := read fun s =>
  let x := attOf s g
  let v := match x.work with | some w => w.att % 2 ^ 16 + w.skip % 2 ^ 16 * 2 ^ 16 + w.unsel % 2 ^ 16 * 2 ^ 32 | none => 0
  seqs [setAtt g { x with q := x.q.drop 1, work := none, since := none },
    if o.op = 0x61 then engResult g o v false else engDone g o, wakeAtt g, mvGo g]
/-- The head faults: the run, if one is open, aborts (R377, R379). -/
def attStop (g : Nat) (o : EOp) (n : Nat) : Upd := seqs [runAbort evt g n, attPop g o, mxuFault g n]
/-- A read must wait: remember since when (R379). -/
def attWait (g : Nat) : Upd := read fun s => when (attOf s g).since.isNone (modAtt g (fun x => { x with since := some s.now }))

/-! ## ATQ (R373) -/

/-- Are the fields of an attention record within their values, for this split setting (R347, R373)? -/
def attRecOk (split : Bool) (r : Nat) : Bool :=
  let f (a n lo hi : Nat) : Bool := decide (lo ≤ fieldAt r a n ∧ fieldAt r a n ≤ hi)
  f 0 1 0 2 && f 1 1 0 2 && f 2 1 1 8 && f 3 1 0 1 && f 6 1 0 1 && kvFmtOk (fieldAt r 7 1) && f 24 4 0 (2 ^ 20 - 1) && f 28 1 0 8
    && f 29 1 1 64 && f 30 2 1 256 && fieldAt r 40 4 % 32 = 0 && fieldAt r 44 4 = 0
    && (if fieldAt r 3 1 = 0 then f 4 2 1 8 else f 4 2 1 256 && decide (fieldAt r 4 2 * (32 * fieldAt r 2 1) ≤ 16384) && !split)
/-- Bytes of a query row. -/
def qRowBytes (r : Nat) : Nat := 32 * fieldAt r 2 1 * (if fieldAt r 6 1 = 1 then 2 else 4)
/-- The EA of query row `i`. -/
def qRowEa (r i : Nat) : Nat := (fieldAt r 32 8 + i * fieldAt r 40 4) % 2 ^ 64
/-- The row numbers of a record. -/
def qRows (r : Nat) : List Nat := List.range (fieldAt r 4 2)
/-- The run that a record opens, its rows aside. -/
def runOf (th r : Nat) : AttRun :=
  { th := th, mask := fieldAt r 0 1, enc := fieldAt r 1 1, d := 32 * fieldAt r 2 1, eng := fieldAt r 3 1, kvfmt := fieldAt r 7 1,
    scale := fieldAt r 8 4, slope := fieldAt r 20 4, pre := fieldAt r 24 4, first := fieldAt r 28 1, last := fieldAt r 29 1,
    best := fieldAt r 30 2, rows := (qRows r).map (fun _ => { seg := 0, pos := 0, q := [] }) }
/-- Row `i` of a run, from its query row and its entry of the query table. -/
def attRowOf (r x e : Nat) : AttRow :=
  let d := 32 * fieldAt r 2 1
  let v := rowElems (fieldAt r 6 1) d x
  let pos := bits e 51 32
  { seg := bits e 15 0, pos := pos, o := List.replicate d 0,
    q := queryForm (fieldAt r 3 1) d (if fieldAt r 1 1 = 1 then ropeRow pos (fieldAt r 16 4) (fieldAt r 12 4) d v else v) }

/-- ATQ. -/
def doAtq (g : Nat) (o : EOp) : Upd := read fun s =>
  let r := engNum s g [] o.a 64
  if (attOf s g).run.isSome || o.b ≠ 0 then attStop g o aaSeq
  else if !engEaOk s g o.a 64 1 then attStop g o aaAddr
  else if engRetries s o.a 64 then attWait g
  else if r.2 then attStop g o aaPoison
  else if !attRecOk (splitOn s g) r.1 then attStop g o aaSeq
  else
    let n := qRowBytes r.1
    let tab := fieldAt r.1 48 8
    let rows := qRows r.1
    let xs := rows.map (fun i => engNum s g [] (qRowEa r.1 i) n)
    let es := rows.map (fun i => engNum s g [] ((tab + 8 * i) % 2 ^ 64) 8)
    let run := runOf o.th r.1
    let open_ (l : List AttRow) : Upd := seqs [modAtt g (fun x => { x with run := some { run with rows := l } }),
      bump (mxuB g + R.MXU_ATT_CNT_RUNS) 1]
    let bad (k : Nat) : Upd := seqs [open_ run.rows, attStop g o k]
    if !rows.all (fun i => engEaOk s g (qRowEa r.1 i) n 1) || !engEaOk s g tab (8 * rows.length) 1 then bad aaAddr
    else if rows.any (fun i => engRetries s (qRowEa r.1 i) n) || engRetries s tab (8 * rows.length) then attWait g
    else if xs.any (·.2) || es.any (·.2) then bad aaPoison
    else if es.any (fun e => bits e.1 31 16 ≠ 0 || bits e.1 63 52 ≠ 0) then bad aaSeq
    else seqs [open_ (List.zipWith (fun x e => attRowOf r.1 x.1 e.1) xs es), attPop g o]

/-! ## The list of an ATBLK (R353 to R356, R362) -/

/-- The fault source of a block header that disagrees with its entry or its list, 0 if it agrees (R377). -/
def hdrFault (s : State) (site : Nat) (l : ListHdr) (id : Nat) (h : Nat × Bool) : Nat :=
  let k := hdrOf h.1
  if !inPool s site id then aaHdr
  else if h.2 then aaPoison
  else if k.state = 0 || k.id ≠ id || k.layer ≠ l.layer || k.head ≠ l.head || k.fmt ≠ l.fmt || k.d32 ≠ l.d32 then aaHdr else 0
/-- Tokens of a block, committed and tentative. -/
def BlkHdr.tokens (h : BlkHdr) : Nat := min (h.valid + h.tent) 64
/-- Segments and positions of a block's tokens. -/
def BlkHdr.places (h : BlkHdr) : List (Nat × Nat) := (List.range h.tokens).map h.place
/-- May any row of the run attend to any token of the block (R353)? -/
def blkSeen (r : AttRun) (h : BlkHdr) : Bool :=
  h.places.any (fun k => r.rows.any (fun q => keyAllowed r.mask r.pre (q.seg, q.pos) k))
/-- The rank of a block: the largest bound times scale plus the largest bias (R354); the rank of a NaN is open (log 13). -/
def blkRank (r : AttRun) (h : BlkHdr) (sum : Nat) : Num :=
  let b := (r.rows.map (fun q => f32 (blockBound r.d sum q.q))).foldl Num.max (.inf true)
  let biases := if r.enc ≠ 2 then [] else r.rows.flatMap (fun q =>
    (h.places.filter (fun k => keyAllowed r.mask r.pre (q.seg, q.pos) k)).map (fun k => f32 (keyBias r.slope q.pos k.2)))
  let x := b.mul (f32 r.scale)
  let v := match biases with | [] => x | y :: l => x.add (l.foldl Num.max y)
  if v.isNan then .fin false (Config.approx 15 sum) 0 else v
/-- Insert an entry into a ranking: higher ranks first, equal ones by the lower entry. -/
def rankPut (x : Nat × Num) : List (Nat × Num) → List (Nat × Num)
  | [] => [x]
  | y :: l => if y.2.lt x.2 || (!x.2.lt y.2 && decide (x.1 < y.1)) then x :: y :: l else y :: rankPut x l

/-- What an ATBLK finds when it starts. -/
inductive AttPlan where
  | wait
  | stop (n : Nat)
  /-- Entries to attend, entries skipped and not selected so far, and summaries read. -/
  | go (todo : List (Nat × Nat × Nat × Nat)) (skip unsel sums : Nat)

/-- Selective attention: what remains of a range's entries (R354, R355). -/
def selectBlocks (s : State) (site : Nat) (r : AttRun) (l : ListHdr) (es : List (Nat × Nat × Nat × Nat)) : AttPlan :=
  let sAt (e : Nat × Nat × Nat × Nat) : Nat := slotDpa s site e.2.1 + 64
  let n := 32 + 2 * r.d
  match es.find? (fun e => e.2.2.1 ≠ 0) with
  | some e => .stop e.2.2.1
  | none =>
    let seen := es.filter (fun e => blkSeen r (hdrOf e.2.2.2))
    let sums := seen.map (fun e => memRead s (sAt e) n)
    if seen.any (fun e => engRetries s (sAt e) n) then .wait
    else if sums.any (·.2) then .stop aaPoison
    else
      let kept (e : Nat) : Bool := decide (e < r.first) || decide (l.entries ≤ e + r.last)
      let ranks := ((seen.zip sums).filter (fun e => !kept e.1.1)).map (fun e => (e.1.1, blkRank r (hdrOf e.1.2.2.2) e.2.1))
      let best := ((ranks.foldr rankPut []).map (·.1)).take r.best
      let todo := seen.filter (fun e => kept e.1 || best.contains e.1)
      .go todo (es.length - seen.length) (seen.length - todo.length) seen.length

/-- What an ATBLK of a run finds: the list's header, its entries and their block headers at that moment (R362). -/
def attPlan (s : State) (g : Nat) (r : AttRun) (o : EOp) : AttPlan :=
  let site := g / 64
  let first := bits o.b 15 0
  let n := bits o.b 31 16 + 1
  let h := memRead s o.a 64
  let l := listOf h.1
  if bits o.b 63 33 ≠ 0 then .stop aaSeq
  else if !listHere site o.a 0 then .stop aaAddr
  else if engRetries s o.a 64 then .wait
  else if h.2 then .stop aaPoison
  else if l.fmt ≠ r.kvfmt || 32 * l.d32 ≠ r.d || decide (first + n > l.entries) then .stop aaSeq
  else if !listHere site o.a (first + n) then .stop aaAddr
  else
    let ea := o.a + 64 + 4 * first
    let t := memRead s ea (4 * n)
    let es := (List.range n).map (fun i => (first + i, fieldAt t.1 (4 * i) 4))
    if engRetries s ea (4 * n) || es.any (fun e => engRetries s (slotDpa s site e.2) 64) then .wait
    else if t.2 then .stop aaPoison
    else
      let es := es.map (fun e => let k := memRead s (slotDpa s site e.2) 64; (e.1, e.2, hdrFault s site l e.2 k, k.1))
      if bit o.b 32 && fld s (mxuB g + R.MXU_ATT_CTRL) 0 0 = 0 then selectBlocks s site r l es else .go es 0 0 0

/-! ## Attending a block (R348 to R350) -/

/-- Rows whose m becomes NaN are counted and reported (R350). -/
def rowNans (g entry : Nat) (old new : List AttRow) (th : Nat) : Upd :=
  each ((List.range old.length).zip (old.zip new)) (fun e =>
    when (!(f32 e.2.1.m).isNan && (f32 e.2.2.m).isNan) (seqs [bump (mxuB g + R.MXU_ATT_CNT_ROW_NAN) 1,
      evt ⟨.MXU, g⟩ 1 0x0521 0 (payload [(24, 2, e.1), (26, 1, th), (28, 2, entry)])]))

/-- A row after a block of `n` tokens, from the K and V scales and elements. -/
def attendRow (r : AttRun) (h : BlkHdr) (ks ke vs ve : Nat) (q : AttRow) : AttRow :=
  let n := h.tokens
  let toks := ((List.range n).zip h.places).filter (fun t => keyAllowed r.mask r.pre (q.seg, q.pos) t.2)
  let scores := toks.map (fun t =>
    (t.1, scoreOf r.enc r.d r.scale r.slope q.pos t.2.2 q.q ((List.range r.d).map (kvVal r.kvfmt r.d ks ke t.1))))
  let x := foldBlock r.eng r.kvfmt r.d n vs ve scores q.m q.l q.o
  { q with m := x.1, l := x.2.1, o := x.2.2 }

/-- Change the work in progress and the run. -/
def setWork (g : Nat) (r : AttRun) (w : AttWork) : Upd := modAtt g (fun x => { x with run := some r, work := some w, since := none })

/-- Take the next entry of the ATBLK in progress. -/
def attendNext (g : Nat) (o : EOp) (r : AttRun) (w : AttWork) (e : Nat × Nat × Nat × Nat) (rest : List (Nat × Nat × Nat × Nat)) : Upd := read fun s =>
  let h := hdrOf e.2.2.2
  let at_ := slotDpa s (g / 64) e.2.1
  let n := h.tokens
  let sc := n * (r.d / 32)
  let el := kvBytes r.kvfmt (n * r.d)
  let rd (a k : Nat) : Nat × Bool := memRead s (at_ + a) k
  let ks := rd (kvScales r.d) sc
  let vs := rd (kvScales r.d + 2 * r.d) sc
  let ke := rd (kvP r.d) el
  let ve := rd (kvP r.d + kvBytes r.kvfmt (64 * r.d)) el
  if e.2.2.1 ≠ 0 then attStop g o e.2.2.1
  else if !blkSeen r h then seqs [setWork g r { w with todo := some rest, skip := w.skip + 1 }, bump (mxuB g + R.MXU_ATT_CNT_BLK_SKIP) 1]
  else if engRetries s (at_ + 64) (kvSize r.kvfmt r.d - 64) then attWait g
  else if ks.2 || vs.2 || ke.2 || ve.2 then attStop g o aaPoison
  else
    let rows := r.rows.map (attendRow r h ks.1 ke.1 vs.1 ve.1)
    seqs [rowNans g e.1 r.rows rows r.th, setWork g { r with rows := rows } { w with todo := some rest, att := w.att + 1 },
      bump (mxuB g + R.MXU_ATT_CNT_BLK_ATT) 1]

/-- ATBLK with its engine claimed and idle: read the list, take the next block, or end. -/
def doAtblk (g : Nat) (o : EOp) (r : AttRun) (w : AttWork) : Upd := read fun s =>
  match w.todo with
  | none => (match attPlan s g r o with
    | .wait => attWait g
    | .stop n => attStop g o n
    | .go todo skip unsel sums => seqs [setWork g r { todo := some todo, skip := skip, unsel := unsel },
        bump (mxuB g + R.MXU_ATT_CNT_BLK_SKIP) skip, bump (mxuB g + R.MXU_ATT_CNT_BLK_UNSEL) unsel,
        bump (mxuB g + R.MXU_ATT_CNT_SUM_READ) sums])
  | some [] => attPop g o
  | some (e :: rest) => attendNext g o r w e rest

/-! ## ATMERGE and ATEND (R351, R352, R374) -/

/-- Bytes of a raw row. -/
def rawBytes (d : Nat) : Nat := 32 + 4 * d
/-- ATMERGE with its engine claimed and idle. -/
def doAtmerge (g : Nat) (o : EOp) (r : AttRun) : Upd := read fun s =>
  let pitch := bits o.b 39 24
  let parts := List.range (bits o.b 7 0 + 1)
  let n := rawBytes r.d
  let ea (p i : Nat) : Nat := (o.a + p * pitch + i * n) % 2 ^ 64
  let idx := List.range r.rows.length
  let all (f : Nat → Bool) : Bool := parts.all (fun p => idx.all (fun i => f (ea p i)))
  if bits o.b 63 40 ≠ 0 || bits o.b 23 8 ≠ 0 then attStop g o aaSeq
  else if pitch % 32 ≠ 0 || !all (fun a => engEaOk s g a n 1) then attStop g o aaAddr
  else if !all (fun a => !engRetries s a n) then attWait g
  else if !all (fun a => !(engNum s g [] a n).2) then attStop g o aaPoison
  else
    let rows := (idx.zip r.rows).map (fun e => parts.foldl (fun (q : AttRow) p =>
      let x := (engNum s g [] (ea p e.1) n).1
      let y := foldPartial (fieldAt x 0 4) (fieldAt x 4 4) ((List.range r.d).map (fun j => fieldAt x (32 + 4 * j) 4)) q.m q.l q.o
      { q with m := y.1, l := y.2.1, o := y.2.2 }) e.2)
    seqs [rowNans g 0 r.rows rows r.th, modAtt g (fun x => { x with run := some { r with rows := rows } }), attPop g o]

/-- The bytes of an output row. -/
def attOut (b : Nat) (q : AttRow) : List Byte :=
  if bits b 17 17 = 1 then toBytes 4 q.m ++ toBytes 4 q.l ++ List.replicate 24 0 ++ q.o.flatMap (toBytes 4)
  else q.o.flatMap (fun v =>
    let x := if (f32 q.l).isZero then Num.zero else (f32 v).divWide (f32 q.l)
    if bits b 16 16 = 1 then toBytes 2 (Fmt.bf16.encode x) else toBytes 4 (toF32 x))
/-- Bytes of an output row. -/
def attOutBytes (b d : Nat) : Nat := if bits b 17 17 = 1 then rawBytes d else if bits b 16 16 = 1 then 2 * d else 4 * d

/-- ATEND. -/
def doAtend (g : Nat) (o : EOp) : Upd := read fun s =>
  match (attOf s g).run with
  | none => attStop g o aaSeq
  | some r =>
    let pitch := bits o.b 39 24
    let n := attOutBytes o.b r.d
    let ea (i : Nat) : Nat := (o.a + i * pitch) % 2 ^ 64
    let idx := List.range r.rows.length
    if bits o.b 63 40 ≠ 0 || bits o.b 23 18 ≠ 0 || bits o.b 15 0 ≠ 0 then attStop g o aaSeq
    else if pitch % 32 ≠ 0 || decide (pitch < n) || !idx.all (fun i => engEaOk s g (ea i) n 1) then attStop g o aaAddr
    else when (!idx.any (fun i => engRetries s (ea i) n)) (seqs [
      each (idx.zip r.rows) (fun e => if r.aborted then engPoison g (ea e.1) n else engWrite g (ea e.1) (attOut o.b e.2)),
      when (!r.aborted) (bump (mxuB g + R.MXU_ATT_CNT_ROW_EMPTY) (r.rows.filter (fun q => (f32 q.l).isZero)).length),
      modAtt g (fun x => { x with run := none }), attPop g o])

/-! ## The queue -/

/-- Is the engine of a run idle (R347)? -/
def engineIdle (s : State) (g e : Nat) : Bool :=
  if e = 0 then (mvOf s g).run.isNone && (mvOf s g).store.isNone
  else let x := arrOf s g; x.staged.isEmpty && x.passes.isEmpty && x.accs.isEmpty

/-- Work off the score unit's queue from its head while something can be done (R378). -/
def attAdvance (g : Nat) : Nat → Upd
  | 0 => skip
  | fuel + 1 => read fun s =>
    let x := attOf s g
    let st := pgState s ⟨.MXU, g⟩
    let go (u : Upd) : Upd := seqs [u, read fun t => when (attOf t g ≠ x) (attAdvance g fuel)]
    match x.q with
    | [] => skip
    | o :: _ => when ((st = stRUN || st = stDRAIN) && opReady s g o && !clockLost s ⟨.MXU, g⟩) (
      match o.op, x.run with
      | 0x60, _ => go (doAtq g o)
      | 0x62, _ => go (doAtend g o)
      | _, none => go (attStop g o aaSeq)
      | _, some r =>
        if r.aborted then go (attPop g o)
        else match x.work with
          | none => go (modAtt g (fun x => { x with work := some {} }))
          | some w => when (engineIdle s g r.eng) (go (if o.op = 0x61 then doAtblk g o r w else doAtmerge g o r)))
/-- Steps that the queue can take: every entry of every ATBLK, and the ends. -/
def attFuel (s : State) (g : Nat) : Nat := (attOf s g).q.foldl (fun n o => n + bits o.b 31 16 + 8) 8
/-- Work it off. -/
def attGo (g : Nat) : Upd := read fun s => when (!(attOf s g).q.isEmpty) (attAdvance g (attFuel s g))

/-- A read not complete within MXU_ATT_TIMEOUT: the fault, and the instruction ends (R379). -/
def attExpiry (g : Nat) : Upd := seqs [attGo g, read fun s =>
  let x := attOf s g
  match x.q, x.since with
  | o :: _, some t => when (s.now ≥ t + fld s (mxuB g + R.MXU_ATT_TIMEOUT) 15 0 * 1000) (seqs [attStop g o aaTime, attGo g])
  | _, _ => skip]

end Sys2Proof.Machine
end

