-- ==== Sys2Proof/Machine/KvmCtl.lean ====
section
/-! DEFINITION. Sys2Proof/Machine/KvmCtl.lean: the KV manager: the pool and its counts, appends, commits and references (R356 to
R364, R375, R376, R380, R381). -/
namespace Sys2Proof.Machine
open Sys2Proof

/-- What an operation of the KV manager or prefix unit finds: an error is the status it ends with, 0 a read that must wait. -/
abbrev Kv (α : Type) := Except Nat α
/-- A condition, else a status. -/
def kvNeed (c : Bool) (st : Nat) : Kv Unit := if c then .ok () else .error st
/-- `n` bytes at an EA of the issuing core: status 6 outside device memory and scratch, 7 for poison. -/
def kvRead (s : State) (g ea n : Nat) : Kv Nat :=
  if !engEaOk s g ea n 1 then .error 6
  else if engRetries s ea n then .error 0
  else let x := engNum s g [] ea n; if x.2 then .error 7 else .ok x.1
/-- The results of each, or the first error. -/
def kvAll (l : List α) (f : α → Kv β) : Kv (List β) :=
  match l with
  | [] => .ok []
  | x :: r => match f x with
    | .error e => .error e
    | .ok y => match kvAll r f with
      | .error e => .error e
      | .ok ys => .ok (y :: ys)

/-! ## The pool (R357, R358) -/

/-- A site's KVM page as a place. -/
abbrev kvmR (site : Nat) : Page.Ref := ⟨.KVM, site⟩
abbrev kmPoison : Nat := 0
abbrev kmSeq : Nat := 1
abbrev kmUnder : Nat := 2
abbrev kmTime : Nat := 3

/-- Base of the metadata region. -/
def kvMeta (s : State) (site : Nat) : Nat :=
  fld s (kvmB site + R.KVM_META_HI) 8 0 * 2 ^ 32 + fld s (kvmB site + R.KVM_META_LO) 31 12 * 4096
/-- Blocks of the regions before `c`. -/
def rgnBefore (s : State) (site c : Nat) : Nat := (List.range c).foldl (fun n k => n + rgnCount s site k) 0
/-- Where a block's reference count lies: in region order. -/
def rcDpa (s : State) (site id : Nat) : Nat := kvMeta s site + 2 * (rgnBefore s site (id / 2 ^ 18) + id % 2 ^ 18)
/-- Where entry `k` of the free stack lies. -/
def stackDpa (s : State) (site k : Nat) : Nat :=
  kvMeta s site + (2 * rd s (kvmB site + R.KVM_TOTAL) + 4095) / 4096 * 4096 + 4 * k
/-- Free blocks. -/
def kvFree (s : State) (site : Nat) : Nat := rd s (kvmB site + R.KVM_FREE)
/-- A block's reference count; status 6 for an id of no block. -/
def rcOf (s : State) (g id : Nat) : Kv Nat := if inPool s (g / 64) id then kvRead s g (rcDpa s (g / 64) id) 2 else .error 6
/-- A block's header. -/
def blkHdr (s : State) (g id : Nat) : Kv BlkHdr := (kvRead s g (slotDpa s (g / 64) id) 64).map hdrOf
/-- The `n` blocks at the top of the free stack, uppermost first. -/
def stackTop (s : State) (g n : Nat) : Kv (List Nat) :=
  kvAll (List.range n) (fun k => kvRead s g (stackDpa s (g / 64) (kvFree s (g / 64) - 1 - k)) 4)

/-- The ledger states of a block (R358): 0 free, 1 tentative (it has no committed token), 2 referenced. -/
def blkClass (rc valid : Nat) : Nat := if rc = 0 then 0 else if rc = 1 ∧ valid = 0 then 1 else 2

/-- Write a block's reference count. -/
def setRc (site id n : Nat) : Upd := read fun s => memWrite (rcDpa s site id) (toBytes 2 n)
/-- Write a block's header. -/
def setHdr (site id : Nat) (h : BlkHdr) : Upd := read fun s => memWrite (slotDpa s site id) h.bytes
/-- KVM_LOW when the free blocks fall to the watermark (R382). -/
def kvmLow (site before : Nat) : Upd := read fun s =>
  let b := kvmB site
  let wm := fld s (b + R.KVM_LOW_WM) 23 0
  when (wm ≠ 0 && decide (wm < before) && decide (kvFree s site ≤ wm))
    (evt (kvmR site) 0 0x0500 0 (payload [(24, 4, kvFree s site), (28, 4, rd s (b + R.KVM_TENT))]))
/-- A block changes its ledger state. -/
def blkMove (site a b : Nat) : Upd :=
  let at_ (c : Nat) : Nat := kvmB site + (if c = 0 then R.KVM_FREE else if c = 1 then R.KVM_TENT else R.KVM_REFD)
  when (a ≠ b) (seqs [read fun s => setReg (at_ a) (rd s (at_ a) - 1), read fun s => setReg (at_ b) (rd s (at_ b) + 1)])
/-- A block leaves the top of the free stack, with reference count 1: tentative, or referenced where it has committed tokens. -/
def takeBlock (site id valid : Nat) : Upd := read fun s =>
  seqs [setRc site id 1, blkMove site 0 (blkClass 1 valid), bump (kvmB site + R.KVM_CNT_ALLOC) 1, kvmLow site (kvFree s site)]
/-- A block is freed: count 0, its header FREE, its id on the free stack. -/
def freeBlock (site id cls : Nat) : Upd := read fun s =>
  seqs [setRc site id 0, memWrite (slotDpa s site id) (toBytes 1 0), memWrite (stackDpa s site (kvFree s site)) (toBytes 4 id),
    blkMove site cls 0, bump (kvmB site + R.KVM_CNT_FREED) 1]
/-- A block's reference count goes from `a` to `b`. -/
def moveRc (site id valid a b : Nat) : Upd :=
  if b = 0 then freeBlock site id (blkClass a valid) else seqs [setRc site id b, blkMove site (blkClass a valid) (blkClass b valid)]

/-! ## Lists (R356) -/

/-- A list header's 64 bytes. -/
def ListHdr.bytes (l : ListHdr) : List Byte :=
  toBytes 4 l.committed ++ toBytes 2 l.tentative ++ toBytes 2 l.entries ++ toBytes 2 l.capacity ++ toBytes 2 l.tentEntries
    ++ toBytes 2 l.layer ++ toBytes 1 l.head ++ toBytes 1 l.fmt ++ toBytes 1 l.d32 ++ toBytes 3 0 ++ toBytes 4 l.gen ++ List.replicate 40 0
/-- Are a list header's fields within their values, for blocks that fit the slot? -/
def listOk (s : State) (site h : Nat) : Bool :=
  let l := listOf h
  decide (l.committed ≤ 1048576) && decide (l.tentative ≤ 256) && decide (1 ≤ l.capacity) && decide (l.entries ≤ l.capacity)
    && decide (l.tentEntries ≤ l.entries) && kvFmtOk l.fmt && decide (1 ≤ l.d32 ∧ l.d32 ≤ 8) && fieldAt h 17 3 = 0 && fieldAt h 24 40 = 0
    && decide (kvSize l.fmt (32 * l.d32) ≤ slotBytes s site)
/-- The header of the list at `l`: status 6 for a list of another site. -/
def readList (s : State) (g l : Nat) : Kv ListHdr := do
  kvNeed (listHere (g / 64) l 0) 6
  let h ← kvRead s g l 64
  kvNeed (listOk s (g / 64) h && listHere (g / 64) l (fieldAt h 8 2)) 6
  return listOf h
/-- Write a list's header, changed. -/
def setList (l : Nat) (h : ListHdr) : Upd := memWrite l { h with gen := (h.gen + 1) % 2 ^ 32 }.bytes
/-- Entry `i` of a list: the block's id and header, which agrees with the list. -/
def listEntry (s : State) (g l : Nat) (h : ListHdr) (i : Nat) : Kv (Nat × BlkHdr) := do
  let id ← kvRead s g (l + 64 + 4 * i) 4
  kvNeed (inPool s (g / 64) id) 6
  let k ← blkHdr s g id
  kvNeed (k.id = id && k.state ≠ 0 && k.layer = h.layer && k.head = h.head && k.fmt = h.fmt && k.d32 = h.d32) 6
  return (id, k)
/-- Write entry `i`. -/
def setEntry (l i id : Nat) : Upd := memWrite (l + 64 + 4 * i) (toBytes 4 id)

/-! ## KVAPPEND (R359, R360, R375) -/

/-- Where an append puts its tokens: the block being filled, the blocks filled before it (latest first), ids not yet taken, and for
each token its block and place (latest first). -/
structure Appending where
  cur : Option (Nat × BlkHdr)
  past : List (Nat × BlkHdr) := []
  fresh : List Nat := []
  at_ : List (Nat × Nat) := []
/-- Does a token continue a block, and does it start a new segment there (R359)? -/
def continues (h : BlkHdr) (seg pos : Nat) : Option Bool :=
  let n := h.valid + h.tent
  let last := h.place (n - 1)
  if h.state ≠ 1 ∨ n ≥ 64 ∨ n = 0 then none
  else if seg = last.1 ∧ pos = last.2 + 1 then some false
  else if seg = last.1 + 1 ∧ pos = 0 then some true else none
/-- Place one token. `new` is the header of a new block, its id, address and first token aside; `addr` its address. -/
def Appending.put (a : Appending) (new : BlkHdr) (addr : Nat → Nat) (seg pos : Nat) : Appending :=
  let open_ : Appending :=
    let id := a.fresh.headD 0
    { a with cur := some (id, { new with id := id, sum := addr id + 64, seg0 := seg, pos0 := pos, tent := 1 }),
             past := match a.cur with | some c => (c.1, { c.2 with state := 2 }) :: a.past | none => a.past,
             fresh := a.fresh.drop 1, at_ := (id, 0) :: a.at_ }
  match a.cur with
  | none => open_
  | some (id, h) => match continues h seg pos with
    | none => open_
    | some b =>
      let n := h.valid + h.tent
      { a with cur := some (id, { h with tent := h.tent + 1, bmask := if b then setBits h.bmask n n 1 else h.bmask }), at_ := (id, n) :: a.at_ }
/-- Blocks that an append needs. -/
def newBlocks (cur : Option BlkHdr) : List (Nat × Nat) → Nat
  | [] => 0
  | (seg, pos) :: l =>
    let fresh : BlkHdr := { state := 1, fmt := 0, d32 := 0, valid := 0, tent := 1, layer := 0, head := 0, seg0 := seg, pos0 := pos, bmask := 0, sum := 0, id := 0 }
    match cur with
    | none => 1 + newBlocks (some fresh) l
    | some h => match continues h seg pos with
      | none => 1 + newBlocks (some fresh) l
      | some b =>
        let n := h.valid + h.tent
        newBlocks (some { h with tent := h.tent + 1, bmask := if b then setBits h.bmask n n 1 else h.bmask }) l

/-- An append record's fields are within their values. -/
def appendRecOk (r : Nat) : Bool :=
  fieldAt r 32 4 % 32 = 0 && decide (1 ≤ fieldAt r 36 2 ∧ fieldAt r 36 2 ≤ 256) && decide (fieldAt r 38 1 < 8) && fieldAt r 39 1 = 0
    && fieldAt r 48 16 = 0
/-- A K or V row as elements and scale bytes: raw, or quantised, K rotated first where the record says so. -/
def appendRow (r fmt d pos : Nat) (isK : Bool) (x : Nat) : List Byte × List Byte :=
  let f := fieldAt r 38 1
  if bit f 1 then (toBytes (kvBytes fmt d) x, toBytes (d / 32) (x / 256 ^ kvBytes fmt d))
  else
    let v := rowElems (f % 2) d x
    kvQuant fmt d (if isK && bit f 2 then ropeRow pos (fieldAt r 44 4) (fieldAt r 40 4) d v else v)
/-- Write a token's elements and scales into its block. -/
def putToken (site fmt d : Nat) (at_ : Nat × Nat) (k v : List Byte × List Byte) : Upd := read fun s =>
  let b := slotDpa s site at_.1
  let j := at_.2
  let e := kvP d + kvBytes fmt (j * d)
  let c := kvScales d + j * (d / 32)
  seqs [memWrite (b + c) k.2, memWrite (b + c + 2 * d) v.2, memWrite (b + e) k.1, memWrite (b + e + kvBytes fmt (64 * d)) v.1]

/-- What an operation comes to: its status and what rd holds above it, what it changes, and what its failing reports. -/
structure KvEnd where
  status : Nat := 0
  high : Nat := 0
  act : Upd := skip

/-- Status 1 returned: counted, and KVM_POOL_EMPTY (R382). -/
def poolEmpty (g l n : Nat) : KvEnd :=
  { status := 1, act := seqs [bump (kvmB (g / 64) + R.KVM_CNT_EMPTY) 1,
      evt (kvmR (g / 64)) 1 0x0501 0 (payload [(24, 8, l), (32, 2, n), (34, 2, g)])] }

/-- KVAPPEND. -/
def kvAppend (s : State) (g : Nat) (o : EOp) : Kv KvEnd := do
  let site := g / 64
  kvNeed (o.b = 0) 6
  let r ← kvRead s g o.a 64
  kvNeed (appendRecOk r) 6
  let l := fieldAt r 0 8
  let h ← readList s g l
  let d := 32 * h.d32
  let n := fieldAt r 36 2
  let len := if bit (fieldAt r 38 1) 1 then kvBytes h.fmt d + d / 32 else d * (if bit (fieldAt r 38 1) 0 then 2 else 4)
  let row (base i : Nat) : Kv Nat := kvRead s g ((base + i * fieldAt r 32 4) % 2 ^ 64) len
  let tab ← kvAll (List.range n) (fun i => kvRead s g ((fieldAt r 24 8 + 8 * i) % 2 ^ 64) 8)
  kvNeed (tab.all (fun e => bits e 31 16 = 0 && bits e 63 52 = 0)) 6
  let toks := tab.map (fun e => (bits e 15 0, bits e 51 32))
  let tail ← (if h.entries = 0 then .ok [] else kvAll [h.entries - 1] (listEntry s g l h) : Kv (List (Nat × BlkHdr)))
  let ks ← kvAll (List.range n) (row (fieldAt r 8 8))
  let vs ← kvAll (List.range n) (row (fieldAt r 16 8))
  let need := newBlocks (tail.head?.map (·.2)) toks
  let joins := match tail.head?, toks.head? with | some t, some k => (continues t.2 k.1 k.2).isSome | _, _ => false
  let rc ← kvAll (if joins then tail else []) (fun t => rcOf s g t.1)
  if need > kvFree s site then return poolEmpty g l need
  if h.entries + need > h.capacity then return { status := 2 }
  if h.tentative + n > 256 then return { status := 4 }
  if rc.any (1 < ·) then return { status := 3, act := bump (kvmB site + R.KVM_CNT_SHARED) 1 }
  let ids ← stackTop s g need
  let new : BlkHdr := { state := 1, fmt := h.fmt, d32 := h.d32, valid := 0, tent := 0, layer := h.layer, head := h.head, seg0 := 0, pos0 := 0,
                        bmask := 0, sum := 0, id := 0 }
  let a := toks.foldl (fun (a : Appending) t => a.put new (slotDpa s site) t.1 t.2) { cur := tail.head?, fresh := ids }
  let rows := (List.range n).zip (toks.zip (ks.zip vs))
  return { act := seqs [
    each ids (fun id => seqs [takeBlock site id 0, memWrite (slotDpa s site id + 64) (List.replicate (32 + 2 * d) 0)]),
    each (a.at_.reverse.zip rows) (fun e => putToken site h.fmt d e.1 (appendRow r h.fmt d e.2.2.1.2 true e.2.2.2.1)
      (appendRow r h.fmt d e.2.2.1.2 false e.2.2.2.2)),
    each (a.past.reverse ++ a.cur.toList) (fun c => setHdr site c.1 c.2),
    each ((List.range need).zip ids) (fun e => setEntry l (h.entries + e.1) e.2),
    setList l { h with tentative := h.tentative + n, entries := h.entries + need, tentEntries := h.tentEntries + need },
    bump (kvmB site + R.KVM_CNT_APPEND) n] }

/-! ## KVCOMMIT and KVROLLBACK (R361) -/

/-- Publish the summary of a block's committed tokens. -/
def putSummary (site id : Nat) (h : BlkHdr) : Upd := read fun s =>
  let b := slotDpa s site id
  let d := 32 * h.d32
  memWrite (b + 64) (summaryOf h.fmt d h.valid (memNum s (b + kvScales d) (h.valid * (d / 32))) (memNum s (b + kvP d) (kvBytes h.fmt (h.valid * d))))
/-- The tokens that each block of an episode keeps, of `n` in append order. -/
def keepTokens : Nat → List (Nat × BlkHdr) → List (Nat × BlkHdr × Nat)
  | _, [] => []
  | n, (id, h) :: l => (id, h, min n h.tent) :: keepTokens (n - min n h.tent) l
/-- A block after the commit of `k` of its tentative tokens; `last`: it is the list's last. -/
def BlkHdr.commit (h : BlkHdr) (k : Nat) (last : Bool) : BlkHdr :=
  let v := h.valid + k
  { h with valid := v, tent := 0, bmask := h.bmask % 2 ^ v, state := if v = 64 then 2 else if last then 1 else h.state }

/-- Commit the first `n` tentative tokens of the list at `l`. -/
def kvCommit (s : State) (g l n : Nat) : Kv KvEnd := do
  let site := g / 64
  let h ← readList s g l
  kvNeed (n ≤ h.tentative && h.committed + n ≤ 1048576) 6
  let first := h.entries - h.tentEntries - 1
  let es ← kvAll ((List.range (h.entries - first)).map (· + first)) (listEntry s g l h)
  kvNeed ((es.foldl (fun m e => m + e.2.tent) 0) = h.tentative) 6
  let ks := keepTokens n es
  let old := es.length - h.tentEntries
  let kept := (ks.take old) ++ (ks.drop old).filter (fun e => e.2.2 ≠ 0)
  let gone := (ks.drop old).filter (fun e => e.2.2 = 0)
  let lastId := (kept.getLast?.map (·.1)).getD 0
  let rcs ← kvAll (ks.drop old) (fun e => rcOf s g e.1)
  let d := 32 * h.d32
  let _ ← kvAll kept (fun e => do
    let _ ← kvRead s g (slotDpa s site e.1 + kvScales d) ((e.2.1.valid + e.2.2) * h.d32)
    kvRead s g (slotDpa s site e.1 + kvP d) (kvBytes h.fmt ((e.2.1.valid + e.2.2) * d)))
  let rcAt (id : Nat) : Nat := ((((ks.drop old).zip rcs).find? (fun e => e.1.1 = id)).map (·.2)).getD 1
  return { act := seqs [
    each kept (fun e =>
      let c := e.2.1.commit e.2.2 (e.1 = lastId)
      seqs [putSummary site e.1 c, setHdr site e.1 c]),
    each gone.reverse (fun e => freeBlock site e.1 (blkClass (rcAt e.1) 0)),
    each (kept.drop old) (fun e => blkMove site (blkClass (rcAt e.1) 0) 2),
    setList l { h with committed := h.committed + n, tentative := 0, entries := h.entries - gone.length, tentEntries := 0 },
    bump (kvmB site + R.KVM_CNT_COMMIT) n, bump (kvmB site + R.KVM_CNT_DISCARD) (h.tentative - n)] }

/-! ## References (R363) -/

/-- The block ids of a KVREF or KVRELEASE. -/
def refIds (s : State) (g : Nat) (o : EOp) : Kv (List Nat) := do
  kvNeed (1 ≤ o.b && o.b ≤ 256) 6
  kvAll (List.range o.b) (fun i => kvRead s g ((o.a + 4 * i) % 2 ^ 64) 4)
/-- How often an id occurs. -/
def timesOf (l : List Nat) (x : Nat) : Nat := (l.filter (· = x)).length
/-- Each different block with its count, its committed tokens, and how often it is named. -/
def refStates (s : State) (g : Nat) (ids : List Nat) : Kv (List (Nat × Nat × Nat × Nat)) :=
  kvAll ids.eraseDups (fun id => do
    let rc ← rcOf s g id
    let h ← blkHdr s g id
    return (id, rc, h.valid, timesOf ids id))
/-- KVM_REF_ERR (R382). -/
def refErr (g id under : Nat) : Upd := evt (kvmR (g / 64)) 2 0x0502 0 (payload [(24, 4, id), (28, 1, under), (30, 2, g)])
/-- Status 6 of an underflow: KVM_ref_underflow beside KVM_seq. -/
def underflow (g id : Nat) : KvEnd := { status := 6, act := seqs [refErr g id 1, raise (kvmR (g / 64)) kmUnder 0] }

/-- KVREF. -/
def kvRef (s : State) (g : Nat) (o : EOp) : Kv KvEnd := do
  let ids ← refIds s g o
  let l ← refStates s g ids
  kvNeed (l.all (fun e => e.2.1 ≠ 0)) 6
  match l.find? (fun e => e.2.1 + e.2.2.2 > 65535) with
  | some e => return { status := 5, act := refErr g e.1 0 }
  | none => return { act := each l (fun e => moveRc (g / 64) e.1 e.2.2.1 e.2.1 (e.2.1 + e.2.2.2)) }

/-- KVRELEASE. -/
def kvRelease (s : State) (g : Nat) (o : EOp) : Kv KvEnd := do
  let ids ← refIds s g o
  let l ← refStates s g ids
  match l.find? (fun e => decide (e.2.1 < e.2.2.2) || blkClass e.2.1 e.2.2.1 = 1) with
  | some e => return underflow g e.1
  | none => return { act := each l (fun e => moveRc (g / 64) e.1 e.2.2.1 e.2.1 (e.2.1 - e.2.2.2)) }

/-- KVFORK. -/
def kvFork (s : State) (g : Nat) (o : EOp) : Kv KvEnd := do
  let site := g / 64
  let l := o.a
  kvNeed (o.b = 0) 6
  let h ← readList s g l
  kvNeed (h.entries ≠ 0) 6
  let t ← listEntry s g l h (h.entries - 1)
  let rc ← rcOf s g t.1
  let size := kvSize h.fmt (32 * h.d32)
  let x ← kvRead s g (slotDpa s site t.1) size
  if rc = 0 then return underflow g t.1
  if kvFree s site = 0 then return poolEmpty g l 1
  let ids ← stackTop s g 1
  let new := ids.headD 0
  return { act := seqs [takeBlock site new t.2.valid,
    memWrite (slotDpa s site new) (toBytes size x), setHdr site new { t.2 with id := new, sum := slotDpa s site new + 64 },
    setEntry l (h.entries - 1) new, moveRc site t.1 t.2.valid rc (rc - 1), setList l h, bump (kvmB site + R.KVM_CNT_FORK) 1] }

/-- KVM_BUILD: every count 0, every slot free (R380). -/
def kvmBuild (site : Nat) : Upd := read fun s =>
  let b := kvmB site
  let ids := (List.range 64).flatMap (fun c => (List.range (rgnCount s site c)).map (fun i => c * 2 ^ 18 + i))
  let n := ids.length
  seqs [setReg (b + R.KVM_TOTAL) n, memWrite (kvMeta s site) (List.replicate (2 * n) 0),
    read fun t => memWrite (stackDpa t site 0) (ids.flatMap (toBytes 4)),
    setReg (b + R.KVM_FREE) n, setReg (b + R.KVM_REFD) 0, setReg (b + R.KVM_TENT) 0]

/-- KVM's own check of a written register: a region must end within its slice. -/
def kvmCheck (s : State) (site o new : Nat) : Nat :=
  if 0x200 ≤ o ∧ o < 0x300 ∧ bits new 17 0 ≠ 0 ∧ 2 ^ 29 < bits new 31 19 * 65536 + bits new 17 0 * slotBytes s site then 1 else 0

end Sys2Proof.Machine
end

