-- ==== Sys2Proof/Machine/PfxCtl.lean ====
section
/-! DEFINITION. Sys2Proof/Machine/PfxCtl.lean: the prefix unit: its tree, table and eviction list, and the KV ports that lead to it
and to the KV manager (R365 to R372, R375, R376, R380, R381). -/
namespace Sys2Proof.Machine
open Sys2Proof

/-- A site's PFX page as a place. -/
abbrev pfxR (site : Nat) : Page.Ref := ⟨.PFX, site⟩
/-- Its base. -/
abbrev pfxB (site : Nat) : Nat := Page.tile .PFX site
abbrev pxPoison : Nat := 0
abbrev pxSeq : Nat := 1
abbrev pxTime : Nat := 2
/-- The index of no node. -/
abbrev noNode : Nat := 0xFFFFFF

/-! ## Nodes (R365, R366) -/

/-- E, the blocks of a node. -/
def nodeBlocks (s : State) (site : Nat) : Nat := fld s (pfxB site + R.PFX_GEOM) 7 0
/-- Where a node lies. -/
def nodeDpa (s : State) (site i : Nat) : Nat :=
  fld s (pfxB site + R.PFX_NODE_HI) 8 0 * 2 ^ 32 + fld s (pfxB site + R.PFX_NODE_LO) 31 6 * 64 + i * ((320 + 4 * nodeBlocks s site + 63) / 64 * 64)
/-- Where a bucket lies. -/
def bucketDpa (s : State) (site k : Nat) : Nat :=
  fld s (pfxB site + R.PFX_TABLE_HI) 8 0 * 2 ^ 32 + fld s (pfxB site + R.PFX_TABLE_LO) 31 6 * 64 + 64 * k
/-- Nodes of the tree. -/
def nodeTotal (s : State) (site : Nat) : Nat := fld s (pfxB site + R.PFX_NODES) 23 0
/-- The bucket of a hash (R367). -/
def bucketOf (s : State) (site h : Nat) : Nat := h % 2 ^ fld s (pfxB site + R.PFX_BUCKETS) 4 0
/-- The key in force (R365). -/
def pfxKey (s : State) (site : Nat) : Nat :=
  let x := pfxOf s site
  if fld s (pfxB site + R.PFX_CTRL) 0 0 = 1 then Config.drawnKey site x.draws else x.key
/-- The hash of a span of 64 tokens under a parent's hash. -/
def spanHash (s : State) (site parent : Nat) (toks : Nat) : Nat :=
  sipHash (pfxKey s site) (parent :: (List.range 32).map (fun i => fieldAt toks (8 * i) 8))

/-- A field of a node: `n` bytes at byte `a`. -/
def nodeF (s : State) (site i a n : Nat) : Nat := memNum s (nodeDpa s site i + a) n
/-- Write it. -/
def setNodeF (site i a n v : Nat) : Upd := read fun s => memWrite (nodeDpa s site i + a) (toBytes n v)
abbrev ndParent : Nat := 16
abbrev ndChildren : Nat := 20
abbrev ndHolds : Nat := 22
abbrev ndState : Nat := 24
abbrev ndUse : Nat := 32
abbrev ndPrev : Nat := 40
abbrev ndNext : Nat := 44
/-- Is a node evictable (R371)? -/
def evictable (s : State) (site i : Nat) : Bool :=
  nodeF s site i ndState 1 = 1 && nodeF s site i ndChildren 2 = 0 && nodeF s site i ndHolds 2 = 0

/-! ## The eviction list (R371) -/

/-- Change a prefix unit's own state. -/
def modPfx (site : Nat) (f : Pfx → Pfx) : Upd := read fun s => act (.pfx site (f (pfxOf s site)))
/-- Take a node off the list. -/
def unlinkNode (site i : Nat) : Upd := read fun s =>
  let p := nodeF s site i ndPrev 4
  let n := nodeF s site i ndNext 4
  seqs [if p = noNode then modPfx site (fun x => { x with head := n }) else setNodeF site p ndNext 4 n,
    if n = noNode then modPfx site (fun x => { x with tail := p }) else setNodeF site n ndPrev 4 p]
/-- From node `p` back, the latest used node not used after `use`. -/
def usedBefore (s : State) (site use : Nat) : Nat → Nat → Nat
  | 0, _ => noNode
  | fuel + 1, p => if p = noNode then noNode else if nodeF s site p ndUse 8 ≤ use then p else usedBefore s site use fuel (nodeF s site p ndPrev 4)
/-- Put a node on the list by its last use. -/
def linkNode (site i : Nat) : Upd := read fun s =>
  let x := pfxOf s site
  let p := usedBefore s site (nodeF s site i ndUse 8) (rd s (pfxB site + R.PFX_LIVE) + 1) x.tail
  let n := if p = noNode then x.head else nodeF s site p ndNext 4
  seqs [setNodeF site i ndPrev 4 p, setNodeF site i ndNext 4 n,
    if p = noNode then modPfx site (fun y => { y with head := i }) else setNodeF site p ndNext 4 i,
    if n = noNode then modPfx site (fun y => { y with tail := i }) else setNodeF site n ndPrev 4 i]

/-- Add to a count of the PFX page. -/
def pfxAdd (site o : Nat) (n : Int) : Upd := read fun s => setReg (pfxB site + o) ((rd s (pfxB site + o) : Int) + n).toNat
/-- PFX_LOW when the free nodes fall below the watermark (R382). -/
def pfxLow (site before : Nat) : Upd := read fun s =>
  let b := pfxB site
  let wm := fld s (b + R.PFX_LOW_WM) 23 0
  when (decide (wm ≤ before) && decide (rd s (b + R.PFX_FREE) < wm))
    (evt (pfxR site) 1 0x0511 0 (payload [(24, 4, rd s (b + R.PFX_FREE)), (28, 4, rd s (b + R.PFX_HELD))]))

/-- Release one reference on a block for the prefix unit. -/
def dropRef (site id : Nat) : Upd := read fun s =>
  let rc := memNum s (rcDpa s site id) 2
  when (inPool s site id && decide (0 < rc)) (moveRc site id (hdrOf (memNum s (slotDpa s site id) 64)).valid rc (rc - 1))
/-- The slot of its bucket that names a node: its number. -/
def slotOfNode (s : State) (site i : Nat) : Option Nat :=
  let b := bucketDpa s site (bucketOf s site (nodeF s site i 0 8))
  (List.range 8).find? (fun k => memNum s (b + 8 * k) 8 % 2 ^ 24 = i + 1)
/-- Evict a node (R371). -/
def evictNode (site i : Nat) : Upd := read fun s =>
  let p := nodeF s site i ndParent 4 % 2 ^ 24
  let b := bucketDpa s site (bucketOf s site (nodeF s site i 0 8))
  seqs [unlinkNode site i,
    each ((List.range (nodeBlocks s site)).map (fun j => nodeF s site i (320 + 4 * j) 4)) (dropRef site),
    onSome (slotOfNode s site i) (fun k => memWrite (b + 8 * k) (toBytes 8 0)),
    when (p ≠ noNode) (seqs [setNodeF site p ndChildren 2 (nodeF s site p ndChildren 2 - 1),
      read fun t => when (evictable t site p) (linkNode site p)]),
    read fun t => seqs [setNodeF site i ndState 1 0, setNodeF site i ndPrev 4 0, setNodeF site i ndNext 4 (pfxOf t site).free,
      modPfx site (fun x => { x with free := i })],
    pfxAdd site R.PFX_FREE 1, pfxAdd site R.PFX_LIVE (-1), bump (pfxB site + R.PFX_CNT_EVICT) 1]
/-- PFX's own check of a written register: the key outside IDLE is refused as read-only . -/
def pfxCheck (s : State) (site o : Nat) : Nat := if 0x180 ≤ o ∧ o < 0x190 ∧ pgState s (pfxR site) ≠ stIDLE then 2 else 0
/-- Poison or a tile that must be waited for keeps a node from being evicted. -/
def evictReady (s : State) (site i : Nat) : Bool :=
  let n := 320 + 4 * nodeBlocks s site
  !engRetries s (nodeDpa s site i) n && !(memRead s (nodeDpa s site i) n).2
/-- Evict the least recently used node, up to `n` times, while `more` holds. -/
def evictWhile (site : Nat) (more : State → Bool) : Nat → Upd
  | 0 => skip
  | n + 1 => read fun s =>
    let i := (pfxOf s site).head
    when (i ≠ noNode && more s) (
      if evictReady s site i then seqs [evictNode site i, evictWhile site more n]
      else when (!engRetries s (nodeDpa s site i) 320) (raise (pfxR site) pxPoison 0))

/-! ## Lookup (R368) -/

/-- What a lookup finds: a node, and the nodes that collided. -/
structure Found where
  node : Option Nat := none
  clash : List Nat := []
/-- Probe the slots of a bucket in order. -/
def probe (s : State) (g h parent toks : Nat) : List Nat → Kv Found
  | [] => .ok {}
  | k :: ks => do
    let site := g / 64
    let v ← kvRead s g (bucketDpa s site (bucketOf s site h) + 8 * k) 8
    let i := v % 2 ^ 24 - 1
    if v = 0 || v / 2 ^ 24 ≠ h / 2 ^ 24 || decide (nodeTotal s site ≤ i) then probe s g h parent toks ks
    else do
      let n ← kvRead s g (nodeDpa s site i) 320
      if fieldAt n ndState 1 ≠ 1 || fieldAt n 0 8 ≠ h then probe s g h parent toks ks
      else if fieldAt n ndParent 4 % 2 ^ 24 = parent && fieldAt n 64 256 = toks then return { node := some i }
      else do
        let r ← probe s g h parent toks ks
        return { r with clash := i :: r.clash }
/-- The node of a span under a parent. -/
def lookup (s : State) (g h parent toks : Nat) : Kv Found := probe s g h parent toks (List.range 8)
/-- Collisions are counted and reported. -/
def noteClash (site h : Nat) (l : List Nat) : Upd := each l (fun i => seqs [bump (pfxB site + R.PFX_CNT_COLLIDE) 1,
  evt (pfxR site) 0 0x0510 0 (payload [(24, 4, i), (28, 8, h)])])

/-- Walk the spans from the root: nodes matched, latest first, and collisions with their hash (R369). -/
def walk (s : State) (g ea : Nat) : Nat → Nat → Nat → Nat → Kv (List Nat × List (Nat × Nat))
  | 0, _, _, _ => .ok ([], [])
  | n + 1, k, parent, ph => do
    let toks ← kvRead s g ((ea + 256 * k) % 2 ^ 64) 256
    let h := spanHash s (g / 64) ph toks
    let f ← lookup s g h parent toks
    let clash := f.clash.map (fun i => (i, h))
    match f.node with
    | none => return ([], clash)
    | some i => do
      let r ← walk s g ea n (k + 1) i h
      return (r.1 ++ [i], clash ++ r.2)

/-! ## The instructions (R369, R370, R376) -/

/-- A node gains a hold. -/
def holdNode (site i : Nat) : Upd := read fun s =>
  let n := nodeF s site i ndHolds 2
  seqs [when (evictable s site i) (unlinkNode site i), setNodeF site i ndHolds 2 (n + 1), when (n = 0) (pfxAdd site R.PFX_HELD 1),
    ledAdd 0x02 site 0 3 1]

/-- PFXFIND. -/
def pfxFind (s : State) (g : Nat) (o : EOp) : Kv KvEnd := do
  let site := g / 64
  kvNeed (1 ≤ o.b && o.b ≤ 16384) 6
  let r ← walk s g o.a o.b 0 noNode 0
  let clash := each r.2 (fun c => noteClash site c.2 [c.1])
  let n := r.1.length
  let b := pfxB site
  match r.1 with
  | [] => return { high := noNode * 2 ^ 8, act := seqs [clash, bump (b + R.PFX_CNT_FIND) 1] }
  | i :: _ =>
    if nodeF s site i ndHolds 2 = 65535 then return { status := 5, high := noNode * 2 ^ 8, act := clash }
    else return { high := i * 2 ^ 8 + n * 2 ^ 32, act := seqs [clash, holdNode site i,
      each r.1 (fun k => setNodeF site k ndUse 8 (s.now / 1000)), bump (b + R.PFX_CNT_FIND) 1, bump (b + R.PFX_CNT_HIT) n] }

/-- Take one reference on a FULL block for the prefix unit. -/
def takeRef (site id : Nat) : Upd := read fun t =>
  let rc := memNum t (rcDpa t site id) 2
  moveRc site id 64 rc (rc + 1)
/-- Write a new node and enter it (R366, R370). -/
def writeNode (site i slot h ph parent depth toks : Nat) (ids : List Nat) : Upd := read fun s =>
  let b := bucketDpa s site (bucketOf s site h)
  seqs [read fun t => modPfx site (fun x => { x with free := nodeF t site i ndNext 4 % 2 ^ 24 }),
    memWrite (nodeDpa s site i) (toBytes 8 h ++ toBytes 8 ph ++ toBytes 4 parent ++ toBytes 2 0 ++ toBytes 2 1 ++ toBytes 4 1 ++ toBytes 4 depth
      ++ toBytes 8 (s.now / 1000) ++ toBytes 8 0 ++ toBytes 16 0 ++ toBytes 256 toks ++ ids.flatMap (toBytes 4)),
    memWrite (b + 8 * slot) (toBytes 8 (h / 2 ^ 24 * 2 ^ 24 + i + 1)),
    when (parent ≠ noNode) (read fun t => setNodeF site parent ndChildren 2 (nodeF t site parent ndChildren 2 + 1)),
    pfxAdd site R.PFX_FREE (-1), pfxAdd site R.PFX_LIVE 1, pfxAdd site R.PFX_HELD 1, ledAdd 0x02 site 0 3 1,
    bump (pfxB site + R.PFX_CNT_INSERT) 1]

/-- The least recently used evictable node of a bucket. -/
def bucketVictim (s : State) (site h : Nat) : Option Nat :=
  let b := bucketDpa s site (bucketOf s site h)
  let l := ((List.range 8).map (fun k => memNum s (b + 8 * k) 8)).filterMap (fun v =>
    let i := v % 2 ^ 24 - 1
    if v ≠ 0 && decide (i < nodeTotal s site) && evictable s site i then some i else none)
  l.foldl (fun m i => match m with | none => some i | some j => if nodeF s site i ndUse 8 < nodeF s site j ndUse 8 then some i else some j) none

/-- PFXINSERT. -/
def pfxInsert (s : State) (g : Nat) (o : EOp) : Kv KvEnd := do
  let site := g / 64
  kvNeed (o.b = 0) 6
  let r ← kvRead s g o.a 32
  kvNeed (fieldAt r 3 1 = 0 && fieldAt r 4 4 = 0 && fieldAt r 24 8 = 0) 6
  let parent := fieldAt r 0 4
  kvNeed (parent = noNode || decide (parent < nodeTotal s site)) 6
  let p ← (if parent = noNode then .ok 0 else kvRead s g (nodeDpa s site parent) 64 : Kv Nat)
  kvNeed (parent = noNode || (fieldAt p ndState 1 = 1 && fieldAt p ndHolds 2 ≠ 0)) 11
  let ph := if parent = noNode then 0 else fieldAt p 0 8
  let toks ← kvRead s g (fieldAt r 8 8) 256
  let h := spanHash s site ph toks
  let f ← lookup s g h parent toks
  let clash := noteClash site h f.clash
  match f.node with
  | some i => return { status := 9, high := i * 2 ^ 8, act := seqs [clash, bump (pfxB site + R.PFX_CNT_EXISTS) 1] }
  | none => do
    let ids ← kvAll (List.range (nodeBlocks s site)) (fun j => kvRead s g ((fieldAt r 16 8 + 4 * j) % 2 ^ 64) 4)
    kvNeed (ids.all (inPool s site)) 12
    let hs ← kvAll ids (blkHdr s g)
    kvNeed (hs.all (fun k => k.state = 2 && k.valid = 64)) 12
    let rcs ← kvAll ids (rcOf s g)
    kvNeed (rcs.all (· ≠ 0)) 12
    if (ids.zip rcs).any (fun e => decide (65535 < e.2 + timesOf ids e.1)) || fieldAt p ndChildren 2 = 65535 then return { status := 5, act := clash }
    let k := bucketOf s site h
    let slots ← kvAll (List.range 8) (fun j => kvRead s g (bucketDpa s site k + 8 * j) 8)
    let full := slots.all (· ≠ 0)
    let victim := if full then bucketVictim s site h else if (pfxOf s site).free = noNode then
      (if (pfxOf s site).head = noNode then none else some (pfxOf s site).head) else none
    if full && victim.isNone then return { status := 10, act := seqs [clash, bump (pfxB site + R.PFX_CNT_FULL) 1,
      evt (pfxR site) 2 0x0512 0 (payload [(24, 4, k), (28, 8, h)])] }
    if (pfxOf s site).free = noNode && victim.isNone then return { status := 1 + freeVal s % 255, act := seqs [clash, act .drawn] }
    let _ ← kvAll victim.toList (fun i => kvRead s g (nodeDpa s site i) (320 + 4 * nodeBlocks s site))
    let new := match victim with | some i => i | none => (pfxOf s site).free
    let slot := match victim.bind (fun i => if full then slotOfNode s site i else none) with
      | some j => j
      | none => ((List.range 8).find? (fun j => slots[j]? = some 0)).getD 0
    return { high := new * 2 ^ 8, act := seqs [clash, each ids (takeRef site), onSome victim (evictNode site),
      writeNode site new slot h ph parent (if parent = noNode then 0 else fieldAt p 28 4 + 1) toks ids,
      pfxLow site (rd s (pfxB site + R.PFX_FREE))] }

/-- PFXRELEASE. -/
def pfxRelease (s : State) (g : Nat) (o : EOp) : Kv KvEnd := do
  let site := g / 64
  let i := o.b
  kvNeed (decide (i < nodeTotal s site)) 6
  let n ← kvRead s g (nodeDpa s site i) 64
  let k := fieldAt n ndHolds 2
  kvNeed (fieldAt n ndState 1 = 1 && k ≠ 0) 11
  return { act := seqs [setNodeF site i ndHolds 2 (k - 1), ledAdd 0x02 site 0 4 1, when (k = 1) (seqs [pfxAdd site R.PFX_HELD (-1),
    read fun t => when (evictable t site i) (linkNode site i)])] }

/-- PFX_BUILD: the table empty, every node free, the key of PFX_KEY0–3 taken (R380). -/
def pfxBuild (site : Nat) : Upd := read fun s =>
  let b := pfxB site
  let n := nodeTotal s site
  let key := (List.range 4).foldl (fun k i => k + rd s (b + R.PFX_KEY i) * 2 ^ (32 * i)) 0
  seqs [memWrite (bucketDpa s site 0) (List.replicate (64 * 2 ^ fld s (b + R.PFX_BUCKETS) 4 0) 0),
    each (List.range n) (fun i => memWrite (nodeDpa s site i) (List.replicate 44 0 ++ toBytes 4 (if i + 1 = n then noNode else i + 1) ++ List.replicate 16 0)),
    modPfx site (fun x => { x with free := if n = 0 then noNode else 0, head := noNode, tail := noNode, key := key }),
    setReg (b + R.PFX_FREE) n, setReg (b + R.PFX_LIVE) 0, setReg (b + R.PFX_HELD) 0, ledSet 0x02 site 0 4 (led s 0x02 site 0 3)]

/-! ## The KV ports (R372, R376, R380, R381) -/

/-- Raise a source of the unit that opcode `op` goes to. -/
def kvFault (g op kvm pfx : Nat) : Upd := if op ≥ 0x6A then raise (pfxR (g / 64)) pfx 0 else raise (kvmR (g / 64)) kvm 0
/-- What a status raises: 6 a sequence error, 7 poison, 11 of the prefix unit a sequence error (R376, R381). -/
def kvStatusFault (g op st : Nat) : Upd :=
  if st = 6 then kvFault g op kmSeq pxSeq else if st = 7 then kvFault g op kmPoison pxPoison
  else if st = 8 then kvFault g op kmTime pxTime
  else when (st = 11 && decide (op ≥ 0x6A)) (raise (pfxR (g / 64)) pxSeq 0)

/-- What the operation at a port's head comes to. -/
def kvRun (s : State) (g : Nat) (o : EOp) : Kv KvEnd :=
  match o.op with
  | 0x64 => kvAppend s g o
  | 0x65 => if o.b > 256 then .error 6 else kvCommit s g o.a o.b
  | 0x66 => if o.b ≠ 0 then .error 6 else kvCommit s g o.a 0
  | 0x67 => kvRef s g o
  | 0x68 => kvRelease s g o
  | 0x69 => kvFork s g o
  | 0x6A => pfxFind s g o
  | 0x6B => pfxInsert s g o
  | _ => pfxRelease s g o
/-- rd where an operation ends with a status of R376 only: PFXFIND and PFXINSERT name no node. -/
def kvValue (op st : Nat) : Nat := if op = 0x6A ∨ op = 0x6B then st + noNode * 2 ^ 8 else st

/-- The head of a port completes. -/
def kvPop (g : Nat) (o : EOp) (v : Nat) : Upd := seqs [modAtt g (fun x => { x with kv := x.kv.drop 1, kvSince := none }),
  engResult g o v false, wakeKv g]
/-- Work off a port from its head while something can be done: in RUN, and in FAULT with status 8; what has begun goes on in
DRAIN. -/
def kvAdvance (g : Nat) : Nat → Upd
  | 0 => skip
  | fuel + 1 => read fun s =>
    let x := attOf s g
    onSome x.kv.head? fun o =>
      let r := kvUnit (g / 64) o.op
      let st := pgState s r
      let next := kvAdvance g fuel
      when (opReady s g o && !clockLost s r) (
        if st = stFAULT then seqs [kvPop g o (kvValue o.op 8), next]
        else when (st = stRUN || (st = stDRAIN && x.kvSince.isSome)) (match kvRun s g o with
          | .error 0 => when x.kvSince.isNone (modAtt g (fun y => { y with kvSince := some s.now }))
          | .error st => seqs [kvPop g o (kvValue o.op st), kvStatusFault g o.op st, next]
          | .ok e => seqs [e.act, kvPop g o (e.status + e.high), kvStatusFault g o.op e.status, next]))
/-- Work off a port. -/
def kvGo (g : Nat) : Upd := read fun s => when (!(attOf s g).kv.isEmpty) (kvAdvance g 9)
/-- Work off the ports of a site. -/
def siteKv (site : Nat) : Upd := each ((List.range 64).map (· + site * 64)) (fun g => read fun s =>
  when (!(attOf s g).kv.isEmpty || (coreThreads s g).any (fun e => e.2.wait = .queue 7)) (seqs [wakeKv g, kvGo g]))
/-- Is an operation of a unit in progress? -/
def kvBusy (s : State) (r : Page.Ref) : Bool := ((List.range 64).map (· + r.inst * 64)).any (fun g =>
  let x := attOf s g
  x.kvSince.isSome && (match x.kv.head? with | some o => kvUnit r.inst o.op = r | none => false))
/-- A read of a core's port head not complete within its unit's limit: status 8 (R381). -/
def kvExpiry (g : Nat) (pfx : Bool) : Upd := seqs [kvGo g, read fun s =>
  let x := attOf s g
  match x.kv, x.kvSince with
  | o :: _, some t =>
    let limit := if pfx then fld s (pfxB (g / 64) + R.PFX_TIMEOUT) 15 0 else fld s (kvmB (g / 64) + R.KVM_TIMEOUT) 15 0
    when (decide (o.op ≥ 0x6A) = pfx && decide (s.now ≥ t + limit * 1000))
      (seqs [kvPop g o (kvValue o.op 8), kvStatusFault g o.op 8, kvGo g])
  | _, _ => skip]

end Sys2Proof.Machine
end

