-- ==== Sys2Proof/Machine/SapCtl.lean ====
section
/-! DEFINITION. Sys2Proof/Machine/SapCtl.lean: the sap port, starting and ending calls, reduction steps, faults of a call, and the
commands of the SAP page (R321 to R337). -/
namespace Sys2Proof.Machine
open Sys2Proof

abbrev sPoison : Nat := 0
abbrev sIllegal : Nat := 1
abbrev sAddr : Nat := 2
abbrev sParity : Nat := 3
abbrev sRedTime : Nat := 4
abbrev sCallTime : Nat := 5
abbrev sCallSeq : Nat := 6

/-- A unit's call aborts on a source, which is then raised (R336). -/
def unitFault (g k n : Nat) : Upd := read fun s => seqs [abortCall evt g (unitOf s g k).call n 0, raise (sapR g) n 0]

/-! ## The port (R326, R329, R334) -/

/-- Is a HALT of the page in progress or done? -/
def sapHalting (s : State) (g : Nat) : Bool :=
  pgState s (sapR g) = stHALT || (match SMap.find (sapB g) s.busy with | some b => b.op = 4 | none => false)
/-- Does anything start or run on the page: RUN or DRAIN, power present, no thermal halt? -/
def sapWorks (s : State) (g : Nat) : Bool :=
  let st := pgState s (sapR g)
  (st = stRUN || st = stDRAIN) && coreWorks s g && !clockLost s (sapR g)
/-- Does the port accept an instruction? -/
def sapRoom (s : State) (g : Nat) : Bool :=
  let st := pgState s (sapR g)
  decide ((sapOf s g).port.length < 8) && (st = stIDLE || st = stRUN || st = stHALT || st = stFAULT)
/-- Threads waiting for the port look again. -/
def wakeSap (g : Nat) : Upd := read fun s => wakeQueue g 5 (sapRoom s g)

/-- The call word of a UNIT_CALL (R335). -/
def unitCallWord (a : Nat) : Nat := bits a 22 19 * 2 ^ 26 + bits a 18 8 * 2 ^ 8 + a % 256
/-- UNIT_CALL enters the tail of the port, as soon as it has room. -/
def unitCallEnter (g : Nat) : Upd := read fun s =>
  let x := sapOf s g
  match SMap.find (sapB g) s.busy with
  | some b => when (b.op = 0x10 && decide (x.port.length < 8) && x.port.all (fun o => o.op ≠ 0x100 || o.own ≠ b.seq)
        && x.calls.all (fun c => c.op.op ≠ 0x100 || c.op.own ≠ b.seq))
      (setSap g { x with port := x.port ++ [{ op := 0x100, th := 0, own := b.seq, b := unitCallWord b.arg, time := s.now }] })
  | none => skip
/-- The head leaves the port. -/
def portPop (g : Nat) : Upd := seqs [modSap g (fun x => { x with port := x.port.drop 1 }), unitCallEnter g, wakeSap g]

/-- Is a call or load word legal (R327)? -/
def callWordOk (g : Nat) (o : EOp) : Bool :=
  let b := o.b
  if o.op = loadOp then true
  else if o.op = 0x91 then bits b 63 32 = 0 && bits b 19 19 = 0 && b % 256 ≠ 0 && decide (bits b 18 8 + bits b 31 20 + 1 ≤ 2048)
  else if o.op = 0x92 then b < 256
  else bits b 63 51 = 0 && !bit b 31 && b % 256 ≠ 0 && (if cwRed b then decide (cwRoot b / 64 = g / 64) else bits b 50 32 = 0)

/-- Units of a mask. -/
def maskUnits (m : Nat) : List Nat := (List.range 8).filter (bit m)
/-- Is every unit of the mask idle, and its layer's island running? -/
def unitsIdle (s : State) (g m : Nat) : Bool := (maskUnits m).all (fun k => (unitOf s g k).state = 0 && !islandLost s 3 (g / 64) k)

/-- An instruction or command joins the calls that have ended, with no unit (status 0). -/
def endVoid (g : Nat) (o : EOp) : Upd := read fun s => modSap g (fun x =>
  { x with next := x.next + 1, calls := x.calls ++ [{ id := x.next, op := o, time := s.now, mask := 0, tallied := true }] })

/-- The memory an instruction of the port reads: address and length. -/
def portRange (o : EOp) : Nat × Nat := if o.op = 0x90 then (o.a, 64) else if o.op = 0x91 then (o.a, 4 * (bits o.b 31 20 + 1)) else (0, 0)

/-- Start a unit for a call. -/
def startUnit (g k id : Nat) (o : EOp) (args : List Nat) : Upd := seqs [
  when (o.op = 0x90) (each (List.range 16) (fun i => setReg (sapB g + R.SU_ARG k i) ((args[i]?).getD 0))),
  setReg (sapB g + R.SU_CALL k) ((if o.op = 0x100 then 0xFFF else g) * 2 ^ 16 + b2n (cwRed o.b) * 2 ^ 15 + cwGrp o.b * 2 ^ 11 + bits o.b 18 8),
  bump (sapB g + R.SU_CNT_CALLS k) 1,
  read fun s => modUnit g k (fun u =>
    let args := if o.op = 0x90 then args else (List.range 16).map (fun i => rd s (sapB g + R.SU_ARG k i))
    let v := { u with state := 1, pc := bits o.b 18 8, args := args, call := id, sent := 0, got := 0, back := [], banks := [] }
    { v with edge := false, susp := false, past := false, met := false, wrote := 0 })]

/-- A call starts. -/
def startCall (g : Nat) (o : EOp) (args : List Nat) : Upd := read fun s =>
  let id := (sapOf s g).next
  let c : SapCall := { id := id, op := o, time := s.now, mask := o.b % 256, orphan := decide (o.op = 0x90 ∧ o.own = sapLost) }
  seqs [modSap g (fun x => { x with next := id + 1, calls := x.calls ++ [c] }),
    each (maskUnits (o.b % 256)) (fun k => startUnit g k id o args),
    bump (sapB g + R.SAP_CNT_CALLS) 1, sapLed g 0x09 0 1, sapLed g 0x09 3 1]

/-- A load writes its words into every unit's store (R326, R328); a broadcast's, with inverted parity where its site is fenced (R674, R675). -/
def loadStore (g : Nat) (o : EOp) (d : Nat) : Upd := seqs [
  each (maskUnits (o.b % 256)) (fun k => modUnit g k (fun u => { u with
    store := (List.range (bits o.b 31 20 + 1)).foldl (fun m i => SMap.set 0 (bits o.b 18 8 + i) (d / 2 ^ (32 * i) % 2 ^ 32) m) u.store,
    bad := u.bad.filter (fun a => !decide (bits o.b 18 8 ≤ a ∧ a ≤ bits o.b 18 8 + bits o.b 31 20)) ++
      (if o.op = loadOp ∧ o.d = 1 then (List.range (bits o.b 31 20 + 1)).map (· + bits o.b 18 8) else []) })),
  if o.op = loadOp then modBc (fun b => if b.id = o.own then { b with made := b.made + 1 } else b) else endVoid g o]

/-- Abort the running calls of the units in a mask (R329, R335). -/
def maskAbort (g m : Nat) : Upd := read fun s =>
  each (sapOf s g).calls (fun c => when (c.live.any (bit m)) (abortCall evt g c.id 0xFE 0))

/-- The head of the port starts, if it may: a wrong word or poisoned data complete it without effect (R327 to R329). -/
def portStart (g : Nat) : Upd := read fun s =>
  match (sapOf s g).port with
  | [] => skip
  | o :: _ =>
    let (ea, n) := portRange o
    let after := 0x100 ≤ o.op || (thr s g o.th).slots.all (fun m => !o.after.contains (m.pc, m.time))
    let bad := if n = 0 then none else if eaSpace ea ≤ 1 then eaFault s g ea n 8 else some cAddr
    let free := o.op = 0x91 || o.op = loadOp || (groupCall s g (cwGrp o.b)).isNone
    when (sapWorks s g && !sapHalting s g && after) (
      if !callWordOk g o then seqs [portPop g, endVoid g o, raise (sapR g) sCallSeq 0]
      else if o.op = 0x92 then seqs [portPop g, maskAbort g o.b, endVoid g o]
      else match bad with
      | some f => seqs [portPop g, engError g o f ea false]
      | none => when (unitsIdle s g (o.b % 256) && free && !(n ≠ 0 && engRetries s ea n)) (
          let d := engNum s g [] ea n
          if d.2 then seqs [portPop g, endVoid g o, raise (sapR g) sPoison 0]
          else seqs [portPop g, if o.op = 0x91 then loadStore g o d.1 else if o.op = loadOp then loadStore g o o.a else startCall g o ((List.range 16).map (fun i => d.1 / 2 ^ (32 * i) % 2 ^ 32))]))

/-! ## The end of a call (R330, R331) -/

/-- The call status. -/
def callStatus (c : SapCall) : Nat := c.poisoned % 256 * 2 ^ 16 + c.aborted % 256 * 2 ^ 8 + c.ended % 256
/-- The token signal of a call: counted as the core's own. -/
def callSignal (g k : Nat) : Upd := read fun s =>
  if tokOver s g k 1 then seqs [tokLed g 0 1, tokLed g 2 1, raise ⟨.CORE, g⟩ cTokOvf 0] else seqs [tokLed g 0 1, tokLed g 1 1, addTok g k 1]

/-- The first call with no live unit is reported: the status to s[rd], then the token; what a core reset orphaned is discarded and
counted. -/
def callEnd (g : Nat) : Upd := read fun s =>
  onSome ((sapOf s g).calls.find? (fun c => c.live.isEmpty)) fun c =>
    let o := c.op
    let sig := o.op = 0x90 && bit o.b 19 && c.mask ≠ 0
    seqs [modSap g (fun x => { x with calls := x.calls.filter (·.id ≠ c.id) }),
      when (!c.tallied) (seqs [sapLess g 0x09 1, sapLed g 0x09 (if c.aborted = 0 then 1 else 2) 1]),
      if o.op = 0x100 then when (match SMap.find (sapB g) s.busy with | some b => b.op = 0x10 && b.seq = o.own | none => false)
          (endBusy evt (sapR g) (if c.aborted = 0 && c.mask ≠ 0 then 1 else 7))
      else if c.orphan then seqs [engDone g o, when (o.op = 0x90) (reqLed g 5 (1 + b2n sig))]
      else seqs [if o.op = 0x90 then engResult g o (callStatus c) false else engDone g o,
        when sig (callSignal g (bits o.b 25 20))]]

/-! ## Reductions (R321 to R324) -/

/-- A result on its way to a unit. -/
def sendBack (g k m v : Nat) (pz : Bool) : Upd := modSap g (fun x => { x with back := x.back ++ [(k, m, v, pz)] })

/-- A unit sends its next partial; of an abandoned step it is discarded and answered with poison. -/
def sendPart (g k op v : Nat) (pz : Bool) : Upd := read fun s =>
  let u := unitOf s g k
  let m := u.sent
  onSome (callOf s g u.call) fun c =>
    let first := c.live.all (fun j => j = k || decide ((unitOf s g j).sent ≤ m))
    let root := redRoot g c
    seqs [setUnit g k { u with sent := m + 1, met := u.met || pz }, sapLed g 0x08 0 1,
      if (match c.dead with | some n => decide (n ≤ m) | none => false) then seqs [sapLed g 0x08 2 1, sendBack g k m 0 true,
        when first (seqs [bump (sapB g + R.SAP_CNT_ABANDONED) 1,
          evt (sapR g) 2 0x0442 0 (payload [(24, 1, cwGrp c.op.b), (25, 1, m), (26, 2, root), (28, 1, partsMissing s g c m)])])]
      else seqs [sapLed g 0x08 3 1,
        modSap g (fun x => { x with parts := x.parts ++ [{ key := c.id, step := m, src := k, op := op, val := v, pz := pz, time := s.now }] })]]

/-- Partials in ascending order of their sources. -/
def inOrder (n : Nat) (l : List SapPart) : List SapPart := (List.range n).flatMap (fun i => l.filter (·.src = i))
/-- A step's combined value: its operation, value and poison; open where the operations differ. -/
def combined (s : State) (l : List SapPart) : Nat × Nat × Bool :=
  let op := (l.head?.map (·.op)).getD 0
  (op, redCombine op (l.all (·.op = op)) (freeVal s) (l.map (·.val)), l.any (·.pz))
/-- Did the partials differ in their operation? -/
def mixed (l : List SapPart) : Bool := l.any (fun p => l.any (·.op ≠ p.op))

/-- The lowest step of a call with a partial from every unit of its mask. -/
def unitStep (s : State) (g : Nat) (c : SapCall) : Option (List SapPart) :=
  let l := ownParts s g c 0
  (l.map (·.step)).eraseDups.findSome? (fun m =>
    let p := inOrder 8 (l.filter (·.step = m))
    if p.length = (maskUnits c.mask).length then some p else none)
/-- A core's path combines a step of its running call of a group. -/
def combineUnits (g grp : Nat) : Upd := read fun s =>
  onSome (groupCall s g grp) fun c => onSome (unitStep s g c) fun l =>
    let m := (l.head?.map (·.step)).getD 0
    let (op, v, pz) := combined s l
    let at0 := l.foldl (fun t p => min t p.time) s.now
    seqs [modSap g (fun x => { x with parts := x.parts.filter (fun p => !(!p.core && p.key = c.id && p.step = m)) }),
      sapLess g 0x08 l.length, sapLed g 0x08 1 l.length, bump (sapB g + R.SAP_CNT_STEPS) 1, when (mixed l) (act .drawn),
      if cwRed c.op.b then modSap (cwRoot c.op.b) (fun x => { x with parts := x.parts ++
        [{ key := grp, step := m, src := g, op := op, val := v, pz := pz, time := at0, core := true }] })
      else each c.live (fun k => sendBack g k m v pz)]
/-- The root's path combines the cores' partials of a step of a group, and returns the result. -/
def combineCores (root grp : Nat) : Upd := read fun s =>
  let l := (sapOf s root).parts.filter (corePart grp 0)
  let step := (l.map (·.step)).eraseDups.findSome? (fun m =>
    let p := inOrder 4096 (l.filter (·.step = m))
    match (p.head?.bind (fun e => groupCall s e.src grp)) with
    | some c => if p.length = cwCores c.op.b then some p else none
    | none => none)
  onSome step fun p =>
    let m := (p.head?.map (·.step)).getD 0
    let (_, v, pz) := combined s p
    seqs [modSap root (fun x => { x with parts := x.parts.filter (fun e => !(corePart grp 0 e && e.step = m)) }),
      when (mixed p) (act .drawn),
      each p (fun e => read fun t => onSome (groupCall t e.src grp) (fun c => each c.live (fun k => sendBack e.src k m v pz)))]

/-- Steps that have waited longer than SAP_TIMEOUT of the root since their first partial: the call at the root, and the first
such step. -/
def staleStep (s : State) (g grp : Nat) : Option (SapCall × Nat) :=
  match groupCall s g grp with
  | none => none
  | some c =>
    let parts := (partners s g c).flatMap (fun e => ownParts s e.1 e.2 0) ++ (sapOf s g).parts.filter (fun p => cwRed c.op.b && corePart grp 0 p)
    let old := parts.filter (fun p => s.now ≥ p.time + 1000 * fld s (sapB g + R.SAP_TIMEOUT) 15 0)
    match old with
    | [] => none
    | p :: l => some (c, l.foldl (fun m q => min m q.step) p.step)
/-- A reduction step rooted at a core times out (R324, R336). -/
def stepTimeout (g grp : Nat) : Upd := read fun s =>
  onSome (staleStep s g grp) fun (c, m) => when (redRoot g c = g) (seqs [
    abandonFrom evt g c m 1, abortCall evt g c.id sRedTime 0, raise (sapR g) sRedTime 0])

/-! ## Commands (R335) -/

/-- Are the drain conditions met (R334)? -/
def sapDrained (s : State) (r : Page.Ref) (_ : Nat) : Bool :=
  let x := sapOf s r.inst
  x.port.isEmpty && x.calls.isEmpty && (List.range 16).all (fun n => (groupCores s r.inst n).isEmpty)
    && (List.range 8).all (fun k => (unitOf s r.inst k).state = 0)
/-- SAP_CLEAR_COUNTS. -/
def sapClear (r : Page.Ref) : Upd := seqs [zeroRegs r (regRun R.SAP_CNT_CALLS 3),
  each (List.range 8) (fun k => seqs [zeroRegs r (regRun (R.SU_CNT_CALLS k) 5), setFld (Page.base r + R.SU_ATOM k) 31 16 0])]

/-- The commands of the SAP page. -/
def sapCmds : List CmdDef :=
  [ { cReset with fin := fun r _ _ => seqs [toIdle r, wakeSap r.inst] }, cStart,
    { (cDrain sapDrained) with fin := fun r _ _ => seqs [toIdle r, wakeSap r.inst] },
    cHalt (fun _ _ => skip) (fun s r _ => (List.range 8).all (fun k => (unitOf s r.inst k).state ≠ 1)),
    { cResume with run := fun r _ => seqs [setState r stRUN, sapWake r.inst] },
    { cClear with run := fun r _ => seqs [toIdle r, portVoid r.inst, wakeSap r.inst] },
    { op := 0x10, legal := [stRUN], waits := true, argOk := fun _ _ a => decide (a < 2 ^ 23) && a % 256 ≠ 0,
      run := fun r _ => unitCallEnter r.inst, ready := fun _ _ _ => false },
    { op := 0x11, legal := [stRUN, stDRAIN, stHALT, stFAULT], waits := true, argOk := fun _ _ a => decide (a < 256),
      run := fun r a => maskAbort r.inst a, ready := fun s r a => (maskUnits a).all (fun k => (unitOf s r.inst k).state = 0) },
    simpleCmd 0x12 anyState sapClear ]

/-- What the SAP page checks of a write: SU_PROG_DATA only of an idle unit. -/
def sapCheck (s : State) (g o : Nat) : Nat := if o % 0x200 = 0x10C ∧ (unitOf s g (o / 0x200)).state ≠ 0 then 2 else 0
/-- What a write of SU_PROG_DATA does: it stores the word and steps the address. -/
def sapHook (g o new : Nat) : Upd :=
  let k := o / 0x200
  let a := sapB g + R.SU_PROG_ADDR k
  when (o % 0x200 = 0x10C) (read fun s => seqs [modUnit g k (fun u => { u with store := SMap.set 0 (fld s a 10 0) new u.store, bad := u.bad.filter (· ≠ fld s a 10 0) }), setFld a 10 0 (fld s a 10 0 + 1)])

/-- A sap layer's island is lost: the calls of every unit in it abort; if its restart fails the site's SAP pages enter FAULT
(R502). -/
def sapLayerLost (site k : Nat) (ok : Bool) : Upd := seqs [
  each (List.range 64) (fun c => maskAbort (site * 64 + c) (2 ^ k)),
  when (!ok) (each (List.range 64) (fun c => enterFault evt (sapR (site * 64 + c)) 0))]

end Sys2Proof.Machine
end

