-- ==== Sys2Proof/Machine/Quiet.lean ====
section
/-! DEFINITION. Sys2Proof/Machine/Quiet.lean: the drain conditions: the layer barrier and the CORE page's DRAIN and HALT
(R405 to R408, R126). -/
namespace Sys2Proof.Machine
open Sys2Proof

/-- Does the thread wait in a DRAIN instruction? -/
def inDrain (t : Thread) : Bool := t.eff = tWSYNC && t.wait = .drain

/-- The head of ring `n`: its oldest buffered descriptor. -/
def headOf (x : Stream) (n : Nat) : Option (Nat × Nat) := (x.buf.find? (·.1 = n)).map (·.2)
/-- The kind byte of a descriptor. -/
def descKind (d : Nat) : Nat := d % 256
/-- Is a DRAIN descriptor at the head of ring `n`? -/
def drainHead (x : Stream) (n : Nat) : Bool := match headOf x n with | some (_, d) => descKind d = 4 | none => false

/-- Is a layer barrier pending on the core? (R405) -/
def barrierPending (s : State) (g : Nat) : Bool :=
  (List.range 4).any (drainHead (streamOf s g))
    || ((coreThreads s g).any (fun e => inDrain e.2) && (coreThreads s g).all (fun e => e.2.state = tFREE || inDrain e.2))

/-- R406, condition 1: every thread is free or waits in DRAIN with nothing outstanding. -/
def threadsQuiet (s : State) (g : Nat) : Bool :=
  (coreThreads s g).all (fun e => e.2.state = tFREE || (inDrain e.2 && e.2.slots.isEmpty && e.2.eng = 0))

/-- R406, condition 5: no completed descriptor still owes its record or signals. -/
def descQuiet (s : State) (g : Nat) : Bool :=
  (streamOf s g).sigs.isEmpty && (streamOf s g).running.all (fun r => r.kind = 3 || r.threads.any (fun th => (thr s g th).state ≠ tFREE))

/-- The wait words of a descriptor: token and count (R388). -/
def waitWords (d : Nat) : List (Nat × Nat) := [(bits d 37 32, bits d 63 48), (bits d 69 64, bits d 95 80)]
/-- Are its waits met? Both on one token need the sum (R397). -/
def waitsMet (s : State) (g d : Nat) : Bool :=
  let w := (waitWords d).filter (·.2 ≠ 0)
  w.all (fun x => decide ((w.filter (·.1 = x.1)).foldl (fun n y => n + y.2) 0 ≤ tok s g x.1))

/-- R406, condition 3: the sap port is empty, its units are idle, and no group is held or rooted. -/
def sapQuiet (s : State) (g : Nat) : Bool :=
  (sapOf s g).port.isEmpty && (List.range 8).all (fun k => (unitOf s g k).state = 0)
    && (List.range 16).all (fun n => (groupCall s g n).isNone && (groupCores s g n).isEmpty)
/-- R406, condition 4: the dispatch and KV ports are empty, and nothing they forwarded is in progress. -/
def portsQuiet (s : State) (g : Nat) : Bool := (portOf s g).q.isEmpty && (portOf s g).drets.isEmpty && (attOf s g).kv.isEmpty

/-- R406: every condition of a pending barrier. -/
def barrierMet (s : State) (g : Nat) : Bool :=
  threadsQuiet s g && arrQuiet s g && mvQuiet s g && attQuiet s g && sapQuiet s g && portsQuiet s g && descQuiet s g
    && (List.range 4).all (fun n => !drainHead (streamOf s g) n || (match headOf (streamOf s g) n with | some (_, d) => waitsMet s g d | none => true))

/-- The CORE page's DRAIN is done (R408). -/
def coreDrained (s : State) (r : Page.Ref) (_ : Nat) : Bool :=
  let x := streamOf s r.inst
  x.buf.isEmpty && x.running.isEmpty && x.sigs.isEmpty && barrierMet s r.inst && (coreThreads s r.inst).all (fun e => e.2.state = tFREE)

/-- The commands of the CORE page (R126). -/
def coreCmds : List CmdDef :=
  [ { cReset with run := fun r a => seqs [unlose (fun x => x = (0, r.inst / 64, r.inst % 64)), cReset.run r a, resetBlock evt ⟨.MXU, r.inst⟩ 2] },
    { cStart with run := fun r _ => read fun s => seqs [setState r stRUN, act (.stream r.inst { streamOf s r.inst with stopped := [] })] },
    cDrain coreDrained,
    cHalt (fun r _ => stopThreads r.inst) (fun s r _ => slotsEmpty s r.inst),
    { cResume with run := fun r _ => seqs [setState r stRUN, resumeThreads r.inst] },
    { cClear with run := fun r _ => seqs [toIdle r, freeThreads evt r.inst 0] },
    { op := 0x10, legal := [stIDLE, stHALT, stFAULT], waits := true, argOk := fun _ _ a => a < 64,
      fails := fun s r a => let st := (thr s r.inst a).state; st ≠ tFAULT && st ≠ tSTOPPED,
      ready := fun s r a => (thr s r.inst a).slots.isEmpty,
      fin := fun r a _ => killThread r.inst a },
    { op := 0x11, legal := [stIDLE, stHALT], waits := true, fin := fun r _ _ => flushLeaf r.inst },
    simpleCmd 0x12 anyState coreClear ]

/-- ARR_CLEAR_COUNTS (R181). -/
def arrClear (r : Page.Ref) : Upd :=
  seqs [zeroRegs r (regRun R.MXU_CNT_PASS 10 ++ [R.MXU_SKID_MAX]),
    each [R.MXU_ABORT_N, R.MXU_ABORT_S] (fun o => setFld (Page.base r + o) 31 24 0xFF)]
/-- MV_CLEAR_COUNTS (R217). -/
def mvClear (r : Page.Ref) : Upd :=
  seqs [zeroRegs r (regRun R.MXU_MV_CNT_RUN 7), setFld (Page.base r + R.MXU_MV_ABORT) 31 24 0xFF]

/-- The commands of the MXU page (R181, R217). -/
def mxuCmds : List CmdDef :=
  [ cReset, { cStart with run := fun r _ => seqs [setState r stRUN, wakeMxu r.inst, mvGo r.inst, attGo r.inst] },
    { (cDrain (fun s r _ => arrQuiet s r.inst && mvQuiet s r.inst && attQuiet s r.inst)) with
      fin := fun r _ _ => seqs [toIdle r, wakeMxu r.inst, wakeAtt r.inst] },
    cHalt (fun _ _ => skip) (fun _ _ _ => true),
    { cResume with run := fun r _ => seqs [setState r stRUN, mvGo r.inst, attGo r.inst] },
    { cClear with run := fun r _ => seqs [toIdle r, mxuDiscard r.inst] },
    { op := 0x10, legal := [stIDLE, stRUN, stHALT, stFAULT], waits := true,
      argOk := fun s r a => a = 3 || ((a = 1 || a = 2) && splitOn s r.inst),
      run := fun r a => seqs [when (a % 2 = 1) (halfReset r.inst 0), when (a ≥ 2) (halfReset r.inst 1), attGo r.inst] },
    simpleCmd 0x11 anyState arrClear,
    { op := 0x20, legal := [stIDLE, stRUN, stHALT, stFAULT], waits := true, run := fun r _ => seqs [mvReset r.inst, attGo r.inst] },
    simpleCmd 0x21 anyState mvClear,
    { op := 0x30, legal := [stIDLE, stRUN, stHALT, stFAULT], waits := true, run := fun r _ => seqs [attReset r.inst, mvGo r.inst] },
    simpleCmd 0x31 anyState (fun r => seqs [zeroRegs r (regRun R.MXU_ATT_CNT_RUNS 8), setFld (Page.base r + R.MXU_ATT_ABORT) 31 24 0xFF]) ]

/-- The commands of the DSP page (R262, R263). -/
def dspCmds : List CmdDef :=
  [ cReset, { cStart with run := fun r _ => seqs [setState r stRUN, sitePorts r.inst] },
    cDrain (fun s r _ => (dspOf s r.inst).rounds.isEmpty && (dspOf s r.inst).pins.isEmpty),
    cHalt (fun _ _ => skip) (fun _ _ _ => true),
    { cResume with run := fun r _ => seqs [setState r stRUN, sitePorts r.inst] }, cClear,
    { op := 0x10, legal := [stRUN, stHALT], waits := true, argOk := fun _ _ a => a < 16,
      fails := fun s r a => ((dspOf s r.inst).round a).isNone,
      run := fun r a => read fun s => onSome ((dspOf s r.inst).round a) (abortRound r.inst 0xFE) },
    { op := 0x11, legal := [stIDLE, stHALT, stFAULT], waits := true, run := fun r _ => sendUnpins r.inst false (fun _ => true),
      ready := fun s r _ => (dspOf s r.inst).held = 0 },
    simpleCmd 0x12 anyState (fun r => seqs [zeroRegs r (regRun R.DSP_CNT_ROUNDS 12), setFld (Page.base r + R.DSP_LAST_ABORT) 31 24 0xFF]) ]

/-- The common commands of the KVM and PFX pages (R380). -/
def kvCmds : List CmdDef :=
  [ cReset, { cStart with run := fun r _ => seqs [setState r stRUN, siteKv r.inst] }, cDrain (fun s r _ => !kvBusy s r),
    cHalt (fun _ _ => skip) (fun _ _ _ => true), { cResume with run := fun r _ => seqs [setState r stRUN, siteKv r.inst] }, cClear ]
/-- The commands of the KVM page. -/
def kvmCmds : List CmdDef :=
  kvCmds ++ [ { op := 0x10, legal := [stIDLE], waits := true, run := fun r _ => kvmBuild r.inst },
    simpleCmd 0x11 anyState (fun r => zeroRegs r (regRun R.KVM_CNT_ALLOC 8)) ]
/-- The commands of the PFX page. -/
def pfxCmds : List CmdDef :=
  kvCmds ++ [ { op := 0x10, legal := [stIDLE], waits := true, run := fun r _ => pfxBuild r.inst },
    { op := 0x11, legal := [stIDLE, stRUN], waits := true,
      run := fun r _ => read fun s => evictWhile r.inst (fun _ => true) (rd s (pfxB r.inst + R.PFX_LIVE)) },
    simpleCmd 0x12 anyState (fun r => zeroRegs r (regRun R.PFX_CNT_FIND 7)) ]

/-- SLC_CLEAR_COUNTS (R298). -/
def slcClear (r : Page.Ref) : Upd :=
  seqs [zeroRegs r (regRun R.SLC_CNT_CLS0 8), each (List.range 8) (fun k => zeroRegs r (regRun (R.CH_CNT_RD k) 9))]

/-- The channel a RETRAIN names. -/
def rtChan (a : Nat) : Nat := a % 8

/-- The commands of the SLC page (R298): a RETRAIN ends when its retraining has, FAILED if the channel failed. -/
def slcCmds : List CmdDef :=
  [ cReset, cStart, cHalt (fun _ _ => skip) (fun _ _ _ => true), cResume, cClear,
    { op := 0x10, legal := [stIDLE, stRUN, stHALT], waits := true, argOk := fun _ _ a => a / 8 % 32 = 0 && a < 512,
      fails := fun s r a => !chServes s r.inst (rtChan a) && chState s r.inst (rtChan a) ≠ 5,
      run := fun r a => startRetrain r.inst (rtChan a) (bit a 8) false,
      ready := fun s r a => let c := chanAt s r.inst (rtChan a); c.rt.isNone && c.hold.isNone && chState s r.inst (rtChan a) ≠ 6,
      canFail := fun _ _ _ => true },
    simpleCmd 0x11 [stIDLE, stRUN, stHALT, stFAULT] slcClear ]

/-- The commands of the TILE page (R577). -/
def tileCmds : List CmdDef :=
  [ { op := 1, legal := [stIDLE, stRUN, stFAULT], waits := true, canFail := fun _ _ _ => true,
      run := fun r _ => read fun s => when (decide (pgState s r ≠ stRESET)) (tileBegin evt r.inst 2),
      ready := fun s r _ => !tileBusy s r.inst,
      fin := fun r _ ok => if ok then tileEnd evt fwStart r.inst else restartFailed },
    cStart, cClear ]

/-- The commands of the CLK page (R514). -/
def clkCmds : List CmdDef :=
  [ { op := 0x10, legal := [stRUN, stFAULT], waits := true,
      argOk := fun s _ a => decide (a < 2 ^ 20) && decide (a % 64 ≤ 48) && decide (a % 64 ≤ fld s (clkB + R.CLK_LIMIT) 5 0) && decide (bits a 7 6 ≠ 3),
      run := fun _ a => freqSetAll a, ready := fun s _ a => (freqScope s a).all (fun g => !domOn s (g / 64) (g % 64) .core
        || islandLost s 0 (g / 64) (g % 64) || decide (freqCur s g = freqTarget s g)) },
    { op := 0x11, legal := [stRUN, stFAULT], waits := true, canFail := fun _ _ _ => true,
      argOk := fun s _ a => decide (a < 64) && siteEnabled s a && !(pgState s ⟨.TILE, a⟩ = stOFF || pgState s ⟨.TILE, a⟩ = stRESET),
      run := fun _ a => tileBegin evt a 2,
      fin := fun _ a ok => if ok then seqs [tileEnd evt fwStart a, endBusy evt ⟨.TILE, a⟩ 1] else seqs [restartFailed, endBusy evt ⟨.TILE, a⟩ 7] },
    simpleCmd 0x12 [stRUN, stFAULT] (fun r => zeroRegs r (regRun R.CLK_CNT_LOST 3)) ]

/-- The commands of the TIM page (R516): an exchange ends PTM_NOW. -/
def timCmds : List CmdDef :=
  [ { op := 0x10, legal := [stRUN], waits := true, fails := fun s _ _ => fld s (timB + R.TIM_CTRL) 0 0 = 0,
      ready := fun _ _ _ => false, canFail := fun _ _ _ => true } ]

/-- The commands of the TRK page (R77). -/
def trkCmds : List CmdDef :=
  [ { op := 0x10, legal := [stRUN, stFAULT], waits := true, run := fun _ _ => seqs [chipReset 8, bootRom] } ]

/-- The commands of TFLT, DFLT, LDG and LDGD (R656). -/
def latchCmds : List CmdDef := [ { cReset with legal := [stRUN, stFAULT] }, cClear ]
/-- TRAP_CLEAR empties the trap log. -/
def trapClear : Upd := read fun s => act (.flt { s.flt with traps := [], unserved := [] })

/-- JNL's DRAIN is done: every entry allocated before the command is in the ring; an open window and a coalesced entry
are as old as their first write (R70, R78). -/
def jnlDrained (s : State) (r : Page.Ref) (_ : Nat) : Bool :=
  match SMap.find (Page.base r) s.busy with
  | none => true
  | some b => s.jnl.wins.all (fun w => decide (b.time < w.time))
      && s.jnl.store.all (fun e => if bit e.flags 1 then decide (b.time < e.time) else decide (b.seq < e.seq))

/-- The commands of the JNL page (R78). -/
def jnlCmds : List CmdDef :=
  [ { cReset with legal := [stIDLE, stRUN, stDRAIN, stFAULT] },
    { cStart with fails := fun s _ _ => rd64 s (jnlB + R.JNL_RING_BASE_LO) = 0 || rd64 s (jnlB + R.JNL_CONS_ADDR_LO) = 0 },
    cDrain jnlDrained, cClear,
    { op := 0x10, legal := [stIDLE, stRUN], waits := true, run := fun _ _ => closeWins (fun _ => true) },
    { op := 0x11, legal := [stIDLE, stRUN], waits := true, run := fun r _ => zeroRegs r [R.JNL_HOLDS, R.JNL_HOLD_MAX] } ]

end Sys2Proof.Machine
end

