-- ==== Sys2Proof/Machine/Bus.lean ====
section
/-! DEFINITION. Sys2Proof/Machine/Bus.lean: how a register access reaches a page: the order of checks, what is refused and
why, staging of pairs, commands, the journal in front of every write, and reads (R47 to R52, R54, R59 to R63, R66, R75). -/
namespace Sys2Proof.Machine
open Sys2Proof

/-! ## What each page adds -/

/-- The commands a page implements. -/
def cmdsOf (t : PType) : List CmdDef :=
  match t with
  | .CORE => coreCmds
  | .MXU => mxuCmds
  | .DSP => dspCmds
  | .KVM => kvmCmds
  | .PFX => pfxCmds
  | .SLC => slcCmds
  | .SAP => sapCmds
  | .TILE => tileCmds
  | .CLK => clkCmds
  | .TIM => timCmds
  | .THM => thmCmds
  | .TTHM => tthmCmds
  | .PWR => pwrCmds
  | .TPWR => tpwrCmds
  | .BOOT => bootCmds
  | .LIC => licCmds
  | .FUS => fusCmds
  | .RTR => rtrCmds
  | .XPR => xprCmds
  | .BGH => bghCmds
  | .HIF => hifCmds
  | .EVQ => evqCmds
  | .TFLT => latchCmds
  | .DFLT => latchCmds ++ [simpleCmd 0x10 [stRUN, stFAULT] (fun _ => trapClear)]
  | .LDG | .LDGD => latchCmds ++ [simpleCmd 0x10 [stRUN, stFAULT] (fun r => zeroRegs r [R.LDG_CNT_MISMATCH, R.LDG_CNT_RECON])]
  | .TRK => trkCmds
  | .FWU => fwuCmds
  | .BCST => bcstCmds
  | .MGT => mgtCmds
  | .JNL => jnlCmds
  | _ => []

/-- LDG_SEL names a ledger the page keeps and an instance of it; LDGD takes the tile ledgers too (R651, R656). -/
def ldgCheck (n o new : Nat) : Nat :=
  let id := bits new 23 16
  if o = R.LDG_SEL ∧ !((if n < 64 then ldgIds n else allIds).contains id && decide (bits new 9 0 < ldgCount id)) then 1 else 0

/-- What a page checks of a new value beyond the table's ranges: 0, or the refusal reason (R69). -/
def regCheck (s : State) (r : Page.Ref) (o new : Nat) : Nat :=
  match r.t with
  | .CORE => if 0x300 ≤ o ∧ o < 0x380 ∧ o % 0x20 = 0xC ∧ !ringProdOk s r.inst ((o - 0x300) / 0x20) new then 1 else 0
  | .PWR => if o = R.PWR_CAP ∧ tdpW s < bits new 15 0 then 1 else 0
  | .LIC => licCheck s o new
  | .SAP => sapCheck s r.inst o
  | .KVM => kvmCheck s r.inst o new
  | .PFX => pfxCheck s r.inst o
  | .BGH => bghCheck s r.inst o
  | .HIF => hifCheck s o new
  | .EVQ => evqCheck s o new
  | .LDG => ldgCheck 0 o new
  | .LDGD => ldgCheck 64 o new
  | .TPWR => let w := bits new 15 0; if o = R.TPWR_CAP ∧ w ≠ 0 ∧ (w < 20 ∨ 200 < w) then 1 else 0
  | _ => 0

/-- Writing 1 to a first-fault latch's valid bit clears its overflow flag and its count too (R645). -/
def latchHook (r : Page.Ref) (o old new : Nat) : Upd :=
  when (o = R.TFLT_FIRST && bit old 31 && !bit new 31) (seqs [setFld (Page.base r + R.TFLT_FIRST) 30 30 0, setReg (Page.base r + R.TFLT_COUNT) 0])

/-- What a page does when a register of it has changed by a write. -/
def regHook (r : Page.Ref) (o old new : Nat) : Upd :=
  match r.t with
  | .CORE => coreHook r.inst o old new
  | .SAP => sapHook r.inst o new
  | .EVQ => evqHook o
  | .TFLT | .DFLT => latchHook r o old new
  | _ => skip

/-! ## Judging a write -/

/-- What becomes of a write. -/
inductive Verdict where
  /-- Refused with a reason of R69. -/
  | refuse (reason : Nat)
  /-- Both halves of a pair refused. -/
  | refusePair (reason lo : Nat)
  /-- A command turned away: reason and status. -/
  | reject (reason status : Nat)
  /-- A command accepted. -/
  | accept
  /-- A _LO half staged. -/
  | stage
  | apply (new : Nat)
  | applyPair (lo hi : Nat)
  /-- A register of a function the page does not have: nothing changes (R54). -/
  | nothing
deriving DecidableEq, Repr

/-- A header register whose function the page lacks (R54). -/
def hidden (t : PType) (o : Nat) : Bool :=
  (!Page.hasEvt t && decide (0x20 ≤ o ∧ o < 0x30)) || (!Page.hasFlt t && (o = R.PG_FLT || o = R.PG_FLT_EN || decide (0x40 ≤ o ∧ o < 0x60)))

/-- Has the register a field that can be written? -/
def writable (d : RegDef) : Bool := d.flds.any (fun f => f.acc ≠ .ro && f.acc ≠ .rc)
/-- The value after a write (R9, R49). -/
def newValue (d : RegDef) (old v : Nat) : Nat :=
  d.flds.foldl (fun x f =>
    let ov := bits old f.hi f.lo
    let fv := bits v f.hi f.lo
    setBits x f.hi f.lo (match f.acc with
      | .ro | .rc => ov
      | .rw | .wo | .rwi => fv
      | .w1c => ov - (ov &&& fv)
      | .w1s => ov ||| fv)) 0
/-- Would the write change an RWI field? -/
def changesRwi (d : RegDef) (old v : Nat) : Bool := d.flds.any (fun f => f.acc = .rwi && bits old f.hi f.lo ≠ bits v f.hi f.lo)
/-- Does it carry an out-of-range value? -/
def outOfRange (d : RegDef) (v : Nat) : Bool :=
  d.flds.any (fun f => f.acc ≠ .ro && f.acc ≠ .rc && (match f.rng with
    | none => false
    | some (a, b) => let x := bits v f.hi f.lo; decide (x < a) || decide (b < x)))

/-- The reason a value is refused: an RWI change outside IDLE, then the range, then the page's own check (R49). -/
def valueReason (s : State) (r : Page.Ref) (d : RegDef) (o old v : Nat) : Nat :=
  if changesRwi d old v && pgState s r ≠ stIDLE then 2
  else if outOfRange d v then 1
  else regCheck s r o (newValue d old v)

/-- A RESET of a TILE page joins CLK's TILE_RESET of the same site (R513). -/
def joinsReset (s : State) (r : Page.Ref) (op : Nat) : Bool := r.t = .TILE && op = 1 && tileBusy s r.inst

/-- A command's verdict (R59, R61, R62); IMAGE_WRITE is turned away while PLDM updates (R681). -/
def judgeCmd (s : State) (r : Page.Ref) (v : Nat) : Verdict :=
  let op := v % 256
  let arg := v / 256
  match (cmdsOf r.t).find? (·.op = op) with
  | none => .reject 1 4
  | some d =>
    if !d.argOk s r arg then .reject 1 4
    else if ((SMap.find (Page.base r) s.busy).isSome && op ≠ 1) || (r.t = .FWU && op = 0x10 && s.mgt.upd.state ≠ 0) then .reject 5 8
    else if !d.legal.contains (shownState s r) && !joinsReset s r op then .reject 4 3
    else if op = 6 && rd s (Page.base r + R.PG_FLT) &&& rd s (Page.base r + R.PG_FLT_EN) ≠ 0 then .reject 4 5
    else .accept

/-- The _LO half an origin has staged at `off`. -/
def stagedAt (s : State) (o : Origin) (off : Nat) : Option Staged := s.staged.find? (fun x => x.org = orgWord o && x.off = off)

/-- The verdict on a write (R47 to R51, R54, R61): size or alignment first, then PG_CMD's own rules, then whether the block
answers, whether the offset is reserved, the lock, and the value. -/
def judge (s : State) (o : Origin) (off size v : Nat) : Verdict :=
  if size ≠ 4 ∨ off % 4 ≠ 0 then .refuse 7
  else match Page.ofOff off with
  | none => .refuse 6
  | some r =>
    let p := off % 0x1000
    let pg := Page.base r
    if p = R.PG_CMD then (if Page.hasCmd r.t then judgeCmd s r v else .refuse 6)
    else if !answers s r then .refuse 10
    else match RegTable.find r.t p with
    | none => .refuse 6
    | some d =>
      if hidden r.t p then .nothing
      else if bit (rd s (pg + R.PG_CTRL)) 0 && !d.flow && p ≠ R.PG_CTRL && p ≠ R.PG_EVT && p ≠ R.PG_FLT then .refuse 3
      else if erProdOk s r p v then .apply 0
      else if !writable d then .refuse 2
      else if d.pair = 1 then .stage
      else if d.pair = 2 then
        match stagedAt s o (off - 4), RegTable.find r.t (p - 4) with
        | some st, some dl =>
          let lo := newValue dl (rd s (off - 4)) st.val
          let rl := valueReason s r dl (p - 4) (rd s (off - 4)) st.val
          let rh := valueReason s r d p (rd s off) v
          if rl ≠ 0 then .refusePair rl st.val else if rh ≠ 0 then .refusePair rh st.val
          else .applyPair lo (newValue d (rd s off) v)
        | _, _ =>
          let rh := valueReason s r d p (rd s off) v
          if rh ≠ 0 then .refuse rh else .applyPair (rd s (off - 4)) (newValue d (rd s off) v)
      else
        let x := valueReason s r d p (rd s off) v
        if x ≠ 0 then .refuse x else .apply (newValue d (rd s off) v)

/-! ## Carrying it out -/

/-- Is the register flow-class? (R65) -/
def isFlow (off : Nat) : Bool :=
  match Page.ofOff off with
  | none => false
  | some r => match RegTable.find r.t (off % 0x1000) with | some d => d.flow | none => false

/-- Journal entries the write needs (R66, R70): none when it only joins a window or is staged with nothing displaced. -/
def entriesNeeded (s : State) (o : Origin) (off : Nat) (v : Verdict) : Nat :=
  match v with
  | .stage => if (stagedAt s o off).isSome then 1 else 0
  | .applyPair _ _ | .refusePair _ _ => 2
  | .apply _ => if isFlow off && joins s o off then 0 else 1
  | _ => 1

/-- Refusal of a write: its entry and ACCESS_REFUSED or RANGE (R64, R69). -/
def refuse (o : Origin) (off v reason : Nat) (pair : Bool) : Upd := read fun s =>
  let q := nextSeq s
  seqs [newEntry (entryOf s o off (rd s off) v reason pair),
    onSome (Page.ofOff off) fun r =>
      if reason = 1 then evt r 29 0x0102 (orgWord o) (payload [(24, 4, off), (28, 4, v), (32, 4, q)])
      else evt r 29 0x0103 (orgWord o) (payload [(24, 4, off), (28, 4, v), (32, 1, reason), (36, 4, q)])]

/-- The status word of a command (R53). -/
def statusWord (o : Origin) (op st : Nat) : Nat := orgWord o * 2 ^ 16 + op * 2 ^ 8 + st

/-- A command turned away: journaled, with RANGE when it is out of range, CMD_REJECTED, and the status but for REJ_BUSY
(R61, R62, R64). -/
def rejectCmd (o : Origin) (r : Page.Ref) (v reason st : Nat) : Upd := read fun s =>
  let pg := Page.base r
  let q := nextSeq s
  let op := v % 256
  seqs [newEntry (entryOf s o (pg + R.PG_CMD) (rd s (pg + R.PG_CMD)) v reason false),
    when (st ≠ 8) (setReg (pg + R.PG_CMD_STATUS) (statusWord o op st)),
    when (reason = 1) (evt r 29 0x0102 (orgWord o) (payload [(24, 4, pg + R.PG_CMD), (28, 4, v), (32, 4, q)])),
    evt r 30 0x0101 (orgWord o) (payload [(24, 1, op), (25, 1, st), (26, 1, shownState s r), (28, 4, v / 256), (32, 4, q)])]

/-- A command accepted: journaled, then carried out (R59, R60, R62). -/
def acceptCmd (o : Origin) (r : Page.Ref) (v : Nat) : Upd := read fun s =>
  let pg := Page.base r
  let q := nextSeq s
  let op := v % 256
  let arg := v / 256
  onSome ((cmdsOf r.t).find? (·.op = op)) fun d =>
    let bad := d.fails s r arg
    seqs [newEntry (entryOf s o (pg + R.PG_CMD) (rd s (pg + R.PG_CMD)) v 0 false),
      lastChg pg q, setReg (pg + R.PG_CMD) v,
      when (op = 1) (endBusy evt r 6),
      if d.waits then
        seqs [setReg (pg + R.PG_CMD_STATUS) (statusWord o op 2),
          act (.busy pg (some { op := op, arg := arg, org := orgWord o, seq := q, time := s.now })),
          if bad then endBusy evt r 7 else d.run r arg]
      else seqs [setReg (pg + R.PG_CMD_STATUS) (statusWord o op (if bad then 7 else 1)), when (!bad) (d.run r arg)],
      faultnCheck evt]

/-- Beside a register's change by a write: what the page does, and what FAULT_N and the reset guards make of it. -/
def afterWrite (r : Page.Ref) (off old new : Nat) : Upd := read fun s =>
  let p := off % 0x1000
  let rs := s.flt.resets.filter (fun e => !(decide (e.1 / 32 = Page.base r) && bit old (e.1 % 32) && !bit new (e.1 % 32)))
  seqs [regHook r p old new, when (p = R.PG_FLT) (act (.flt { s.flt with resets := rs })), faultnCheck evt]

/-- A register changes by a write, journaled and coalesced as its class says. -/
def applyWrite (o : Origin) (r : Page.Ref) (off v new : Nat) : Upd := read fun s =>
  let old := rd s off
  seqs [if isFlow off then coalesce o off v
    else seqs [lastChg off (nextSeq s), newEntry (entryOf s o off old v 0 false)],
    setReg off new, afterWrite r off old new]

/-- Drop what an origin has staged at `off`. -/
def unstage (o : Origin) (off : Nat) : Upd := read fun s =>
  act (.staged (s.staged.filter (fun x => !(x.org = orgWord o && x.off = off))))

/-- Carry out a write whose entries are there to take. -/
def commit (o : Origin) (off v : Nat) (j : Verdict) : Upd := read fun s =>
  match j with
  | .refuse reason => refuse o off v reason false
  | .refusePair reason lo => seqs [unstage o (off - 4), refuse o (off - 4) lo reason true, refuse o off v reason true]
  | .reject reason st => onSome (Page.ofOff off) (fun r => rejectCmd o r v reason st)
  | .accept => onSome (Page.ofOff off) (fun r => acceptCmd o r v)
  | .stage => seqs [
      onSome (stagedAt s o off) (fun x => seqs [unstage o off, refuse o off x.val 8 false]),
      read fun t => act (.staged (t.staged ++ [{ org := orgWord o, off := off, val := v, time := t.now }]))]
  | .nothing => newEntry (entryOf s o off 0 v 0 false)
  | .apply new => onSome (Page.ofOff off) (fun r => applyWrite o r off v new)
  | .applyPair lo hi => onSome (Page.ofOff off) fun r =>
      let ol := rd s (off - 4)
      let oh := rd s off
      seqs [unstage o (off - 4), newEntry (entryOf s o (off - 4) ol ((stagedAt s o (off - 4)).elim lo (·.val)) 0 true),
        read fun t => seqs [lastChg off (nextSeq t), newEntry (entryOf t o off oh v 0 true)],
        setReg (off - 4) lo, setReg off hi, afterWrite r off (ol + oh * 2 ^ 32) (lo + hi * 2 ^ 32)]

/-! ## Configuration space and the MSI-X table (R469) -/

/-- Replace the bytes of a dword that a byte-enable mask selects. -/
def byteMerge (old v be : Nat) : Nat :=
  (List.range 4).foldl (fun x i => if bit be i then setBits x (8 * i + 7) (8 * i) (bits v (8 * i + 7) (8 * i)) else x) old

/-- The control register of the Resizable BAR capability in configuration space (log 60). -/
abbrev rebarControl : Nat := 0x108
/-- The bits of a configuration dword that a write changes (log 60). -/
def cfgMask (off : Nat) : Nat := if off = 4 then 0x0546 else if off = 0xB0 then 0xC0000000 else if off = rebarControl then 0x3F00 else 0xFFFFFFFF
/-- What a configuration write beside the dword changes: BAR2's size, and the window's base with it (R464, R466). -/
def cfgEffect (off old new : Nat) : Upd :=
  let z := bits new 13 8
  when (off = rebarControl && old ≠ new && decide (8 ≤ z ∧ z ≤ 21)) (seqs [setReg (hifB + R.HIF_WIN_SIZE) (20 + z),
    setReg (hifB + R.HIF_WIN_BASE_LO) 0, setReg (hifB + R.HIF_WIN_BASE_HI) 0])

/-- A configuration write, journaled at 0x2000_0000 + its offset; held records and pending messages may go (R469, R483, R484). -/
def cfgCommit (o : Origin) (off be v : Nat) : Upd := read fun s =>
  let old := cfgRd s off
  let m := cfgMask off
  let new := (byteMerge old v be &&& m) ||| (old - (old &&& m))
  seqs [newEntry (entryOf s o (0x20000000 + off) old new 0 false), act (.cfg off (BitVec.ofNat 32 new)), cfgEffect off old new,
    releaseAll, each (List.range 64) msixCheck,
    read fun t => each t.evq.pba (fun v => when (!bit (msixDw t v 3) 0) (msixSend v))]

/-- A dword of the PBA. -/
def pbaDw (s : State) (k : Nat) : Nat := (List.range 32).foldl (fun n i => if s.evq.pba.contains (32 * k + i) then n + 2 ^ i else n) 0
/-- A dword of BAR4's tables: the MSI-X table below 0x400, the PBA at 0x1000 (R468). -/
def tableDw (s : State) (off : Nat) : Nat := if off < 0x400 then (SMap.get 0 (off / 4) s.msix).toNat else pbaDw s ((off - 0x1000) / 4)
/-- Is it a naturally aligned 32-bit or 64-bit access? (R468) -/
def tableShape (off size : Nat) : Bool := (size = 4 || size = 8) && off % size = 0

/-- A write to the MSI-X table, journaled at 0x1000_0000 + its BAR4 offset; the PBA is read-only, and another width or alignment is
refused (R48, R468, R469). -/
def msixCommit (o : Origin) (off size v : Nat) : Upd :=
  let refused (a x reason : Nat) (pair : Bool) : Upd := read fun s =>
    seqs [newEntry (entryOf s o (0x10000000 + a) (tableDw s (a / 4 * 4)) x reason pair),
      evt hifR 29 0x0103 (orgWord o) (payload [(24, 4, 0x10000000 + a), (28, 4, x), (32, 1, reason), (36, 4, nextSeq s)])]
  if !tableShape off size then refused off (v % 2 ^ 32) 7 false
  else each (List.range (size / 4)) fun k => read fun s =>
    let a := off + 4 * k
    let w := bits v (32 * k + 31) (32 * k)
    if 0x400 ≤ a then refused a w 2 (size = 8)
    else seqs [newEntry (entryOf s o (0x10000000 + a) (tableDw s a) w 0 (size = 8)),
      act (.msix (a / 4) (BitVec.ofNat 32 w)),
      read fun t => when (t.evq.pba.contains (a / 16) && !bit (msixDw t (a / 16) 3) 0) (msixSend (a / 16))]

/-! ## The journal in front of every write (R66, R75) -/

/-- Who writes, and how many entries the write needs. -/
def need (s : State) (w : WReq) : Origin × Nat :=
  match w with
  | .reg o off size v => (o, entriesNeeded s o off (judge s o off size v))
  | .cfg o _ _ _ => (o, 1)
  | .msix o off size _ => (o, if tableShape off size then size / 4 else 1)

/-- Carry out a write. -/
def perform (w : WReq) : Upd := read fun s =>
  match w with
  | .reg o off size v => commit o off v (judge s o off size v)
  | .cfg o off be v => cfgCommit o off be v
  | .msix o off size v => msixCommit o off size v

/-- A write arrives: power-fail discards and counts it (R533); else it waits behind one that is held, takes its entries, is refused in a refusal episode, or is held. -/
def submit (w : WReq) : Upd := read fun s =>
  let (o, n) := need s w
  if fld s (Page.trunk .PWR + R.PWR_STATE) 4 4 = 1 then act (.pwr { s.pwr with discarded := s.pwr.discarded + 1 })
  else if mustWait s o then holdWrite w
  else if n = 0 || jRoom s o.cls n then perform w
  else if s.jnl.bp.refusing then countRefused
  else holdWrite w

/-- Does a posted write of the host hold back whatever the host asks for later? (R467, R470) -/
def hostBlocked (s : State) : Bool := s.hif.waiting.any (fun x => match x with | .wr2 _ _ _ _ _ _ _ | .wr _ => true | _ => false)
/-- Is a posted write of the host held by the journal? Reads wait behind it (R470, R75). -/
def hostHeld (s : State) : Bool := mustWait s { cls := 0, inst := 0 }
/-- A request of the host goes behind those that wait. -/
def hostWait (x : HReq) : Upd := modHif (fun h => { h with waiting := h.waiting ++ [x] })
/-- A write of the host, behind those that hold it back. -/
def hostSubmit (w : WReq) : Upd := read fun s => if hostBlocked s then hostWait (.wr w) else submit w
/-- Is the origin the host? -/
def Origin.isHost (o : Origin) : Bool := o.cls = 0

/-- A register write by an origin; the host's are counted and keep their order (R469, R470). -/
def busWrite (o : Origin) (off size v : Nat) : Upd :=
  if Origin.isHost o then seqs [bump (hifB + R.HIF_CNT_BAR0_WR) 1, hostSubmit (.reg o off size v)] else submit (.reg o off size v)

/-- A command by a write to the PG_CMD of page number `page`. -/
def command (o : Origin) (page op arg : Nat) : Upd := busWrite o (page * 0x1000 + R.PG_CMD) 4 (arg * 256 + op)

/-- Serve held writes in arrival order while each finds its entries; the hold ends when none is left (R75 step 2). -/
def serveHeld : Nat → Upd
  | 0 => skip
  | fuel + 1 => read fun s =>
    match s.jnl.bp.held with
    | [] => endHold
    | w :: ws =>
      let (o, n) := need s w
      when (n = 0 || jRoom s o.cls n)
        (seqs [act (.jBp { s.jnl.bp with held := ws }), perform w, serveHeld fuel])

/-- After JNL_HOLD_LIMIT, every held write that needs an entry and finds none is refused; the others apply (R75 step 3). -/
def refuseAll : List WReq → Upd
  | [] => skip
  | w :: ws => seqs [read fun s =>
      let (o, n) := need s w
      if n = 0 || jRoom s o.cls n then perform w else countRefused, refuseAll ws]

/-! ## Reads (R47 to R52) -/

/-- The key of a latch: the pair's _HI and the origin. -/
def latchKey (o : Origin) (off : Nat) : Nat := off * 65536 + orgWord o

/-- What a read of an aligned register returns to an origin: the latched half for a _HI (R50), 0 where R47 or R54 say so. -/
def busRead (s : State) (o : Origin) (off : Nat) : Nat :=
  match Page.ofOff off with
  | none => 0
  | some r =>
    let p := off % 0x1000
    if hidden r.t p then 0
    else match RegTable.find r.t p with
    | none => 0
    | some d => if d.pair = 2 && answers s r then ((SMap.find (latchKey o off) s.latch).map (·.toNat)).getD (readReg s off) else readReg s off

/-- The side effects of a read: the latch of a _LO, the clearing of RC fields (R50, R52). -/
def readEffect (o : Origin) (off : Nat) : Upd := read fun s =>
  onSome (Page.ofOff off) fun r => onSome (RegTable.find r.t (off % 0x1000)) fun d =>
    when (answers s r) (seqs [
      when (d.pair = 1) (act (.latch (latchKey o (off + 4)) (BitVec.ofNat 32 (readReg s (off + 4))))),
      each (d.flds.filter (·.acc = .rc)) (fun f => setFld off f.hi f.lo 0)])

/-- A read of another width or alignment: all bytes 0, and ACCESS_REFUSED (R48, R64). -/
def misaligned (o : Origin) (off : Nat) : Upd :=
  seqs [act (.out (.regRead o off 0)),
    onSome (Page.ofOff off) fun r => evt r 29 0x0103 (orgWord o) (payload [(24, 4, off), (32, 1, 7), (33, 1, 1)])]
/-- A register read whose value leaves the block. -/
def readNow (o : Origin) (off size : Nat) : Upd := read fun s =>
  if size ≠ 4 || off % 4 ≠ 0 then misaligned o off
  else seqs [act (.out (.regRead o off (busRead s o off))), readEffect o off]
/-- A register read; the host's is counted and returns only after its earlier posted writes (R470). -/
def busReadSized (o : Origin) (off size : Nat) : Upd := read fun s =>
  if Origin.isHost o then seqs [bump (hifB + R.HIF_CNT_BAR0_RD) 1,
    if hostBlocked s || hostHeld s then hostWait (.rd o off size) else readNow o off size]
  else readNow o off size
/-- An aligned one. -/
def busReadOut (o : Origin) (off : Nat) : Upd := busReadSized o off 4

/-! ## The host's waiting requests (R467, R470) -/

/-- Take the request at place `i`. -/
def unwait (i : Nat) : Upd := modHif (fun h => { h with waiting := h.waiting.eraseIdx i })
/-- Put another in its place. -/
def rewait (i : Nat) (x : HReq) : Upd := modHif (fun h => { h with waiting := h.waiting.set i x })
/-- A request answered RETRY_LATER: counted, and dated by its first and last try. -/
def noteTry (s : State) (tried : Option (Nat × Nat)) : Option (Nat × Nat) := some ((tried.map (·.1)).getD s.now, s.now)

/-- Serve the host's waiting requests from place `i` on: a read that its tile does not answer yet stays, a write that waits holds back
all that follow it. -/
def serveHost : Nat → Nat → Upd
  | 0, _ => skip
  | fuel + 1, i => read fun s =>
    match s.hif.waiting[i]? with
    | none => skip
    | some x =>
      match x with
      | .wr w => seqs [unwait i, submit w, serveHost fuel i]
      | .rd o off size => when (!hostHeld s) (seqs [unwait i, readNow o off size, serveHost fuel i])
      | .cfgRd off => when (!hostHeld s) (seqs [unwait i, act (.out (.cfgCpl off (cfgRd s off) 0)), serveHost fuel i])
      | .rd2 g d n none => when (!hostHeld s) (
          if reachRange s d n = .retry then seqs [rewait i (.rd2 g d n (noteTry s none)), bump (hifB + R.HIF_CNT_RETRY) 1, serveHost fuel (i + 1)]
          else seqs [unwait i, bar2Reply g d n, serveHost fuel i])
      | .wr2 g d n be v ep none => when (!hostHeld s) (
          if reachRange s d n = .retry then seqs [rewait i (.wr2 g d n be v ep (noteTry s none)), bump (hifB + R.HIF_CNT_RETRY) 1]
          else seqs [unwait i, bar2Store g d n be v ep, serveHost fuel i])
      | .rd2 _ _ _ (some _) => serveHost fuel (i + 1)
      | .wr2 _ _ _ _ _ _ (some _) => skip
/-- All that can be served from place `i`. -/
def serveWaiting (i : Nat) : Upd := read fun s => serveHost (s.hif.waiting.length + 1) i
/-- A request of the host arrives: behind a posted write that waits, or served. -/
def hostArrive (x : HReq) : Upd := read fun s => seqs [hostWait x, when (!hostBlocked s) (serveWaiting s.hif.waiting.length)]

/-! ## The end of a waits command (R60) -/

/-- The waits command of a page ends, DONE or FAILED, if it may. -/
def complete (r : Page.Ref) (ok : Bool) : Upd := read fun s =>
  onSome (SMap.find (Page.base r) s.busy) fun b => onSome ((cmdsOf r.t).find? (·.op = b.op)) fun d =>
    if ok then when (d.ready s r b.arg) (seqs [d.fin r b.arg true, endBusy evt r 1, faultnCheck evt])
    else when (d.canFail s r b.arg) (seqs [d.fin r b.arg false, endBusy evt r 7, faultnCheck evt])

end Sys2Proof.Machine
end

