-- ==== Sys2Proof/Machine/Access.lean ====
section
/-! DEFINITION. Sys2Proof/Machine/Access.lean: the meanings of register accesses, the common commands, and the journal's and
TRK's own rows (R47 to R78). -/
namespace Sys2Proof.Machine
open Sys2Proof

/-! ## Register accesses -/

/-- REGISTER_WRITE. -/
def execRegisterWrite (o : Origin) (off size val : Nat) (s : State) : Host.Outcome State Fault Refusal :=
  done (busWrite o off size val) s

/-- MISALIGNED_READ. -/
def execMisalignedRead (o : Origin) (off size : Nat) (s : State) : Host.Outcome State Fault Refusal :=
  done (when (size ≠ 4 || off % 4 ≠ 0) (busReadSized o off size)) s

/-- PAIR_LO_READ. -/
def execPairLoRead (o : Origin) (off : Nat) (s : State) : Host.Outcome State Fault Refusal := done (busReadOut o off) s
/-- PAIR_LO_WRITE. -/
def execPairLoWrite (o : Origin) (off val : Nat) (s : State) : Host.Outcome State Fault Refusal := done (busWrite o off 4 val) s
/-- PAIR_HI_WRITE. -/
def execPairHiWrite (o : Origin) (off val : Nat) (s : State) : Host.Outcome State Fault Refusal := done (busWrite o off 4 val) s

/-- A staged _LO whose 1 ms is over is discarded and refused; its entry is journaled, or counted in a refusal episode; with
neither to be had it waits (R51, R66). -/
def stageExpiry (o : Origin) (off : Nat) : Upd := read fun s =>
  onSome (stagedAt s o off) fun x => when (s.now ≥ x.time + 1000000) (
    if jRoom s o.cls 1 then seqs [unstage o off, refuse o off x.val 8 false]
    else when s.jnl.bp.refusing (seqs [unstage o off, countRefused]))

/-- PAIR_STAGE_EXPIRY. -/
def execPairStageExpiry (o : Origin) (off : Nat) (s : State) : Host.Outcome State Fault Refusal := done (stageExpiry o off) s
/-- RC_FIELD_READ. -/
def execRcFieldRead (o : Origin) (off : Nat) (s : State) : Host.Outcome State Fault Refusal := done (busReadOut o off) s

/-! ## The common commands (R59) -/

/-- RESET. -/
def execReset (o : Origin) (page arg : Nat) (s : State) : Host.Outcome State Fault Refusal := done (command o page 1 arg) s
/-- START. -/
def execStart (o : Origin) (page arg : Nat) (s : State) : Host.Outcome State Fault Refusal := done (command o page 2 arg) s
/-- DRAIN. -/
def execDrain (o : Origin) (page arg : Nat) (s : State) : Host.Outcome State Fault Refusal := done (command o page 3 arg) s
/-- HALT. -/
def execHalt (o : Origin) (page arg : Nat) (s : State) : Host.Outcome State Fault Refusal := done (command o page 4 arg) s
/-- RESUME. -/
def execResume (o : Origin) (page arg : Nat) (s : State) : Host.Outcome State Fault Refusal := done (command o page 5 arg) s
/-- CLEAR_FAULT. -/
def execClearFault (o : Origin) (page arg : Nat) (s : State) : Host.Outcome State Fault Refusal := done (command o page 6 arg) s

/-- COMMAND_COMPLETION. -/
def execCommandCompletion (page : Nat) (ok : Bool) (s : State) : Host.Outcome State Fault Refusal :=
  done (onSome (Page.ofOff (page * 0x1000)) (fun r => complete r ok)) s

/-! ## The journal -/

/-- The number of a trunk page. -/
def trunkPage (t : PType) : Nat := Page.trunk t / 0x1000

/-- A window closes at 1 ms (R70). -/
def winExpiry (o : Origin) (off : Nat) : Upd :=
  read fun s => closeWins (fun w => w.off = off && w.org = orgWord o && s.now ≥ w.time + 1000000)

/-- COALESCE_WINDOW_EXPIRY. -/
def execCoalesceWindowExpiry (o : Origin) (off : Nat) (s : State) : Host.Outcome State Fault Refusal := done (winExpiry o off) s

/-- Does JNL drain? (R73, R78) -/
def jnlDrains (s : State) : Bool := (pgState s jnlR = stRUN || pgState s jnlR = stDRAIN) && busMaster s && linkUp s
/-- Entries the host ring holds. -/
def jnlRing (s : State) : Nat := 2 ^ fld s (jnlB + R.JNL_RING_SIZE) 4 0
/-- Entries the host has not consumed, by a consumer count. -/
def jnlAhead (s : State) (cons : Nat) : Nat := (rd s (jnlB + R.JNL_RING_PROD) + 2 ^ 32 - cons) % 2 ^ 32

/-- Read the host's consumer count (R73); an error or a timeout, or an impossible count, raises its source (R78). -/
def readCons (ok : Bool) (go : Nat → Upd) : Upd := read fun s =>
  if !ok then raise jnlR 0 0
  else
    let c := hostNum s (rd64 s (jnlB + R.JNL_CONS_ADDR_LO)) 4
    if jnlAhead s c > jnlRing s then raise jnlR 1 0 else seqs [setReg (jnlB + R.JNL_RING_CONS) c, go c]

/-- The 32 bytes of an entry (R67). -/
def JEntry.bytes (e : JEntry) : List Byte :=
  toBytes 4 e.seq ++ toBytes 8 e.time ++ toBytes 2 e.org ++ toBytes 2 e.flags ++ toBytes 4 e.off ++ toBytes 4 e.old
    ++ toBytes 4 e.new ++ toBytes 4 e.count

/-- Write one entry to the host ring. -/
def drainEntry (e : JEntry) : Upd := read fun s =>
  let p := rd s (jnlB + R.JNL_RING_PROD)
  seqs [hostWrite (rd64 s (jnlB + R.JNL_RING_BASE_LO) + (p % jnlRing s) * 32) e.bytes, act (.jDrain 1),
    setReg (jnlB + R.JNL_RING_PROD) (p + 1), setReg (jnlB + R.JNL_DRAINED_SEQ) e.seq, ledAdd 0x21 64 0 1 1]

/-- A burst of at most `n` entries (R73). -/
def jnlBurst (n : Nat) (ok : Bool) : Upd := read fun s =>
  when (jnlDrains s && !s.jnl.store.isEmpty) (readCons ok fun c => read fun t =>
    each (t.jnl.store.take (min n (jnlRing t - jnlAhead t c))) drainEntry)

/-- JNL_RING_BURST. -/
def execJnlRingBurst (n : Nat) (ok : Bool) (s : State) : Host.Outcome State Fault Refusal := done (jnlBurst n ok) s

/-- While the host ring is full the consumer count is read again (R73). -/
def jnlPoll (ok : Bool) : Upd := read fun s =>
  when (jnlDrains s && jnlAhead s (rd s (jnlB + R.JNL_RING_CONS)) = jnlRing s) (readCons ok fun _ => skip)

/-- JNL_CONS_POLL. -/
def execJnlConsPoll (ok : Bool) (s : State) : Host.Outcome State Fault Refusal := done (jnlPoll ok) s

/-- JNL_HELD_WRITE_APPLY. -/
def execJnlHeldWriteApply (s : State) : Host.Outcome State Fault Refusal :=
  done (read fun s => seqs [serveHeld (s.jnl.bp.held.length + 1), serveWaiting 0]) s

/-- JNL_HOLD_LIMIT after the hold began the store is still full: credits are released and refusal begins (R75 step 3). -/
def holdExpiry : Upd := read fun s =>
  let m := s.jnl.bp
  onSome m.holdAt fun t =>
    when (s.now ≥ t + 1000000 * fld s (jnlB + R.JNL_HOLD_LIMIT) 3 0)
      (seqs [endHold, read fun u => act (.jBp { u.jnl.bp with held := [], epAt := if m.refusing then m.epAt else t }),
        refuseAll m.held,
        read fun u => act (.jBp { u.jnl.bp with epAt := if m.refusing then m.epAt else t })])

/-- JNL_HOLD_LIMIT_EXPIRY. -/
def execJnlHoldLimitExpiry (s : State) : Host.Outcome State Fault Refusal := done (seqs [holdExpiry, serveWaiting 0]) s

/-- With 1,024 entries free for the host's classes, refusal ends with one gap entry and JNL_RESUMED (R75 step 4). -/
def refusalEnd : Upd := read fun s =>
  let m := s.jnl.bp
  when (m.refusing && decide (s.jnl.fill + 1024 ≤ 64512)) (seqs [
    act (.jBp { m with refusing := false, epCount := 0, epAt := 0, epBefore := 0 }),
    newEntry { seq := 0, time := s.now, org := 0x6006, flags := jFlags 0 false 9 false true, off := 0x08003000,
               old := m.epBefore, new := rd s (jnlB + R.JNL_REFUSED), count := m.epCount },
    ledAdd 0x21 64 0 5 m.epCount,
    evt jnlR 3 0x0803 0 (payload [(24, 4, (s.now - m.epAt) / 1000), (28, 4, m.epCount), (32, 4, nextSeq s)])])

/-- JNL_REFUSAL_END. -/
def execJnlRefusalEnd (s : State) : Host.Outcome State Fault Refusal := done refusalEnd s

/-- FLUSH_WINDOWS. -/
def execFlushWindows (o : Origin) (arg : Nat) (s : State) : Host.Outcome State Fault Refusal :=
  done (command o (trunkPage .JNL) 0x10 arg) s
/-- JNL's CLEAR_COUNTS. -/
def execJnlClearCounts (o : Origin) (arg : Nat) (s : State) : Host.Outcome State Fault Refusal :=
  done (command o (trunkPage .JNL) 0x11 arg) s

/-! ## TRK -/

/-- CHIP_RESET. -/
def execChipReset (o : Origin) (arg : Nat) (s : State) : Host.Outcome State Fault Refusal :=
  done (command o (trunkPage .TRK) 0x10 arg) s

/-- Xazara has stopped: TRK_FW_STATE.fw reads 0x04, and TRK_fw_stopped is raised (R76, R77). -/
def fwStopped : Upd := read fun s =>
  when (fld s (Page.trunk .TRK + R.TRK_FW_STATE) 7 0 = 2)
    (seqs [setFld (Page.trunk .TRK + R.TRK_FW_STATE) 7 0 4, raise ⟨.TRK, 0⟩ 0 0])

/-- TRK_FW_STOPPED. -/
def execTrkFwStopped (s : State) : Host.Outcome State Fault Refusal := done fwStopped s

/-! ## Commands of the CORE page -/

/-- A page number of core `g`. -/
def corePage (t : PType) (g : Nat) : Nat := Page.core t g / 0x1000
/-- KILL_THREAD. -/
def execKillThread (o : Origin) (core arg : Nat) (s : State) : Host.Outcome State Fault Refusal :=
  done (command o (corePage .CORE core) 0x10 arg) s
/-- LEAF_FLUSH. -/
def execLeafFlush (o : Origin) (core arg : Nat) (s : State) : Host.Outcome State Fault Refusal :=
  done (command o (corePage .CORE core) 0x11 arg) s
/-- CORE's CLEAR_COUNTS. -/
def execCoreClearCounts (o : Origin) (core arg : Nat) (s : State) : Host.Outcome State Fault Refusal :=
  done (command o (corePage .CORE core) 0x12 arg) s
/-- CORE_LEAF_SPLIT_WRITE. -/
def execCoreLeafSplitWrite (o : Origin) (core val : Nat) (s : State) : Host.Outcome State Fault Refusal :=
  done (busWrite o (coreB core + R.CORE_LEAF_SPLIT) 4 val) s
/-- CORE_RUNAHEAD_WRITE. -/
def execCoreRunaheadWrite (o : Origin) (core val : Nat) (s : State) : Host.Outcome State Fault Refusal :=
  done (busWrite o (coreB core + R.CORE_RUNAHEAD) 4 val) s
/-- RING_PROD_WRITE. -/
def execRingProdWrite (o : Origin) (core ring val : Nat) (s : State) : Host.Outcome State Fault Refusal :=
  done (busWrite o (coreB core + R.RING_PROD (ring % 4)) 4 val) s
/-- CORE_TOK_WRITE. -/
def execCoreTokWrite (o : Origin) (core tk val : Nat) (s : State) : Host.Outcome State Fault Refusal :=
  done (busWrite o (coreB core + R.CORE_TOK (tk % 64)) 4 val) s

end Sys2Proof.Machine
end

