-- ==== Sys2Proof/Machine/Operands.lean ====
section
/-! DEFINITION. Sys2Proof/Machine/Operands.lean: the flags and operand forms of stage instructions, what makes one malformed,
effective addresses, and how an instruction issues (R87 to R98). A command carries the instruction's bits [55:0] as `w`. -/
namespace Sys2Proof.Machine
open Sys2Proof

/-! ## Fields (R88, R90) -/

/-- flags.cond. -/
def fCond (w : Nat) : Nat := bits w 55 54
/-- The predicate register. -/
def fP (w : Nat) : Nat := bits w 53 49
/-- Bits [47:43]: rd, or ra of form C. -/
def f1 (w : Nat) : Nat := bits w 47 43
/-- Bits [42:38]: ra, or rb of form C. -/
def f2 (w : Nat) : Nat := bits w 42 38
/-- Bits [37:33]: rb. -/
def f3 (w : Nat) : Nat := bits w 37 33
/-- imm38 of form C. -/
def imm38 (w : Nat) : Int := sext 38 w
/-- imm33 of form A. -/
def imm33 (w : Nat) : Int := sext 33 w
/-- imm43 of form I. -/
def imm43 (w : Nat) : Int := sext 43 w
/-- size of form M. -/
def sizeM (w : Nat) : Nat := bits w 37 35
/-- hint of form M. -/
def hintM (w : Nat) : Nat := bits w 34 30
/-- off30 of form M. -/
def off30 (w : Nat) : Int := sext 30 w
/-- hint of form L. -/
def hintL (w : Nat) : Nat := bits w 32 28
/-- size of form X. -/
def sizeX (w : Nat) : Nat := bits w 32 30
/-- obj of form S. -/
def fObj (w : Nat) : Nat := bits w 47 40
/-- n16 of form S. -/
def fN16 (w : Nat) : Nat := bits w 39 24
/-- ra of form S. -/
def fRaS (w : Nat) : Nat := bits w 23 19

/-- A 64-bit sum of a register and a signed immediate. -/
def add64 (v : Nat) (i : Int) : Nat := wrap 64 ((v : Int) + i)
/-- Width in bytes of a size code (R92). -/
def widthOf (z : Nat) : Nat := match z % 8 with | 0 | 4 => 1 | 1 | 5 => 2 | 2 | 6 => 4 | _ => 8
/-- The loaded value of a size code (R92). -/
def extend (z v : Nat) : Nat := if z ≥ 4 then wrap 64 (sext (8 * widthOf z) v) else v % 2 ^ (8 * widthOf z)

/-! ## Shapes: what is malformed, and which registers are read or written (R90, R98, R99, R103) -/

/-- An instruction's shape. -/
structure Shape where
  bad : Nat → Bool
  uses : Nat → List Nat

/-- NOP, FENCE and YIELD: all operand bits zero. -/
def shZero : Shape := ⟨fun w => w % 2 ^ 48 ≠ 0, fun _ => []⟩
/-- Form C with no register. -/
def shC : Shape := ⟨fun _ => false, fun _ => []⟩
/-- Form C reading or writing ra. -/
def shCa : Shape := ⟨fun _ => false, fun w => [f1 w]⟩
/-- CALL writes s31. -/
def shCall : Shape := ⟨fun _ => false, fun _ => [31]⟩
/-- Form S; SIGTOK reads ra. -/
def shS (reads : Bool) : Shape := ⟨fun w => bits w 18 0 ≠ 0, fun w => if reads then [fRaS w] else []⟩
/-- Form A. -/
def shA : Shape := ⟨fun _ => false, fun w => [f1 w, f2 w, f3 w]⟩
/-- RDSYS reads only rb. -/
def shSys : Shape := ⟨fun _ => false, fun w => [f1 w, f3 w]⟩
/-- MOVI. -/
def shI : Shape := ⟨fun _ => false, fun w => [f1 w]⟩
/-- MOVHI: imm43[42:21] zero. -/
def shHi : Shape := ⟨fun w => bits w 42 21 ≠ 0, fun w => [f1 w]⟩
/-- LD: sizes 0 to 6, a legal hint. -/
def shLd : Shape := ⟨fun w => sizeM w = 7 || !hintOk (hintM w), fun w => [f1 w, f2 w]⟩
/-- ST: sizes 0 to 3, hint STREAM. -/
def shSt : Shape := ⟨fun w => decide (sizeM w > 3) || hintM w ≠ 0, fun w => [f1 w, f2 w]⟩
/-- PREF: rd = s0, a legal hint, size ignored. -/
def shPref : Shape := ⟨fun w => f1 w ≠ 0 || !hintOk (hintM w), fun w => [f2 w]⟩
/-- Form L: COPY takes any legal hint, the others STREAM; UNPIN and CINV have ra = s0. -/
def shL (anyHint noRa : Bool) : Shape :=
  ⟨fun w => bits w 27 0 ≠ 0 || (if anyHint then !hintOk (hintL w) else hintL w ≠ 0) || (noRa && f2 w ≠ 0),
   fun w => [f1 w, f2 w, f3 w]⟩
/-- Form X: sizes 2 and 3. -/
def shX : Shape := ⟨fun w => bits w 29 0 ≠ 0 || (sizeX w ≠ 2 && sizeX w ≠ 3), fun w => [f1 w, f2 w, f3 w]⟩

/-! ## Fetch (R95, R111, R113) -/

/-- Would the fetch at `pc` find poison? -/
def fetchPoison (s : State) (g pc : Nat) : Bool :=
  if eaSpace pc = 1 then scratchPoisoned (leafOf s g) (eaAddr pc) 8
  else match (leafOf s g).line (pc / 256) with
    | some x => x.poisoned (pc % 256) 8
    | none => (memRead s pc 8).2

/-- Does the fetch wait for a tile that answers RETRY_LATER? -/
def fetchWaits (s : State) (g pc : Nat) : Bool :=
  eaSpace pc = 0 && ((leafOf s g).line (pc / 256)).isNone && reach s pc = .retry

/-- The fault of the fetch at `pc`, if any. -/
def fetchFault (s : State) (g pc : Nat) : Option Nat :=
  if eaSpace pc = 2 ∨ eaSpace pc = 3 then some cAddr
  else match eaFault s g pc 8 8 with
    | some n => some n
    | none => if fetchPoison s g pc then some cPLoad else none

/-- What the fetch leaves of the leaf cache: a miss in device memory allocates a PLAIN line (R113). -/
def fetchLine (g pc : Nat) : Upd := read fun s =>
  let a := pc / 256
  let l := leafOf s g
  when (eaSpace pc = 0) (match l.line a with
    | some _ => touchLine g a .fetch 0
    | none => when ((l.fill a).isNone && !(memRead s (a * 256) 256).2)
        (allocLine g { addr := a, st := .plain, data := (memRead s (a * 256) 256).1 }))

/-! ## Issue (R82, R83, R88, R89) -/

/-- Wait for pending registers. -/
def waitData (g th : Nat) (t : Thread) (rs : List Nat) : Upd := setThr g th { t with state := tWDATA, wait := .data rs }
/-- Go on at the next instruction. -/
def retire (g th : Nat) (t : Thread) : Upd := setThr g th t.next

/-- The pending registers among those named. -/
def pendOf (t : Thread) (rs : List Nat) : List Nat := rs.filter (fun r => r ≠ 0 && t.pend.contains r)

/-- After the fetch: the condition, the operand bits, pending registers, then the instruction itself. -/
def issueBody (g th w : Nat) (sh : Shape) (body : Thread → Upd) : Upd := read fun s =>
  let t := thr s g th
  let c := fCond w
  let p := fP w
  if c = 3 then thrFault g th cIllegal 0
  else if c ≠ 0 ∧ (pendOf t [p]).length ≠ 0 then waitData g th t [p]
  else if c ≠ 0 ∧ t.bad p = true then thrFault g th cPUse 0
  else if (c = 1 ∧ t.get p = 0) ∨ (c = 2 ∧ t.get p ≠ 0) then retire g th t
  else if sh.bad w then thrFault g th cIllegal 0
  else if (pendOf t (sh.uses w)).length ≠ 0 then waitData g th t (pendOf t (sh.uses w))
  else body t

/-- May thread `th` of core `g` issue: the core in RUN or DRAIN, the thread in T_READY, and its fetch answered? -/
def mayIssue (s : State) (g th : Nat) : Bool :=
  let st := pgState s ⟨.CORE, g⟩
  (st = stRUN || st = stDRAIN) && coreWorks s g && !clockLost s ⟨.CORE, g⟩ && (thr s g th).state = tREADY && !fetchWaits s g (thr s g th).pc

/-- A thread issues an instruction. -/
def issue (g th w : Nat) (sh : Shape) (body : Thread → Upd) : Upd := read fun s =>
  when (mayIssue s g th) (match fetchFault s g (thr s g th).pc with
    | some n => thrFault g th n (thr s g th).pc
    | none => seqs [fetchLine g (thr s g th).pc, issueBody g th w sh body])

end Sys2Proof.Machine
end

