-- ==== Sys2Proof/Machine/Control.lean ====
section
/-! DEFINITION. Sys2Proof/Machine/Control.lean: the control, sync and integer stage instructions (R99 to R103). -/
namespace Sys2Proof.Machine
open Sys2Proof

/-! ## Control -/

/-- NOP. -/
def execNop (core th w : Nat) (s : State) : Host.Outcome State Fault Refusal :=
  done (issue core th w shZero (retire core th)) s

/-- A thread waits with a given reason. -/
def waitFor (g th st : Nat) (x : Wait) (t : Thread) : Upd := setThr g th { t with state := st, wait := x }

/-- END: frees the thread once its memory and engine operations are over. -/
def endBody (g th : Nat) (t : Thread) : Upd :=
  if t.slots.isEmpty && t.eng = 0 then setThr g th t.freed else waitFor g th tWSYNC .endw t

/-- END. -/
def execEnd (core th w : Nat) (s : State) : Host.Outcome State Fault Refusal := done (issue core th w shC (endBody core th)) s

/-- A branch relative to the PC. -/
def branch (t : Thread) (w : Nat) : Thread := { t with pc := add64 t.pc (8 * imm38 w) }

/-- BR. -/
def execBr (core th w : Nat) (s : State) : Host.Outcome State Fault Refusal :=
  done (issue core th w shC (fun t => setThr core th (branch t w))) s

/-- JR; a poisoned address may not be used (R119). -/
def jrBody (g th w : Nat) (t : Thread) : Upd :=
  if t.bad (f1 w) then thrFault g th cPUse 0
  else setThr g th { t with pc := add64 (t.get (f1 w)) (8 * imm38 w) }

/-- JR. -/
def execJr (core th w : Nat) (s : State) : Host.Outcome State Fault Refusal := done (issue core th w shCa (jrBody core th w)) s

/-- CALL. -/
def execCall (core th w : Nat) (s : State) : Host.Outcome State Fault Refusal :=
  done (issue core th w shCall (fun t => setThr core th (branch (t.put 31 ((t.pc + 8) % 2 ^ 64) false) w))) s

/-- LOOP; a poisoned count is a branch condition (R119). -/
def loopBody (g th w : Nat) (t : Thread) : Upd :=
  if t.bad (f1 w) then thrFault g th cPUse 0
  else
    let v := (t.get (f1 w) + (2 ^ 64 - 1)) % 2 ^ 64
    let t' := t.put (f1 w) v false
    setThr g th (if v ≠ 0 then branch t' w else t'.next)

/-- LOOP. -/
def execLoop (core th w : Nat) (s : State) : Host.Outcome State Fault Refusal := done (issue core th w shCa (loopBody core th w)) s

/-! ## Sync -/

/-- WAITTOK: takes the tokens if nobody waits before it, else joins the queue (R101). -/
def waittokBody (g th w : Nat) (t : Thread) : Upd := read fun s =>
  let k := fObj w
  let n := fN16 w
  if k > 63 ∨ n = 0 then thrFault g th cSync 0
  else
    let q := SMap.get [] (thrKey g k) s.tokq
    if tok s g k ≥ n ∧ q.isEmpty = true then seqs [setTok g k (tok s g k - n), retire g th t]
    else seqs [waitFor g th tWSYNC (.tok k n) t, act (.tokq (thrKey g k) (q ++ [th]))]

/-- WAITTOK. -/
def execWaittok (core th w : Nat) (s : State) : Host.Outcome State Fault Refusal :=
  done (issue core th w (shS false) (waittokBody core th w)) s

/-- Take a memory slot for an operation and go on; its registers are pending from now (R105, R651). -/
def takeSlot (g th : Nat) (t : Thread) (m : MemOp) (pend : List Nat) : Upd := read fun s =>
  seqs [reqLed g 0 1,
    setThr g th { t.next with slots := t.slots ++ [{ m with time := s.now, pc := t.pc }],
                              pend := t.pend ++ pend.filter (· ≠ 0) }, sendOps g th]

/-- A signal to the thread's own core. -/
def sigOwn (g th k n : Nat) (t : Thread) : Upd := read fun s =>
  if tokOver s g k n then seqs [tokLed g 0 n, tokLed g 2 n, thrFault g th cTokOvf 0]
  else seqs [tokLed g 0 n, tokLed g 1 n, retire g th t, addTok g k n]

/-- SIGTOK: after the effect of FENCE; a remote signal takes a slot (R101, R102, R119). -/
def sigtokBody (g th w : Nat) (t : Thread) : Upd :=
  let k := fObj w
  let ra := fRaS w
  let target := if ra = 0 then g else t.get ra
  if k > 63 then thrFault g th cSync 0
  else if t.bad ra then thrFault g th cPUse 0
  else if target > 4095 then thrFault g th cAddr 0
  else if !t.slots.isEmpty then waitFor g th tWSYNC (.sig k (fN16 w) target) t
  else if target = g then sigOwn g th k (fN16 w) t
  else seqs [tokLed g 0 (fN16 w), takeSlot g th t { kind := .sig, ea := target, len := 0, rd := k, val := fN16 w } []]

/-- SIGTOK. -/
def execSigtok (core th w : Nat) (s : State) : Host.Outcome State Fault Refusal :=
  done (issue core th w (shS true) (sigtokBody core th w)) s

/-- BARRIER: the last of n16 arrivals releases them all; a different count is an error of the arriving thread (R101). -/
def barrierBody (g th w : Nat) (t : Thread) : Upd := read fun s =>
  let k := fObj w
  let n := fN16 w
  let q := atBarrier s g k
  if k > 7 ∨ n < 2 ∨ n > 64 ∨ q.any (fun e => barCount e ≠ n) = true then thrFault g th cSync 0
  else if q.length + 1 ≥ n then seqs [each q (fun e => setThr g e.1 e.2.ready.next), retire g th t]
  else waitFor g th tWSYNC (.bar k n) t

/-- BARRIER. -/
def execBarrier (core th w : Nat) (s : State) : Host.Outcome State Fault Refusal :=
  done (issue core th w (shS false) (barrierBody core th w)) s

/-- FENCE. -/
def fenceBody (g th : Nat) (t : Thread) : Upd :=
  if t.slots.isEmpty then retire g th t else waitFor g th tWSYNC .fence t

/-- FENCE. -/
def execFence (core th w : Nat) (s : State) : Host.Outcome State Fault Refusal := done (issue core th w shZero (fenceBody core th)) s

/-- DRAIN: waits for the layer barrier; run-ahead is squashed in every thread of the core (R99). -/
def execDrainInstruction (core th w : Nat) (s : State) : Host.Outcome State Fault Refusal :=
  done (issue core th w shC (fun t => seqs [waitFor core th tWSYNC .drain t, squashAll core])) s

/-- YIELD. -/
def execYield (core th w : Nat) (s : State) : Host.Outcome State Fault Refusal :=
  done (issue core th w shZero (retire core th)) s

/-- TRAP: imm38[23:0] goes to THR_FINFO.detail. -/
def execTrap (core th w : Nat) (s : State) : Host.Outcome State Fault Refusal :=
  done (issue core th w shC (fun _ => thrFault core th cTrap (bits w 23 0))) s

/-- The system values of R100; the cycle count is free, for the model has no core cycles (log 3). -/
def sysValue (s : State) (g th : Nat) : Nat → Nat
  | 0 => th
  | 1 => g
  | 2 => g / 64
  | 3 => s.now
  | 4 => freeVal s
  | _ => scratchSize s g

/-- RDSYS; a poisoned selector poisons the result (R119). -/
def rdsysBody (g th w : Nat) (t : Thread) : Upd := read fun s =>
  let b := add64 (t.get (f3 w)) (imm33 w)
  if t.bad (f3 w) then retire g th (t.put (f1 w) 0 true)
  else if b > 5 then thrFault g th cIllegal 0
  else seqs [retire g th (t.put (f1 w) (sysValue s g th b) false), when (b = 4) (act .drawn)]

/-- RDSYS. -/
def execRdsys (core th w : Nat) (s : State) : Host.Outcome State Fault Refusal := done (issue core th w shSys (rdsysBody core th w)) s

/-- WAITENG. -/
def waitengBody (g th : Nat) (t : Thread) : Upd :=
  if t.eng = 0 then retire g th t else waitFor g th tWENG .eng t

/-- WAITENG. -/
def execWaiteng (core th w : Nat) (s : State) : Host.Outcome State Fault Refusal := done (issue core th w shC (waitengBody core th)) s

/-! ## Integer instructions (R91, R103) -/

/-- b of form A: s[rb] + imm33. -/
def opB (t : Thread) (w : Nat) : Nat := add64 (t.get (f3 w)) (imm33 w)

/-- rd := f s[ra] b, modulo 2^64; the result of a poisoned operand is poison (R119). -/
def alu (g th w : Nat) (f : Nat → Nat → Nat) : Upd :=
  issue g th w shA (fun t => retire g th (t.put (f1 w) (f (t.get (f2 w)) (opB t w) % 2 ^ 64) (t.bad (f2 w) || t.bad (f3 w))))

/-- MOVI. -/
def execMovi (core th w : Nat) (s : State) : Host.Outcome State Fault Refusal :=
  done (issue core th w shI (fun t => retire core th (t.put (f1 w) (wrap 64 (imm43 w)) false))) s
/-- MOVHI. -/
def execMovhi (core th w : Nat) (s : State) : Host.Outcome State Fault Refusal :=
  done (issue core th w shHi (fun t => retire core th (t.put (f1 w) (setBits (t.get (f1 w)) 63 43 (bits w 20 0)) (t.bad (f1 w))))) s
/-- ADD. -/
def execAdd (core th w : Nat) (s : State) : Host.Outcome State Fault Refusal := done (alu core th w (fun a b => a + b)) s
/-- SUB. -/
def execSub (core th w : Nat) (s : State) : Host.Outcome State Fault Refusal := done (alu core th w (fun a b => a + (2 ^ 64 - b))) s
/-- MUL. -/
def execMul (core th w : Nat) (s : State) : Host.Outcome State Fault Refusal := done (alu core th w (fun a b => a * b)) s
/-- AND. -/
def execAnd (core th w : Nat) (s : State) : Host.Outcome State Fault Refusal := done (alu core th w (fun a b => a &&& b)) s
/-- OR. -/
def execOr (core th w : Nat) (s : State) : Host.Outcome State Fault Refusal := done (alu core th w (fun a b => a ||| b)) s
/-- XOR. -/
def execXor (core th w : Nat) (s : State) : Host.Outcome State Fault Refusal := done (alu core th w (fun a b => a ^^^ b)) s
/-- SHL. -/
def execShl (core th w : Nat) (s : State) : Host.Outcome State Fault Refusal := done (alu core th w (fun a b => a * 2 ^ (b % 64))) s
/-- SHR. -/
def execShr (core th w : Nat) (s : State) : Host.Outcome State Fault Refusal := done (alu core th w (fun a b => a / 2 ^ (b % 64))) s
/-- SAR. -/
def execSar (core th w : Nat) (s : State) : Host.Outcome State Fault Refusal :=
  done (alu core th w (fun a b => wrap 64 (sext 64 a / (2 ^ (b % 64) : Nat)))) s
/-- SLT. -/
def execSlt (core th w : Nat) (s : State) : Host.Outcome State Fault Refusal :=
  done (alu core th w (fun a b => b2n (decide (sext 64 a < sext 64 b)))) s
/-- SLTU. -/
def execSltu (core th w : Nat) (s : State) : Host.Outcome State Fault Refusal := done (alu core th w (fun a b => b2n (decide (a < b)))) s
/-- SEQ. -/
def execSeq (core th w : Nat) (s : State) : Host.Outcome State Fault Refusal := done (alu core th w (fun a b => b2n (decide (a = b)))) s
/-- MINU. -/
def execMinu (core th w : Nat) (s : State) : Host.Outcome State Fault Refusal := done (alu core th w min) s

end Sys2Proof.Machine
end

