-- ==== Sys2Proof/Machine/CoreMem.lean ====
section
/-! DEFINITION. Sys2Proof/Machine/CoreMem.lean: the memory stage instructions, the completion and timeout of their operations,
token signals on arrival, and run-ahead (R101 to R124). -/
namespace Sys2Proof.Machine
open Sys2Proof

/-! ## Operations in slots -/

/-- A memory operation needs a slot: wait for one when all four are taken (R83, R105). -/
def withSlot (g th : Nat) (t : Thread) (u : Upd) : Upd :=
  if t.slots.length ≥ 4 then setThr g th { t with state := tWDATA, wait := .slot } else u

/-- A register-space access waits until the thread's previous one has completed (R107). -/
def withRegOrder (g th : Nat) (t : Thread) (u : Upd) : Upd :=
  if t.slots.any (fun m => m.ea / 2 ^ 62 = 2 && m.kind ≠ .sig) then setThr g th { t with state := tWDATA, wait := .regs } else u

/-! ## LD, ST, PREF (R103, R119) -/

/-- A load from the core's own scratch completes in the core (R105). -/
def ldScratch (g th w ea : Nat) (t : Thread) : Upd := read fun s =>
  let n := widthOf (sizeM w)
  let l := leafOf s g
  let pz := scratchPoisoned l (eaAddr ea) n
  let t' := t.put (f1 w) (if pz then 0 else extend (sizeM w) (scratchNum l (eaAddr ea) n)) pz
  if pz then seqs [setThr g th t', thrFault g th cPLoad ea] else retire g th t'

/-- LD. -/
def ldBody (g th w : Nat) (t : Thread) : Upd := read fun s =>
  let z := sizeM w
  let n := widthOf z
  let ea := add64 (t.get (f2 w)) (off30 w)
  if t.bad (f2 w) then thrFault g th cPUse 0
  else match eaFault s g ea n n with
  | some f => thrFault g th f ea
  | none =>
    let m : MemOp := { kind := .ld, ea := ea, len := n, size := z, hint := hintM w, rd := f1 w }
    match eaSpace ea with
    | 1 => when (!busyRange t ea n false) (ldScratch g th w ea t)
    | 2 => withRegOrder g th t (withSlot g th t (takeSlot g th t m [f1 w]))
    | _ => withSlot g th t (seqs [
        takeSlot g th t { m with lines := ((leafOf s g).line (ea / 256)).toList } [f1 w], touchLine g (ea / 256) .load (hintM w)])

/-- LD. -/
def execLd (core th w : Nat) (s : State) : Host.Outcome State Fault Refusal := done (issue core th w shLd (ldBody core th w)) s

/-- ST: a poisoned register writes poison, but may not be written to register space (R119). -/
def stBody (g th w : Nat) (t : Thread) : Upd := read fun s =>
  let n := widthOf (sizeM w)
  let ea := add64 (t.get (f2 w)) (off30 w)
  let v := t.get (f1 w) % 2 ^ (8 * n)
  let pz := t.bad (f1 w)
  if t.bad (f2 w) then thrFault g th cPUse 0
  else match eaFault s g ea n n with
  | some f => thrFault g th f ea
  | none =>
    let m : MemOp := { kind := .st, ea := ea, len := n, size := sizeM w, val := v, pz := pz }
    match eaSpace ea with
    | 1 => when (!busyRange t ea n true) (seqs [scratchWrite g (eaAddr ea) (toBytes n v) pz, retire g th t])
    | 2 => if pz then thrFault g th cPUse ea else withRegOrder g th t (withSlot g th t (takeSlot g th t m []))
    | _ => withSlot g th t (seqs [takeSlot g th t m [], storeThrough g ea (toBytes n v) pz])

/-- ST. -/
def execSt (core th w : Nat) (s : State) : Host.Outcome State Fault Refusal := done (issue core th w shSt (stBody core th w)) s

/-- PREF: device memory only (R103, R710). -/
def prefBody (g th w : Nat) (t : Thread) : Upd := read fun s =>
  let ea := add64 (t.get (f2 w)) (off30 w)
  if t.bad (f2 w) then thrFault g th cPUse 0
  else match (if eaSpace ea = 0 then eaFault s g ea 1 1 else some cAddr) with
  | some f => thrFault g th f ea
  | none => withSlot g th t (seqs [takeSlot g th t { kind := .pref, ea := ea, len := 1, hint := hintM w } [],
      touchLine g (ea / 256) .pref (hintM w)])

/-- PREF. -/
def execPref (core th w : Nat) (s : State) : Host.Outcome State Fault Refusal := done (issue core th w shPref (prefBody core th w)) s

/-! ## Line ranges (R104, R119) -/

/-- Is the length legal: a nonzero multiple of 256 B, at most 65,536 B? -/
def lenOk (n : Nat) : Bool := n ≠ 0 && n % 256 = 0 && decide (n ≤ 65536)
/-- The fault of a line range at `ea`; `dev`: device memory only. -/
def rangeFault (s : State) (g ea n : Nat) (dev : Bool) : Option Nat :=
  if eaSpace ea = 2 ∨ (dev = true ∧ eaSpace ea = 1) then some cAddr else eaFault s g ea n 256

/-- The poison units of a source range, as byte offsets of 8-byte words: what a COPY writes as poison (R119). -/
def srcPoison (s : State) (g src n : Nat) (hits : List Line) : List Nat :=
  if eaSpace src = 1 then
    ((wordsOf (eaAddr src) n).filter ((leafOf s g).scratchPz.contains ·)).map (fun w => 8 * w - eaAddr src)
  else (linesOf src n).flatMap fun a =>
    match hits.find? (·.addr = a) with
    | some x => x.pz.map (fun w => a * 256 + 8 * w - src)
    | none =>
      let bad (c : Nat) : Bool := reach s (a * 256) ≠ .ok || cwPoison s (a * 8 + c)
      ((List.range 8).filter bad).flatMap (fun c => (List.range 4).map (fun k => a * 256 + 32 * c + 8 * k - src))

/-- The bytes of a source range. -/
def srcBytes (s : State) (g src n : Nat) (hits : List Line) : List Byte :=
  if eaSpace src = 1 then scratchBytes (leafOf s g) (eaAddr src) n
  else (linesOf src n).flatMap fun a =>
    match hits.find? (·.addr = a) with
    | some x => toBytes 256 x.data
    | none => memBytes s (a * 256) 256

/-- Write a range with poison at the given word offsets: whole units (R119). -/
def putRange (g dst : Nat) (bs : List Byte) (pz : List Nat) : Upd :=
  if eaSpace dst = 1 then
    seqs [scratchWrite g (eaAddr dst) bs false, each pz (fun o => scratchWrite g (eaAddr dst + o) (List.replicate 8 0) true)]
  else
    let cws := (pz.map (· / 32)).eraseDups
    seqs [storeThrough g dst bs false, memWrite dst bs,
      each cws (fun c => seqs [storeThrough g (dst + 32 * c) (List.replicate 32 0) true, cwPoisonWrite (dst / 32 + c)])]

/-- COPY. -/
def copyBody (g th w : Nat) (t : Thread) : Upd := read fun s =>
  let n := t.get (f3 w)
  let dst := t.get (f1 w)
  let src := t.get (f2 w)
  if t.bad (f1 w) || t.bad (f2 w) || t.bad (f3 w) then thrFault g th cPUse 0
  else if !lenOk n then thrFault g th cAlign dst
  else match rangeFault s g dst n false, rangeFault s g src n false with
  | some f, _ => thrFault g th f dst
  | none, some f => thrFault g th f src
  | none, none =>
    if overlap dst n src n then thrFault g th cAddr dst
    else if eaSpace dst = 1 ∧ eaSpace src = 1 then
      when (!busyRange t dst n true && !busyRange t src n false)
        (seqs [putRange g dst (srcBytes s g src n []) (srcPoison s g src n []), retire g th t])
    else withSlot g th t (seqs [
      takeSlot g th t {
        kind := .copy, ea := dst, src := src, len := n, hint := hintL w,
        lines := if eaSpace src = 0 then (linesOf src n).filterMap (leafOf s g).line else [] } [],
      when (eaSpace src = 0) (each (linesOf src n) (fun a => touchLine g a .load (hintL w)))])

/-- COPY. -/
def execCopy (core th w : Nat) (s : State) : Host.Outcome State Fault Refusal :=
  done (issue core th w (shL true false) (copyBody core th w)) s

/-- The bytes of a FILL. -/
def fillBytes (v n : Nat) : List Byte := (List.replicate (n / 8) (toBytes 8 v)).flatten

/-- FILL. -/
def fillBody (g th w : Nat) (t : Thread) : Upd := read fun s =>
  let n := t.get (f3 w)
  let dst := t.get (f1 w)
  let v := t.get (f2 w)
  let pz := t.bad (f2 w)
  if t.bad (f1 w) || t.bad (f3 w) then thrFault g th cPUse 0
  else if !lenOk n then thrFault g th cAlign dst
  else match rangeFault s g dst n false with
  | some f => thrFault g th f dst
  | none =>
    if eaSpace dst = 1 then
      when (!busyRange t dst n true) (seqs [scratchWrite g (eaAddr dst) (fillBytes v n) pz, retire g th t])
    else withSlot g th t (seqs [takeSlot g th t { kind := .fill, ea := dst, len := n, val := v, pz := pz } [],
      storeThrough g dst (fillBytes v n) pz])

/-- FILL. -/
def execFill (core th w : Nat) (s : State) : Host.Outcome State Fault Refusal :=
  done (issue core th w (shL false false) (fillBody core th w)) s

/-- UNPIN and CINV act on a range of device memory in the core (R104, R105). -/
def lineBody (g th w : Nat) (t : Thread) (u : Nat → Nat → Upd) : Upd := read fun s =>
  let n := t.get (f3 w)
  let dst := t.get (f1 w)
  if t.bad (f1 w) || t.bad (f3 w) then thrFault g th cPUse 0
  else if !lenOk n then thrFault g th cAlign dst
  else match rangeFault s g dst n true with
  | some f => thrFault g th f dst
  | none => seqs [u dst n, retire g th t]

/-- UNPIN. -/
def execUnpin (core th w : Nat) (s : State) : Host.Outcome State Fault Refusal :=
  done (issue core th w (shL false true) (fun t => lineBody core th w t (unpinRange core))) s
/-- CINV. -/
def execCinv (core th w : Nat) (s : State) : Host.Outcome State Fault Refusal :=
  done (issue core th w (shL false true) (fun t => lineBody core th w t (cinvRange core))) s

/-! ## Atomics (R103, R106, R119) -/

/-- AADD and ACAS: the line is dropped from the leaf cache unless pinned, and the slice does the rest. -/
def atomicBody (g th w : Nat) (cas : Bool) (t : Thread) : Upd := read fun s =>
  let n := widthOf (sizeX w)
  let ea := t.get (f2 w)
  if t.bad (f2 w) || t.bad (f3 w) || (cas && t.bad (f1 w)) then thrFault g th cPUse 0
  else match (if eaSpace ea = 0 then eaFault s g ea n n else some cAddr) with
  | some f => thrFault g th f ea
  | none => withSlot g th t (seqs [
      takeSlot g th t {
        kind := if cas then .acas else .aadd, ea := ea, len := n, size := sizeX w, rd := f1 w,
        val := t.get (f3 w) % 2 ^ (8 * n), val2 := t.get (f1 w) % 2 ^ (8 * n) } [f1 w],
      cinvRange g (ea / 256 * 256) 256])

/-- AADD. -/
def execAadd (core th w : Nat) (s : State) : Host.Outcome State Fault Refusal := done (issue core th w shX (atomicBody core th w false)) s
/-- ACAS. -/
def execAcas (core th w : Nat) (s : State) : Host.Outcome State Fault Refusal := done (issue core th w shX (atomicBody core th w true)) s

/-! ## Completion (R105, R119) -/

/-- Free slot `i`, counting the request as ended the way `k` says (R651). -/
def freeSlot (g th i k : Nat) (f : Thread → Thread) : Upd := read fun s =>
  let t := thr s g th
  seqs [reqLed g k 1, setWake g th (f { t with slots := t.slots.eraseIdx i }), sendOps g th, attGo g, kvGo g, sndGo g]

/-- A register's result arrives: poison marks it and is an error at the instruction's own PC (R119, R128). -/
def land (g th i k : Nat) (m : MemOp) (v : Nat) (pz : Bool) (src : Nat) : Upd :=
  let put (t : Thread) : Thread := { t.put m.rd v pz with pend := t.pend.filter (· ≠ m.rd) }
  seqs [raCheck g th m v, freeSlot g th i k (fun t => if pz then (put t).erred m.pc else put t), when pz (thrFault g th src m.ea)]
where
  /-- The pending load's completion ends run-ahead; a guess it shows wrong is counted (R122, R123). -/
  raCheck (g th : Nat) (m : MemOp) (v : Nat) : Upd := read fun s =>
    let t := thr s g th
    onSome t.ra fun ra =>
      let wrong := ra.guesses.any (fun e => if e.1 = m.rd then e.2 ≠ (v ≠ 0) else (freeVal s % 2 = 1))
      seqs [act .drawn, when wrong (bump (coreB g + R.CORE_CNT_RA_SQUASH) 1), setThr g th { t with ra := none }]

/-- An operation of register space: a read through the bus, or a write that may wait in the journal (R96, R75). -/
def regOpDone (g th i : Nat) (m : MemOp) : Upd := read fun s =>
  let o := coreOrigin g
  let off := eaAddr m.ea
  let waiting (s : State) : Bool := s.jnl.bp.held.contains (.reg o off 4 m.val)
  let t := thr s g th
  if m.kind = .ld then seqs [land g th i 1 m (extend m.size (busRead s o off)) false cPLoad, readEffect o off]
  else if m.delivered then when (!waiting s) (freeSlot g th i 1 id)
  else seqs [setThr g th { t with slots := t.slots.set i { m with delivered := true } }, busWrite o off 4 m.val,
    read fun s' => when (!waiting s') (freeSlot g th i 1 id)]

/-- An atomic at the slice: the old value goes to rd; a poisoned or dead target gives poison and is not written. -/
def atomicDone (g th i : Nat) (m : MemOp) : Upd := read fun s =>
  let old := memRead s m.ea m.len
  let new := if m.kind = .aadd then (old.1 + m.val) % 2 ^ (8 * m.len) else if old.1 = m.val2 then m.val else old.1
  seqs [when (!old.2) (memWrite m.ea (toBytes m.len new)),
    when (reach s m.ea = .dead) (deadDpa m.ea (coreOrg g) true),
    land g th i 1 m old.1 old.2 cPLoad]

/-- A load's data: from the line that hit, or from the slice. -/
def loadValue (s : State) (m : MemOp) : Nat × Bool :=
  match m.lines with
  | x :: _ => if x.poisoned (m.ea % 256) m.len then (0, true) else (bits x.data (8 * (m.ea % 256 + m.len) - 1) (8 * (m.ea % 256)), false)
  | [] => memRead s m.ea m.len

/-- A COPY's last byte is written. -/
def copyDone (g th i : Nat) (m : MemOp) : Upd := read fun s =>
  let dead (a : Nat) : Bool := eaSpace a = 0 && reachRange s a m.len = .dead
  seqs [when (dead m.src) (deadDpa m.src (coreOrg g) true), when (dead m.ea) (deadDpa m.ea (coreOrg g) false),
    when (!dead m.ea) (putRange g m.ea (srcBytes s g m.src m.len m.lines) (srcPoison s g m.src m.len m.lines)),
    freeSlot g th i 1 id]

/-- A store or FILL is written at its slice, or discarded there (R119, R271). -/
def storeDone (g th i : Nat) (m : MemOp) : Upd := read fun s =>
  let bs := if m.kind = .fill then fillBytes m.val m.len else toBytes m.len m.val
  seqs [if reachRange s m.ea m.len = .dead then deadDpa m.ea (coreOrg g) false
    else if m.pz then memPoison m.ea m.len else memWrite m.ea bs,
    freeSlot g th i 1 id]

/-- Must the operation be sent again because a tile answers RETRY_LATER? (R118) -/
def opRetries (s : State) (m : MemOp) : Bool :=
  let r (a : Nat) : Bool := eaSpace a = 0 && reachRange s a (max m.len 1) = .retry
  m.kind ≠ .sig && ((m.lines.isEmpty || m.kind = .copy) && r m.ea || (m.kind = .copy && r m.src))

/-- A memory operation completes; one that leaves its site completes by its response, once its request has been sent. -/
def opDone (g th i : Nat) : Upd := read fun s =>
  let t := thr s g th
  onSome t.slots[i]? fun m =>
    if remoteOp g m then when (m.tag.isNone && !heldBack t i m) (sendOp g th i)
    else when (!heldBack t i m && !opRetries s m) (
      if m.kind = .sig then when m.delivered (freeSlot g th i 1 id)
      else if eaSpace m.ea = 2 then regOpDone g th i m
      else match m.kind with
        | .ld => seqs [when (m.lines.isEmpty && reach s m.ea = .dead) (deadDpa m.ea (coreOrg g) true),
            land g th i 1 m (extend m.size (loadValue s m).1) (loadValue s m).2 cPLoad]
        | .st | .fill => storeDone g th i m
        | .copy => copyDone g th i m
        | .aadd | .acas => atomicDone g th i m
        | _ => when ((leafOf s g).fill (m.ea / 256)).isNone (freeSlot g th i 1 id))

/-- MEMORY_OP_COMPLETION. -/
def execMemoryOpCompletion (core th slot : Nat) (s : State) : Host.Outcome State Fault Refusal := done (opDone core th slot) s

/-- LEAF_FILL_ARRIVAL: `line` is the line's DPA / 256. -/
def execLeafFillArrival (core line : Nat) (s : State) : Host.Outcome State Fault Refusal :=
  done (when (reach s (line * 256) ≠ .retry) (fillArrive core line)) s

/-! ## Timeouts (R118) -/

/-- CORE_MEM_TIMEOUT in ns. -/
def memLimit (s : State) (g : Nat) : Nat := fld s (coreB g + R.CORE_MEM_TIMEOUT) 5 0 * 1000000

/-- A store that timed out leaves each of its bytes old or new: which is free (R118, log 3). -/
def storeTorn (d : Nat) (bs : List Byte) (pz : Bool) : Upd := read fun s =>
  let v := freeVal s
  seqs [act .drawn,
    if pz then each (cwsOf d bs.length) (fun c => when (bit v (c % 64)) (cwPoisonWrite c))
    else each (List.range bs.length) (fun i => when (bit v i) (memWrite (d + i) ((bs.drop i).take 1)))]

/-- An operation is not complete at its limit: CORE_mem_timeout; a load leaves rd poisoned (R118). -/
def opTimeout (g th i : Nat) : Upd := read fun s =>
  let t := thr s g th
  onSome t.slots[i]? fun m =>
    when (s.now ≥ m.time + memLimit s g && !(m.kind = .sig && m.delivered)) (
      let back : Upd := seqs [freeSlot g th i 2 (·.erred m.pc), thrFault g th cTimeout m.ea]
      match m.kind with
      | .ld | .aadd | .acas => land g th i 2 m 0 true cTimeout
      | .st => seqs [when (eaSpace m.ea = 0 && reach s m.ea = .ok) (storeTorn m.ea (toBytes m.len m.val) m.pz), back]
      | .fill => seqs [when (eaSpace m.ea = 0 && reach s m.ea = .ok) (storeTorn m.ea (fillBytes m.val m.len) m.pz), back]
      | .copy => seqs [when (eaSpace m.ea = 0 && reach s m.ea = .ok) (storeTorn m.ea (srcBytes s g m.src m.len m.lines) false), back]
      | .sig => seqs [tokLed g 2 m.val, back]
      | _ => back)

/-- A completion signal of a descriptor that timed out: CORE_mem_timeout with no thread (R400). -/
def sigTimeout (g i : Nat) : Upd := read fun s =>
  let x := streamOf s g
  onSome x.sigs[i]? fun y => when (s.now ≥ y.time + memLimit s g)
    (seqs [act (.stream g { x with sigs := x.sigs.eraseIdx i }), tokLed g 2 y.n, descFault g y.ring y.seq cTimeout])

/-- A packet of a SEND, or its signal, is not acknowledged within CORE_MEM_TIMEOUT: the SEND ends with CORE_mem_timeout (R454). -/
def sendTimeout (g : Nat) : Upd := read fun s => onSome (sndOf s g).run fun r =>
  let sig := match r.sig with | some x => decide (s.now ≥ x.2.1 + memLimit s g) | none => false
  when (sig || r.outs.any (fun o => decide (s.now ≥ o.2.2.1 + memLimit s g))) (seqs [when r.sig.isSome (tokLed g 2 1),
    sndPop g, engError g r.op cTimeout r.op.d false, sndGo g])

/-- CORE_MEM_TIMEOUT_EXPIRY; thread 64 stands for the core's own completion signals, 65 for its send port. -/
def execCoreMemTimeoutExpiry (core th slot : Nat) (s : State) : Host.Outcome State Fault Refusal :=
  done (if th = 64 then sigTimeout core slot else if th = 65 then sendTimeout core else opTimeout core th slot) s

/-- READ_RETRY: a read answered RETRY_LATER is sent again every 10 µs; it keeps its slot and its time, and completes once the
tile answers otherwise. -/
def readRetry (g th i : Nat) : Upd := read fun s =>
  let t := thr s g th
  onSome t.slots[i]? fun m => if m.again then sendOp g th i else when (opRetries s m) (setThr g th { t with slots := t.slots.set i m })

/-- READ_RETRY. -/
def execReadRetry (core th slot : Nat) (s : State) : Host.Outcome State Fault Refusal := done (readRetry core th slot) s

/-! ## Token signals (R101, R102, R400) -/

/-- A thread's remote signal reaches its core; above 65,535 it is an error at the signalling thread. -/
def sigArrive (g th i : Nat) : Upd := read fun s =>
  let t := thr s g th
  onSome t.slots[i]? fun m => when (m.kind = .sig && !m.delivered && !remoteOp g m && takesSignal s m.ea) (
    if tokOver s m.ea m.rd m.val then
      seqs [tokLed g 2 m.val, freeSlot g th i 1 (·.erred m.pc), thrFault g th cTokOvf 0]
    else seqs [tokLed g 1 m.val, setThr g th { t with slots := t.slots.set i { m with delivered := true } }, addTok m.ea m.rd m.val])

/-- A descriptor's completion signal reaches its core. -/
def descSigArrive (g i : Nat) : Upd := read fun s =>
  let x := streamOf s g
  onSome x.sigs[i]? fun y => when (takesSignal s y.target) (seqs [
    act (.stream g { x with sigs := x.sigs.eraseIdx i }),
    if tokOver s y.target y.tok y.n then seqs [tokLed g 2 y.n, descFault g y.ring y.seq cTokOvf]
    else seqs [tokLed g 1 y.n, addTok y.target y.tok y.n]])

/-- A copy's signal reaches the core it names (R475); one above 65,535 is dropped, since no thread issued it (log 63). -/
def copySigArrive (i : Nat) : Upd := read fun s =>
  onSome s.hif.sigs[i]? fun x => when (takesSignal s x.1) (seqs [modHif (fun h => { h with sigs := h.sigs.eraseIdx i }),
    when (!tokOver s x.1 x.2 1) (addTok x.1 x.2 1)])

/-- TOKEN_SIGNAL_ARRIVAL; sender 64 stands for the core's own completion signals, 65 for the copy engine. -/
def execTokenSignalArrival (core who i : Nat) (s : State) : Host.Outcome State Fault Refusal :=
  done (if who = 64 then descSigArrive core i else if who = 65 then copySigArrive i else sigArrive core who i) s

/-! ## Run-ahead (R120 to R124) -/

/-- A register as run-ahead sees it: unknown, or a value. -/
def raGet (t : Thread) (ra : RunAhead) (r : Nat) : Option Nat :=
  if r = 0 then some 0
  else if ra.unknown.contains r then none
  else some (((SMap.find r ra.shadow).map (·.toNat)).getD (t.get r))
/-- Write a shadow register. -/
def raPut (ra : RunAhead) (r : Nat) (v : Option Nat) : RunAhead :=
  if r = 0 then ra
  else match v with
    | none => { ra with unknown := r :: ra.unknown.filter (· ≠ r) }
    | some v => { ra with unknown := ra.unknown.filter (· ≠ r), shadow := SMap.put r (BitVec.ofNat 64 v) ra.shadow }

/-- Integer results of run-ahead. -/
def raAlu (op a b : Nat) : Option Nat :=
  match op with
  | 0x22 => some ((a + b) % 2 ^ 64) | 0x23 => some ((a + (2 ^ 64 - b)) % 2 ^ 64) | 0x24 => some (a * b % 2 ^ 64)
  | 0x25 => some (a &&& b) | 0x26 => some (a ||| b) | 0x27 => some (a ^^^ b)
  | 0x28 => some (a * 2 ^ (b % 64) % 2 ^ 64) | 0x29 => some (a / 2 ^ (b % 64))
  | 0x2A => some (wrap 64 (sext 64 a / (2 ^ (b % 64) : Nat)))
  | 0x2B => some (b2n (decide (sext 64 a < sext 64 b))) | 0x2C => some (b2n (decide (a < b)))
  | 0x2D => some (b2n (decide (a = b))) | 0x2E => some (min a b)
  | _ => none

/-- The opcodes that write rd: loads, atomics, integer results, and the engine instructions that leave rd pending (R103,
R257, R326, R372, R454). -/
def raWrites (op : Nat) : Bool :=
  op = 0x10 || op = 0x17 || op = 0x18 || decide (0x20 ≤ op ∧ op ≤ 0x2E) || op = 0x61 || decide (0x64 ≤ op ∧ op ≤ 0x6C)
    || op = 0x80 || op = 0x83 || op = 0x84 || op = 0x90 || op = 0xA1

/-- The next run-ahead state for an instruction that is not a branch: its result, known or not. -/
def raExec (t : Thread) (ra : RunAhead) (w : Nat) : RunAhead :=
  let op := w / 2 ^ 56
  if op = 0x20 then raPut ra (f1 w) (some (wrap 64 (imm43 w)))
  else if op = 0x21 then raPut ra (f1 w) ((raGet t ra (f1 w)).map (fun v => setBits v 63 43 (bits w 20 0)))
  else if op ≥ 0x22 ∧ op ≤ 0x2E then
    raPut ra (f1 w) (match raGet t ra (f2 w), raGet t ra (f3 w) with
      | some a, some b => raAlu op a (add64 b (imm33 w))
      | _, _ => none)
  else if raWrites op then raPut ra (f1 w) none
  else ra

/-- A branch in run-ahead: taken or not, and the guess made when its condition is unknown (R122). -/
def raBranch (t : Thread) (ra : RunAhead) (w : Nat) : RunAhead :=
  let op := w / 2 ^ 56
  let c := fCond w
  let off := imm38 w
  let go (ra : RunAhead) (taken : Bool) : RunAhead := { ra with pc := if taken then add64 ra.pc (8 * off) else (ra.pc + 8) % 2 ^ 64 }
  let guess (ra : RunAhead) (r : Nat) (whenTaken : Bool) : RunAhead :=
    let taken := decide (off < 0)
    go { ra with guesses := ra.guesses ++ [(r, if taken then whenTaken else !whenTaken)] } taken
  let body (ra : RunAhead) : RunAhead :=
    if op = 0x05 then match raGet t ra (f1 w) with
      | some v => let v' := (v + (2 ^ 64 - 1)) % 2 ^ 64; go (raPut ra (f1 w) (some v')) (v' ≠ 0)
      | none => guess ra (f1 w) true
    else if op = 0x04 then go (raPut ra 31 (some ((ra.pc + 8) % 2 ^ 64))) true
    else go ra true
  if c = 0 then body ra
  else match raGet t ra (fP w) with
    | some v => if (c = 1) = (v ≠ 0) then body ra else { ra with pc := (ra.pc + 8) % 2 ^ 64 }
    | none => if op = 0x02 then guess ra (fP w) (c = 1) else { ra with stopped := true }

/-- Is the predicate of a run-ahead instruction known, and does it hold? -/
def raCond (t : Thread) (ra : RunAhead) (w : Nat) : Option Bool :=
  match fCond w with
  | 0 => some true
  | 1 => (raGet t ra (fP w)).map (fun v => v ≠ 0)
  | 2 => (raGet t ra (fP w)).map (fun v => v = 0)
  | _ => some false

/-- An LD or PREF in run-ahead with a KEEP or LASTUSE hint: prefetched PLAIN if its address is known, it would not fault, and
a slot is free (R121, R124). -/
def raMem (g th w : Nat) (t : Thread) (ra : RunAhead) : Upd := read fun s =>
  let nxt (ra : RunAhead) : RunAhead := { raExec t ra w with pc := (ra.pc + 8) % 2 ^ 64, count := ra.count + 1 }
  match raGet t ra (f2 w) with
  | none => setThr g th { t with ra := some { ra with stopped := true } }
  | some a =>
    let ea := add64 a (off30 w)
    let n := if w / 2 ^ 56 = 0x12 then 1 else widthOf (sizeM w)
    let isDev := eaSpace ea = 0 || eaSpace ea = 3 || w / 2 ^ 56 = 0x12
    let bad := (w / 2 ^ 56 = 0x12 && eaSpace ea ≠ 0) || (eaFault s g ea n n).isSome || (if w / 2 ^ 56 = 0x12 then shPref.bad w else shLd.bad w)
    if bad then seqs [bump (coreB g + R.CORE_CNT_RA_SUPPR) 1, setThr g th { t with ra := some (nxt ra) }]
    else if !isDev || hintM w = 0 then setThr g th { t with ra := some (nxt ra) }
    else if t.slots.length ≥ 4 then setThr g th { t with ra := some { ra with stopped := true } }
    else seqs [bump (coreB g + R.CORE_CNT_RA_PREF) 1, reqLed g 0 1,
      setThr g th { t with ra := some (nxt ra), slots := t.slots ++ [{ kind := .ra, ea := ea, len := 1, time := s.now, pc := ra.pc }] },
      touchLine g (ea / 256) .ahead 0]

/-- The core decodes one instruction ahead of a thread that waits on a pending load (R120, R121). -/
def raStep (g th w : Nat) : Upd := read fun s =>
  let t := thr s g th
  let b := coreB g + R.CORE_RUNAHEAD
  let ra := t.ra.getD { pc := t.pc, unknown := t.pend }
  let op := w / 2 ^ 56
  let onLoad := match t.wait with | .data _ => t.slots.any (fun m => m.kind = .ld) | _ => false
  when (t.state = tWDATA && onLoad && fld s b 0 0 = 1 && decide (ra.count < fld s b 13 8) && !ra.stopped
      && (pgState s ⟨.CORE, g⟩ = stRUN || pgState s ⟨.CORE, g⟩ = stDRAIN)) (
    if op = 0x02 ∨ op = 0x04 ∨ op = 0x05 then
      setThr g th { t with ra := some { raBranch t ra w with count := ra.count + 1 } }
    else if op < 0x10 then setThr g th { t with ra := some { ra with stopped := true } }
    else match raCond t ra w with
      | some false => setThr g th { t with ra := some { ra with pc := (ra.pc + 8) % 2 ^ 64, count := ra.count + 1 } }
      | none => setThr g th { t with ra := some { (if raWrites op then raPut ra (f1 w) none else ra) with pc := (ra.pc + 8) % 2 ^ 64, count := ra.count + 1 } }
      | some true =>
        if op = 0x10 ∨ op = 0x12 then raMem g th w t ra
        else setThr g th { t with ra := some { raExec t ra w with pc := (ra.pc + 8) % 2 ^ 64, count := ra.count + 1 } })

/-- RUNAHEAD_PREFETCH: `w` is the whole 64-bit instruction decoded. -/
def execRunaheadPrefetch (core th w : Nat) (s : State) : Host.Outcome State Fault Refusal := done (raStep core th w) s

end Sys2Proof.Machine
end

