-- ==== Sys2Proof/Machine/Engine.lean ====
section
/-! DEFINITION. Sys2Proof/Machine/Engine.lean: how an engine instruction is handed to its engine's queue (R86, R119). -/
namespace Sys2Proof.Machine
open Sys2Proof

/-- The registers an engine instruction reads for itself: s[ra], s[rb], and s[rd] where it is an address. -/
def engReads (w : Nat) (readsRd : Bool) : List Nat := [f2 w, f3 w] ++ if readsRd then [f1 w] else []

/-- Hand an instruction to an engine's queue `q`, or wait in T_WAIT_ENG for room; `wr`: rd stays pending until it completes.
A poisoned operand is a CORE_poison_use (R83, R86, R119). -/
def toEngine (g th op w q : Nat) (readsRd wr : Bool) (room : State → Bool) (push : EOp → Upd) (t : Thread) : Upd := read fun s =>
  if (engReads w readsRd).any t.bad then thrFault g th cPUse 0
  else if !room s then setThr g th { t with state := tWENG, wait := .queue q }
  else seqs [setThr g th { t.next with eng := t.eng + 1, pend := t.pend ++ (if wr && f1 w ≠ 0 then [f1 w] else []) },
    push { op := op, th := th, own := t.own, d := if readsRd then t.get (f1 w) else 0, a := t.get (f2 w), b := opB t w,
           rd := f1 w, time := s.now, pc := t.pc }]

end Sys2Proof.Machine
end

