-- ==== Sys2Proof/Machine/Array.lean ====
section
/-! DEFINITION. Sys2Proof/Machine/Array.lean: the matrix array: its instructions, blocks, passes and accumulators (R129 to
R182, R219 to R233). -/
namespace Sys2Proof.Machine
open Sys2Proof

/-! ## Fault sources (R182) -/

abbrev aPoisonA : Nat := 0
abbrev aPoisonW : Nat := 1
abbrev aFeed : Nat := 3
abbrev aExc : Nat := 4
abbrev aSeq : Nat := 6
abbrev aLoad : Nat := 7
abbrev aAddr : Nat := 8

/-! ## The instructions (R143, R152) -/

/-- WLD: rd is s0. -/
def shWld : Shape := ⟨fun w => f1 w ≠ 0, fun w => engReads w false⟩
/-- PASS reads s[rd]. -/
def shPass : Shape := ⟨fun _ => false, fun w => engReads w true⟩
/-- ACCZ: ra and rd are s0. -/
def shAccz : Shape := ⟨fun w => f1 w ≠ 0 || f2 w ≠ 0, fun w => engReads w false⟩

/-- Put an instruction at the end of an array queue. -/
def arrPush (g u : Nat) (o : EOp) : Upd := read fun s =>
  let x := arrOf s g
  setArr g (if u = 0 then { x with q0 := x.q0 ++ [o] } else { x with q1 := x.q1 ++ [o] })

/-- The queue an array instruction goes to: its half field, or the bank that holds its first row (R152). -/
def arrUnit (s : State) (g op b : Nat) : Nat :=
  if !splitOn s g then 1
  else if op = 0x30 then bits b 16 16
  else if op = 0x31 then bits b 18 18
  else if bits b 15 8 < 128 then 0 else 1

/-- Issue an array instruction. -/
def arrIssue (g th op w : Nat) (sh : Shape) (rdEa : Bool) : Upd :=
  issue g th w sh (fun t => read fun s =>
    let u := arrUnit s g op (opB t w)
    toEngine g th op w u rdEa false (fun s => arrRoom s g u) (arrPush g u) t)

/-- WLD. -/
def execWld (core th w : Nat) (s : State) : Host.Outcome State Fault Refusal := done (arrIssue core th 0x30 w shWld false) s
/-- PASS. -/
def execPass (core th w : Nat) (s : State) : Host.Outcome State Fault Refusal := done (arrIssue core th 0x31 w shPass true) s
/-- ACCZ. -/
def execAccz (core th w : Nat) (s : State) : Host.Outcome State Fault Refusal := done (arrIssue core th 0x32 w shAccz false) s
/-- ACCLD. -/
def execAccld (core th w : Nat) (s : State) : Host.Outcome State Fault Refusal := done (arrIssue core th 0x33 w shWld false) s
/-- ACCST. -/
def execAccst (core th w : Nat) (s : State) : Host.Outcome State Fault Refusal := done (arrIssue core th 0x34 w shPass true) s

/-! ## The load word (R132, R145, R146, R222) -/

abbrev lwMode (b : Nat) : Nat := bits b 4 0
abbrev lwSparse (b : Nat) : Nat := bits b 7 5
abbrev lwW (b : Nat) : Nat := bits b 11 8
abbrev lwA (b : Nat) : Nat := bits b 15 12
abbrev lwTaps (b : Nat) : Nat := bits b 20 17

/-- An 8-bit or 6-bit format of the FP8 rate. -/
def fmt8 (c : Nat) : Bool := c = 3 || c = 4 || c = 5 || c = 6 || c = 7 || c = 8 || c = 0xA
/-- A 4-bit format. -/
def fmt4 (c : Nat) : Bool := c = 9 || c = 0xB
/-- The rate of a format pair: 0 FP8, 1 FP4, 2 BF16; none where the pair is refused. -/
def pairRate (w a : Nat) : Option Nat :=
  if (w = 1 ∧ a = 1) ∨ (w = 2 ∧ a = 2) then some 2
  else if isInt w ≠ isInt a then none
  else if fmt4 w && fmt4 a then some 1
  else if (fmt8 w || fmt4 w) && (fmt8 a || fmt4 a) then some 0
  else none
/-- The rate of an N:M block: MX weights with an A element encoding under one scale a row (R222). -/
def sparseRate (w a : Nat) : Option Nat :=
  if w = 9 ∧ a = 9 then some 1
  else if (w = 5 ∨ w = 6 ∨ w = 9) ∧ (a = 3 ∨ a = 4) then some 0
  else none
/-- The rate of a load word. -/
def lwRate (b : Nat) : Option Nat := if lwSparse b ≠ 0 then sparseRate (lwW b) (lwA b) else pairRate (lwW b) (lwA b)

/-- Is the load word legal with this split setting? -/
def lwOk (split : Bool) (b : Nat) : Bool :=
  let m := lwMode b
  let t := lwTaps b
  bits b 63 23 = 0 && decide (m ≤ 3) && decide (split = (m = 1)) && (m = 1 || bits b 16 16 = 0)
    && decide (lwSparse b ≤ 4) && (lwSparse b = 0 || m = 0)
    && (if m = 3 then t = 2 || t = 3 || t = 4 || t = 5 || t = 7 || t = 8 else t = 0 && bits b 22 21 = 0)
    && (match lwRate b with
      | none => false
      | some 2 => m = 0
      | some r => m ≠ 3 || (r = 0 && [3, 4, 0xA].contains (lwW b) && [3, 4, 0xA].contains (lwA b)))

/-- Stored rows of a block (K) by mode and rate. -/
def blkK (b : Nat) : Nat :=
  match lwMode b, lwRate b with
  | 3, _ => lwTaps b * (64 / lwTaps b)
  | 1, some 1 => 64
  | 1, _ => 32
  | _, some 1 => 128
  | _, some 2 => 32
  | _, _ => 64
/-- Columns of a block (N). -/
def blkN (b : Nat) : Nat := if lwRate b = some 2 then 16 else 32
/-- Bytes of a block's elements. -/
def blkElems (b : Nat) : Nat := blkK b * blkN b * elemBits (lwW b) / 8
/-- Does a block of the mode carry scales? -/
def blkScaled (b : Nat) : Bool := scaled (lwW b) && lwMode b ≠ 3
/-- Bytes of its scales. -/
def blkScales (b : Nat) : Nat := if !blkScaled b then 0 else if lwMode b = 2 then 256 else blkK b / 32 * blkN b
/-- Bytes of an N:M index record. -/
def recBytes (sp : Nat) : Nat := if sp = 0 then 0 else if sp ≤ 2 then 8 else 12
/-- Bytes of a block. -/
def blkBytes (b : Nat) : Nat := blkElems b + blkScales b + blkK b * recBytes (lwSparse b)

/-- The stored weight of row `r`, column `c`. -/
def blkW (b data r c : Nat) : Num := elemAt (lwW b) data (r * blkN b + c)
/-- The scale of K-block `j` (cell-row `j` in CELL mode), column `c`. -/
def blkScale (b data j c : Nat) : Num :=
  if blkScaled b then scaleVal (lwW b) (byteAt data (blkElems b + j * blkN b + c)) else .one
/-- The logical position of a stored weight (R219, R221). -/
def blkPos (b data r c : Nat) : Nat :=
  if lwSparse b = 0 then r
  else
    let (n, m) := nmOf (lwSparse b)
    let w := if m = 4 then 2 else 3
    let off := blkElems b + blkScales b + r * recBytes (lwSparse b)
    r / n * m + data / 256 ^ off / 2 ^ (w * c) % 2 ^ w

/-! ## The pass word (R147 to R149, R172 to R174) -/

/-- Rows of a pass. -/
def pwRows (b : Nat) : Nat := bits b 7 0 + 1
abbrev pwPitch (b : Nat) : Nat := bits b 39 24
abbrev pwCellPitch (b : Nat) : Nat := bits b 63 48
/-- The pass word breaks a field rule or a row limit. -/
def pwBad (split : Bool) (lw b : Nat) : Bool :=
  let cell := lwMode lw = 2
  bits b 47 40 ≠ 0 || bits b 23 20 ≠ 0 || (!cell && pwCellPitch b ≠ 0) || (!split && bits b 18 18 ≠ 0)
    || (bits b 19 19 = 1 && decide (lwMode lw ≥ 2)) || decide (split ≠ (lwMode lw = 1))
    || (if cell then bits b 15 8 ≠ 0 || decide (pwRows b > 32)
        else decide (bits b 15 8 + pwRows b > if split then 128 else 256))
/-- Logical elements of an A row: of one input position in SR mode. -/
def aLen (lw : Nat) : Nat :=
  match lwMode lw with
  | 3 => 64 / lwTaps lw
  | 2 => if lwRate lw = some 1 then 16 else 8
  | _ => let (n, m) := nmOf (lwSparse lw); blkK lw / n * m
/-- Bytes of a dense A row. -/
def aBytes (lw : Nat) : Nat := (aLen lw * elemBits (lwA lw) + 7) / 8
/-- Does A carry scales? -/
def aScaled (lw : Nat) : Bool := lwMode lw ≠ 3 && (lwSparse lw ≠ 0 || scaled (lwA lw))
/-- Scale bytes of one A row. -/
def aScales (lw : Nat) : Nat := if !aScaled lw then 0 else if lwMode lw = 2 ∨ lwSparse lw ≠ 0 then 1 else blkK lw / 32
/-- Input positions that a row of an SR pass reads (R174). -/
def srStride (lw : Nat) : Nat := bits lw 21 21 + 1
def srDil (lw : Nat) : Nat := bits lw 22 22 + 1
/-- Offsets of the A rows or input positions a pass reads. -/
def aOffsets (lw b : Nat) : List Nat :=
  match lwMode lw with
  | 3 => (List.range ((pwRows b - 1) * srStride lw + (lwTaps lw - 1) * srDil lw + 1)).map (· * pwPitch b)
  | 2 => (List.range 32).flatMap (fun c => (List.range (pwRows b)).map (fun m => c * pwCellPitch b + m * pwPitch b))
  | _ => (List.range (pwRows b)).map (· * pwPitch b)
/-- Do the addresses and pitches of a pass keep R144? -/
def passAddrOk (s : State) (g lw : Nat) (o : EOp) : Bool :=
  pwPitch o.b % 32 = 0 && pwCellPitch o.b % 32 = 0 && o.a % 32 = 0
    && (aOffsets lw o.b).all (fun x => engEaOk s g ((o.a + x) % 2 ^ 64) (aBytes lw) 1
      && (!aScaled lw || engEaOk s g ((o.d + x) % 2 ^ 64) (aScales lw) 1))

/-! ## Reading A (R148, R231) -/

/-- One A row: its elements, or the source that stops the pass; `none` elements for an SA-ZC row that is not entered. -/
inductive ARow where
  | elems (l : List Num)
  | skipped
  | stop (src : Nat)

/-- The elements of an SA-ZC record after its masks (R231). -/
def zcElems (c masks data n : Nat) : List Num :=
  ((List.range n).foldl (fun (r : List Num × Nat) i =>
    if bit masks i then (elemAt c data r.2 :: r.1, r.2 + 1) else (Num.zero :: r.1, r.2)) ([], 0)).1.reverse

/-- Read the A row at `ea`. -/
def readARow (s : State) (g lw b : Nat) (hits : List Line) (ea : Nat) : ARow :=
  let n := aLen lw
  let c := lwA lw
  if bits b 19 19 = 1 then
    let k := (n + 31) / 32 * 4
    let (m, p) := engNum s g hits ea k
    let ones := ((List.range n).filter (bit m)).length
    let len := (ones * elemBits c + 7) / 8
    if p then .stop aPoisonA
    else if (k + len + 31) / 32 * 32 > pwPitch b then .stop aSeq
    else
      let (d, p) := engNum s g hits (ea + k) len
      if p then .stop aPoisonA
      else if m = 0 ∧ bits b 16 16 = 1 then .skipped
      else .elems (zcElems c m d n)
  else
    let (d, p) := engNum s g hits ea (aBytes lw)
    if p then .stop aPoisonA else .elems ((List.range n).map (elemAt c d))

/-- The scales of the A row whose scale bytes start at `ea`. -/
def readAScales (s : State) (g lw : Nat) (hits : List Line) (ea : Nat) : Option (List Num) :=
  if !aScaled lw then some []
  else
    let (d, p) := engNum s g hits ea (aScales lw)
    let c := if lwSparse lw ≠ 0 then 5 else lwA lw
    if p then none else some ((List.range (aScales lw)).map (fun j => scaleVal c (byteAt d j)))

/-! ## The arithmetic of a row (R133 to R139, R172 to R175) -/

/-- Groups of products carried south: each exact group sum is added and rounded once to 24 bits (R136, R137). -/
def southward (p : Num) (groups : List (List Num)) : Num := groups.foldl (fun p l => (p.add (Num.sum l)).sig 24) p

/-- The sum of a column over two K-blocks with scales `s0`, `s1`: rescaled at row 32 by their quotient and at row 64 by
`s1`; a zero `s1` makes its block zero (R138, R210). -/
def twoBlocks (top bottom : List (List Num)) (s0 s1 : Num) : Num :=
  let p := southward .zero top
  if s0.isNan || s1.isNan then .nan
  else if s1.isZero then (p.mul s0).sig 24
  else ((southward (((p.mul s0).divWide s1).sig 24) bottom).mul s1).sig 24

/-- Split a list into groups of `k`. -/
def groupsOf (k n : Nat) (f : Nat → Num) : List (List Num) :=
  (List.range (n / k)).map (fun i => (List.range k).map (fun j => f (k * i + j)))

/-- A column result of a FULL or HALF pass. -/
def fullColumn (lw data : Nat) (a : List Num) (sa : List Num) (c : Nat) : Num :=
  let prod (r : Nat) : Num := ((a[blkPos lw data r c]?).getD .zero).mul (blkW lw data r c)
  let sp := lwSparse lw ≠ 0
  let sc (j : Nat) : Num := (blkScale lw data j c).mul (if sp then .one else (sa[j]?).getD .one)
  let fin (x : Num) : Num := if sp then x.mul ((sa[0]?).getD .one) else x
  let lanes (base n : Nat) : List (List Num) := groupsOf 8 n (fun r => prod (base + r))
  match lwMode lw, lwRate lw with
  | 1, some 1 => (((southward .zero (lanes 0 32)).mul (sc 0)).sig 24 |>.add (((southward .zero (lanes 32 32)).mul (sc 1)).sig 24)).sig 24
  | 1, _ => ((southward .zero (lanes 0 32)).mul (sc 0)).sig 24
  | _, some 2 => southward .zero ((groupsOf 4 32 prod).map (fun l => if lwW lw = 1 then cut64 l else l))
  | _, some 1 => ((fin (twoBlocks (lanes 0 32) (lanes 32 32) (sc 0) (sc 1))).add
      (fin (twoBlocks (lanes 64 32) (lanes 96 32) (sc 2) (sc 3)))).sig 24
  | _, _ => fin (twoBlocks (lanes 0 32) (lanes 32 32) (sc 0) (sc 1))

/-- A column result of an SR pass: `a pos ch` is channel `ch` of input position `pos` (R174). -/
def srColumn (lw data : Nat) (a : Nat → Nat → Num) (p c : Nat) : Num :=
  let ch := 64 / lwTaps lw
  southward .zero (groupsOf 8 64 (fun r => if r < lwTaps lw * ch then
    (a (p * srStride lw + r / ch * srDil lw) (r % ch)).mul (blkW lw data r c) else .zero))

/-- A result of cell `i`, `j`, column `n` (R172, R173). -/
def cellColumn (lw data i j : Nat) (a sa : List Num) (n : Nat) : Num :=
  let c := 8 * j + n
  let sub (base : Nat) : Num := (Num.sum ((List.range 8).map (fun k =>
    ((a[base / 64 * 8 + k]?).getD .zero).mul (blkW lw data (base + 8 * i + k) c)))).sig 24
  let s := (blkScale lw data i c).mul ((sa[0]?).getD .one)
  let p := if lwRate lw = some 1 then ((sub 0).add (sub 64)).sig 24 else sub 0
  (p.mul s).sig 24

/-! ## A pass (R155, R168) -/

/-- What one A row gives: results by accumulator place, a row not entered, or the source that stops the pass. -/
inductive RowOut where
  | vals (l : List (Nat × Num))
  | skipped
  | stop (src : Nat)

/-- The results of row `m` of a pass whose first absolute row is `base`. -/
def rowOut (s : State) (g lw data base : Nat) (o : EOp) (m : Nat) : RowOut :=
  let at_ (x : Nat) : Nat := (o.a + x) % 2 ^ 64
  let sAt (x : Nat) : Nat := (o.d + x) % 2 ^ 64
  match lwMode lw with
  | 3 =>
    let pos (x : Nat) : Nat × Bool := engNum s g o.hits (at_ (x * pwPitch o.b)) (aBytes lw)
    let need := (List.range (lwTaps lw)).map (fun t => m * srStride lw + t * srDil lw)
    if need.any (fun x => (pos x).2) then .stop aPoisonA
    else .vals ((List.range 32).map (fun c => ((base + m) * 32 + c, srColumn lw data (fun x ch => elemAt (lwA lw) (pos x).1 ch) m c)))
  | 2 =>
    let cells := (List.range 32).map (fun c =>
      let x := c * pwCellPitch o.b + m * pwPitch o.b
      (c, readARow s g lw o.b o.hits (at_ x), readAScales s g lw o.hits (sAt x)))
    let one (e : Nat × ARow × Option (List Num)) : Option (List (Nat × Num)) :=
      match e.2.1, e.2.2 with
      | .elems a, some sa => some ((List.range 8).map (fun n =>
          ((32 * (e.1 / 4) + m) * 32 + 8 * (e.1 % 4) + n, cellColumn lw data (e.1 / 4) (e.1 % 4) a sa n)))
      | _, _ => none
    if cells.all (fun e => (one e).isSome) then .vals (cells.flatMap (fun e => (one e).getD [])) else .stop aPoisonA
  | _ =>
    let x := m * pwPitch o.b
    match readARow s g lw o.b o.hits (at_ x), readAScales s g lw o.hits (sAt x) with
    | .stop n, _ => .stop n
    | .skipped, _ => .skipped
    | .elems _, none => .stop aPoisonA
    | .elems a, some sa => .vals ((List.range (blkN lw)).map (fun c => ((base + m) * 32 + c, fullColumn lw data a sa c)))

/-- The exception policy of R139. -/
def arrExc (s : State) (g : Nat) : Nat := fld s (mxuB g + R.MXU_PASS_CTRL) 2 1

/-- One result into its accumulator: converted to FP32, then written or added: the new pattern and the exceptions (R139). -/
def accumulate (exc : Nat) (add : Bool) (old : Nat) (x : Num) : Nat × Nat :=
  let a := policy32 exc x
  if !add then (a.1, b2n a.2)
  else
    let r := policy32 exc ((f32 old).add (f32 a.1))
    (r.1, b2n a.2 + b2n r.2)

/-- What a pass leaves: accumulators, rows entered, exceptions, and the source that stopped it with the row. -/
structure PassOut where
  acc : List (Nat × Nat)
  entered : Nat := 0
  excs : Nat := 0
  stop : Option (Nat × Nat) := none

/-- Enter row `m` of a pass. -/
def passRow (s : State) (g lw data base : Nat) (o : EOp) (r : PassOut) (m : Nat) : PassOut :=
  match r.stop with
  | some _ => r
  | none =>
    match rowOut s g lw data base o m with
    | .stop n => { r with stop := some (n, m) }
    | .skipped => r
    | .vals l =>
      let exc := arrExc s g
      let res := l.map (fun e => (e.1, accumulate exc (bits o.b 16 16 = 1) (SMap.get 0 e.1 r.acc) e.2))
      let n := res.foldl (fun n e => n + e.2.2) 0
      if n > 0 ∧ exc = 2 then { r with excs := r.excs + n, entered := r.entered + 1, stop := some (aExc, m) }
      else { r with acc := res.foldl (fun a e => SMap.set 0 e.1 e.2.1 a) r.acc, excs := r.excs + n, entered := r.entered + 1 }

/-- The first `n` rows of a pass. -/
def passRun (s : State) (g lw data base : Nat) (o : EOp) (n : Nat) : PassOut :=
  (List.range n).foldl (passRow s g lw data base o) { acc := (arrOf s g).acc }

/-- How much of a pass that stops at row `m` for want of good A data has been written: which rows is free, for rows still in
the array are discarded (R168, log 3). An exception stops the pass at its own row. -/
def stoppedRows (s : State) (src m : Nat) : Nat := if src = aExc then m else freeVal s % (m + 1)

/-- A pass ends: its results are written, or it aborts at the row that stops it. -/
def passEnd (g : Nat) (p : Pass) (b : Blk) : Upd := read fun s =>
  let split := splitOn s g
  let x := arrOf s g
  let lw := b.op.b
  let base := unitBase split p.unit + bits p.op.b 15 8
  let r := passRun s g lw b.data base p.op (pwRows p.op.b)
  let cnt (r : PassOut) : Upd := seqs [bump (mxuB g + R.MXU_CNT_ROWS) r.entered, bump (mxuB g + R.MXU_CNT_EXC) r.excs]
  let dead := each (aOffsets lw p.op.b) (fun o => engDead g ((p.op.a + o) % 2 ^ 64) (aBytes lw))
  match r.stop with
  | none =>
    let rows := p.rows x split
    seqs [cnt r, setArr g { x with acc := r.acc, passes := x.passes.filter (· ≠ p),
                                   valid := if bits p.op.b 16 16 = 1 then x.valid else (x.valid ++ rows).eraseDups },
      engDone g p.op]
  | some (src, m) =>
    let q := passRun s g lw b.data base p.op (stoppedRows s src m)
    seqs [act .drawn, cnt { r with entered := q.entered + b2n (decide (src = aExc)) }, dead, setArr g { x with acc := q.acc },
      abortPass g p src, mxuFault g src]

/-- The operands' memory would answer RETRY_LATER. -/
def passRetries (s : State) (lw : Nat) (o : EOp) : Bool :=
  (aOffsets lw o.b).any (fun x => engRetries s ((o.a + x) % 2 ^ 64) (aBytes lw)
    || (aScaled lw && engRetries s ((o.d + x) % 2 ^ 64) (aScales lw)))

/-- Drop blocks that no pass uses, that a later pass has replaced. -/
def tidyBlocks (g : Nat) : Upd := read fun s =>
  let x := arrOf s g
  setArr g { x with blks := x.blks.filter (fun b => !b.bound || x.last0 = some b.id || x.last1 = some b.id || x.passes.any (·.blk = b.id)) }

/-! ## Starting (R153, R154) -/

/-- Rows of an ACC instruction (R150). -/
def accRows (b : Nat) : List Nat := (List.range (bits b 7 0 + 1)).map (· + bits b 15 8)
/-- Bytes of one memory row of ACCST or ACCLD. -/
def accRowBytes (c : Nat) : Nat := 32 * elemBits c / 8
/-- The store word breaks a field rule, or its rows span the banks of a split array (R150, R152). -/
def swBad (split : Bool) (op b : Nat) : Bool :=
  let c := bits b 19 16
  bits b 63 40 ≠ 0 || bits b 23 21 ≠ 0 || decide (bits b 15 8 + bits b 7 0 > 255)
    || (split && bits b 15 8 / 128 ≠ (bits b 15 8 + bits b 7 0) / 128)
    || (match op with
      | 0x32 => c ≠ 0
      | 0x33 => !(c = 0 || c = 1)
      | _ => !(c = 0 || c = 1 || c = 2 || c = 3 || c = 4 || c = 5 || c = 9))
/-- Do the row addresses of ACCST or ACCLD keep R144? -/
def swAddrOk (s : State) (g : Nat) (o : EOp) : Bool :=
  let c := bits o.b 19 16
  let pitch := bits o.b 39 24
  let n := bits o.b 7 0 + 1
  o.op = 0x32 || (pitch % 32 = 0 && decide (pitch ≥ accRowBytes c)
    && (List.range n).all (fun i => engEaOk s g ((o.a + i * pitch) % 2 ^ 64) (accRowBytes c) 1) && o.a % 32 = 0
    && (!(o.op = 0x34 && scaled c) || engEaOk s g o.d n 1))

/-- Take an instruction out of a queue. -/
def arrTake (x : Arr) (u i : Nat) : Arr := if u = 0 then { x with q0 := x.q0.eraseIdx i } else { x with q1 := x.q1.eraseIdx i }

/-- A WLD is handed to the load path: a bad one marks its block bad at once (R153, R169). -/
def startWld (g u i : Nat) (o : EOp) : Upd := read fun s =>
  let x := arrOf s g
  let ok := lwOk (splitOn s g) o.b
  let addr := o.a % 32 = 0 && engEaOk s g o.a (blkBytes o.b) 1
  let b : Blk := { id := x.nextBlk, unit := u, op := { o with time := s.now, hits := engHits s g o.a (blkBytes o.b) } }
  let put (b : Blk) : Upd := setArr g { arrTake x u i with blks := x.blks ++ [b], nextBlk := x.nextBlk + 1 }
  if !ok then seqs [put { b with ready := true, bad := some aSeq, op := { o with hits := [] } }, engDone g o, mxuFault g aSeq]
  else if !addr then seqs [put { b with ready := true, bad := some aAddr, op := { o with hits := [] } }, engDone g o, mxuFault g aAddr]
  else seqs [put b, engTouch g o.a (blkBytes o.b)]

/-- The block a PASS uses: the oldest one not yet bound for nb = 1, else that of the half's previous pass (R147, R153). -/
def passBlock (x : Arr) (u b : Nat) : Option Blk :=
  if bits b 17 17 = 1 then x.blks.find? (fun k => k.unit = u && !k.bound)
  else (if u = 0 then x.last0 else x.last1).bind x.blk

/-- A PASS starts (R153, R156): it takes its block and the next tag, or aborts at once. -/
def startPass (g u i : Nat) (o : EOp) : Upd := read fun s =>
  let x := arrOf s g
  let split := splitOn s g
  let taken := arrTake x u i
  let fail (src : Nat) : Upd := seqs [setArr g taken, abortStart g u o src, mxuFault g src]
  match passBlock x u o.b with
  | none => fail aSeq
  | some b =>
    let tag := if u = 0 then x.tag0 else x.tag1
    let lw := b.op.b
    let blks := x.blks.map (fun k => if k.id = b.id then { k with bound := true } else k)
    let y := if u = 0 then { taken with blks := blks, last0 := some b.id, tag0 := (tag + 1) % 4 }
             else { taken with blks := blks, last1 := some b.id, tag1 := (tag + 1) % 4 }
    let hits := ((aOffsets lw o.b).flatMap (fun x => engHits s g ((o.a + x) % 2 ^ 64) (aBytes lw)
      ++ if aScaled lw then engHits s g ((o.d + x) % 2 ^ 64) (aScales lw) else [])).eraseDups
    let p : Pass := { unit := u, tag := tag, op := { o with time := s.now, hits := hits }, blk := b.id }
    let begin_ (p : Pass) : Upd := seqs [setArr g { y with passes := x.passes ++ [p] }, bump (mxuB g + R.MXU_CNT_PASS) 1]
    let stop (src : Nat) : Upd := seqs [begin_ { p with op := o }, abortPass g { p with op := o } src, mxuFault g src]
    match b.bad with
    | some src => stop src
    | none =>
      if pwBad split lw o.b then stop aSeq
      else if !passAddrOk s g lw o then stop aAddr
      else seqs [begin_ p, each (aOffsets lw o.b) (fun x => engTouch g ((o.a + x) % 2 ^ 64) (aBytes lw)), tidyBlocks g]

/-- An ACC instruction starts, or is refused: it completes with no row moved (R182). -/
def startAcc (g u i : Nat) (o : EOp) : Upd := read fun s =>
  let x := arrOf s g
  let fail (src : Nat) : Upd := seqs [setArr g (arrTake x u i), engDone g o, mxuFault g src]
  if swBad (splitOn s g) o.op o.b then fail aSeq
  else if !swAddrOk s g o then fail aAddr
  else
    let hits := if o.op = 0x33 then (List.range (bits o.b 7 0 + 1)).flatMap (fun k =>
      engHits s g ((o.a + k * bits o.b 39 24) % 2 ^ 64) (accRowBytes (bits o.b 19 16))) else []
    seqs [setArr g { arrTake x u i with accs := x.accs ++ [(u, { o with time := s.now, hits := hits.eraseDups })] },
      when (o.op = 0x33) (each (List.range (bits o.b 7 0 + 1)) (fun k =>
        engTouch g ((o.a + k * bits o.b 39 24) % 2 ^ 64) (accRowBytes (bits o.b 19 16))))]

/-- May instruction `i` of the queue of half `u` start? -/
def mayStart (s : State) (g u i : Nat) (o : EOp) : Bool :=
  let x := arrOf s g
  let before := (x.queue u).take i
  let st := pgState s ⟨.MXU, g⟩
  let run := st = stRUN || st = stDRAIN
  let mine := x.passes.filter (·.unit = u)
  if o.op = 0x30 then (run || st = stHALT) && before.all (·.op ≠ 0x30) && decide (x.staged.length < 2)
  else run && before.all (·.op = 0x30) && (
    if o.op = 0x31 then decide (mine.length < 4) && !(bits o.b 17 17 = 1 && (passBlock x u o.b).isNone && !before.isEmpty)
    else mine.all (fun p => (p.rows x (splitOn s g)).all (fun r => !(accRows o.b).contains r)))

/-- A queued array instruction starts. -/
def arrStart (g u i : Nat) : Upd := read fun s =>
  onSome ((arrOf s g).queue u)[i]? fun o =>
    when (mayStart s g u i o && !attClaims s g 1 && !clockLost s ⟨.MXU, g⟩)
      (seqs [if o.op = 0x30 then startWld g u i o else if o.op = 0x31 then startPass g u i o else startAcc g u i o, wakeMxu g])

/-- ARR_INSTRUCTION_START: instruction `pos` of the queue of half `half` (0 north, 1 south or full). -/
def execArrInstructionStart (core half pos : Nat) (s : State) : Host.Outcome State Fault Refusal :=
  done (arrStart core (half % 2) pos) s

/-! ## Completing (R155) -/

/-- The oldest block being fetched is wholly written, once no other block of its half waits in the shadow registers
(R161, R162); poison in its source marks it bad (R169). -/
def wldDone (g : Nat) : Upd := read fun s =>
  let x := arrOf s g
  onSome x.staged.head? fun b =>
    let n := blkBytes b.op.b
    let (d, p) := engNum s g b.op.hits b.op.a n
    let shadow := x.blks.any (fun k => k.unit = b.unit && k.ready && !k.bound && k.bad.isNone)
    when (!shadow && !engRetries s b.op.a n && !clockLost s ⟨.MXU, g⟩)
      (seqs [engDead g b.op.a n,
        setArr g { x with blks := x.blks.map (fun k => if k.id = b.id then
          { b with data := d, ready := true, bad := if p then some aPoisonW else none, op := { b.op with hits := [] } } else k) },
        bump (mxuB g + R.MXU_CNT_WLD) 1, engDone g b.op])

/-- WLD_COMPLETE. -/
def execWldComplete (core : Nat) (s : State) : Host.Outcome State Fault Refusal := done (seqs [wldDone core, attGo core]) s

/-- The oldest pass in flight of a half writes its last result, or aborts. -/
def passDone (g u : Nat) : Upd := read fun s =>
  let x := arrOf s g
  let st := pgState s ⟨.MXU, g⟩
  onSome (x.passes.find? (·.unit = u)) fun p => onSome (x.blk p.blk) fun b =>
    let busy := x.accs.any (fun e => e.1 = u && (accRows e.2.b).any ((p.rows x (splitOn s g)).contains ·))
    when (b.ready && !busy && (st = stRUN || st = stDRAIN || st = stHALT || st = stFAULT) && !clockLost s ⟨.MXU, g⟩)
      (match b.bad with
        | some src => seqs [abortPass g p src, mxuFault g src]
        | none => when (!passRetries s b.op.b p.op) (seqs [passEnd g p b, tidyBlocks g]))

/-- PASS_COMPLETE. -/
def execPassComplete (core half : Nat) (s : State) : Host.Outcome State Fault Refusal := done (seqs [passDone core (half % 2), attGo core]) s

/-! ### ACC instructions (R142, R150, R151) -/

/-- An accumulator value. -/
def accVal (x : Arr) (r c : Nat) : Num := f32 (SMap.get 0 (r * 32 + c) x.acc)
/-- The bytes of an accumulator row in a format, and its scale byte. -/
def accRowOut (x : Arr) (c r : Nat) : List Byte × Nat :=
  let vs := (List.range 32).map (accVal x r)
  let sc := mxScale c vs
  let es := vs.map (fun v => if scaled c then mxElem c sc v else elemEnc c v)
  (toBytes (accRowBytes c) (packBits (elemBits c) es), sc)

/-- ACCST of row `i`: a row without its mark is written as poison; its scale byte is free (R142, log 3). -/
def accStore (g : Nat) (o : EOp) (i : Nat) : Upd := read fun s =>
  let x := arrOf s g
  let r := bits o.b 15 8 + i
  let c := bits o.b 19 16
  let ea := (o.a + i * bits o.b 39 24) % 2 ^ 64
  let out := accRowOut x c r
  let sc (v : Nat) : Upd := when (scaled c) (engWrite g ((o.d + i) % 2 ^ 64) (toBytes 1 v))
  seqs [if x.valid.contains r then seqs [engWrite g ea out.1, sc out.2]
    else seqs [engPoison g ea (accRowBytes c), sc (freeVal s % 256), when (scaled c) (act .drawn)],
    when (bits o.b 20 20 = 1) (setArr g {
      x with acc := SMap.dropIf (fun k => k / 32 = r) x.acc, valid := (x.valid.filter (· ≠ r)) ++ [r] })]

/-- ACCLD of row `i`; poison in the source makes the row read as poison, without its mark (R182). -/
def accLoad (g : Nat) (o : EOp) (i : Nat) : Upd := read fun s =>
  let x := arrOf s g
  let r := bits o.b 15 8 + i
  let c := bits o.b 19 16
  let ea := (o.a + i * bits o.b 39 24) % 2 ^ 64
  let (d, p) := engNum s g o.hits ea (accRowBytes c)
  if p then seqs [engDead g ea (accRowBytes c), setArr g (x.invalid [r])]
  else setArr g { x with acc := (List.range 32).foldl (fun a k => SMap.set 0 (r * 32 + k) (toF32 (elemAt c d k)) a) x.acc,
                         valid := (x.valid.filter (· ≠ r)) ++ [r] }

/-- ACCZ of row `i`. -/
def accZero (g : Nat) (o : EOp) (i : Nat) : Upd := read fun s =>
  let x := arrOf s g
  let r := bits o.b 15 8 + i
  setArr g { x with acc := SMap.dropIf (fun k => k / 32 = r) x.acc, valid := (x.valid.filter (· ≠ r)) ++ [r] }

/-- Does an ACCLD read poison? -/
def accPoison (s : State) (g : Nat) (o : EOp) : Bool :=
  o.op = 0x33 && (List.range (bits o.b 7 0 + 1)).any (fun i =>
    (engNum s g o.hits ((o.a + i * bits o.b 39 24) % 2 ^ 64) (accRowBytes (bits o.b 19 16))).2)
/-- Would a row's memory answer RETRY_LATER? -/
def accRetries (s : State) (o : EOp) : Bool :=
  o.op ≠ 0x32 && (List.range (bits o.b 7 0 + 1)).any (fun i =>
    engRetries s ((o.a + i * bits o.b 39 24) % 2 ^ 64) (accRowBytes (bits o.b 19 16)))

/-- The oldest ACC instruction in progress of a half completes. -/
def accDone (g u : Nat) : Upd := read fun s =>
  let x := arrOf s g
  let st := pgState s ⟨.MXU, g⟩
  onSome (x.accs.find? (·.1 = u)) fun e =>
    when (!accRetries s e.2 && (st = stRUN || st = stDRAIN || st = stHALT || st = stFAULT) && !clockLost s ⟨.MXU, g⟩)
      (seqs [each (List.range (bits e.2.b 7 0 + 1)) (fun i =>
          if e.2.op = 0x32 then accZero g e.2 i else if e.2.op = 0x33 then accLoad g e.2 i else accStore g e.2 i),
        read fun t => setArr g { arrOf t g with accs := (arrOf t g).accs.filter (· ≠ e) },
        engDone g e.2, when (accPoison s g e.2) (mxuFault g aPoisonA)])

/-- ACC_INSTRUCTION_COMPLETE. -/
def execAccInstructionComplete (core half : Nat) (s : State) : Host.Outcome State Fault Refusal :=
  done (seqs [accDone core (half % 2), attGo core]) s

/-! ## Timeouts (R159, R170) -/

/-- MXU_FEED_TIMEOUT in ns. -/
def feedLimit (s : State) (g : Nat) : Nat := fld s (mxuB g + R.MXU_FEED_TIMEOUT) 15 0 * 1000

/-- The feeder of a half has waited for A data for MXU_FEED_TIMEOUT: the pass it feeds, the newest, aborts (R159). -/
def feedExpiry (g u : Nat) : Upd := read fun s =>
  let x := arrOf s g
  onSome (x.passes.filter (·.unit = u)).getLast? fun p =>
    when (s.now ≥ p.op.time + feedLimit s g && (pgState s ⟨.MXU, g⟩ = stRUN || pgState s ⟨.MXU, g⟩ = stDRAIN))
      (seqs [abortPass g p aFeed, mxuFault g aFeed])

/-- MXU_FEED_TIMEOUT_EXPIRY. -/
def execMxuFeedTimeoutExpiry (core half : Nat) (s : State) : Host.Outcome State Fault Refusal :=
  done (seqs [feedExpiry core (half % 2), attGo core]) s

/-- A staging fetch has taken longer than MXU_FEED_TIMEOUT: every pass in flight aborts in both halves, and both staging
entries are discarded (R170, R182). -/
def stagingExpiry (g : Nat) : Upd := read fun s =>
  let x := arrOf s g
  onSome x.staged.head? fun b => when (s.now ≥ b.op.time + feedLimit s g)
    (seqs [each x.passes (fun p => abortPass g p aLoad),
      read fun t => setArr g { arrOf t g with blks := (arrOf t g).blks.filter (·.ready) },
      engDoneAll g (x.staged.map (·.op)), mxuFault g aLoad])

/-- STAGING_FETCH_TIMEOUT. -/
def execStagingFetchTimeout (core : Nat) (s : State) : Host.Outcome State Fault Refusal := done (seqs [stagingExpiry core, attGo core]) s

/-! ## Commands of the MXU page (R181) -/

/-- ARR_HALF_RESET. -/
def execArrHalfReset (o : Origin) (core arg : Nat) (s : State) : Host.Outcome State Fault Refusal :=
  done (command o (Page.core .MXU core / 0x1000) 0x10 arg) s
/-- ARR_CLEAR_COUNTS. -/
def execArrClearCounts (o : Origin) (core arg : Nat) (s : State) : Host.Outcome State Fault Refusal :=
  done (command o (Page.core .MXU core / 0x1000) 0x11 arg) s

end Sys2Proof.Machine
end

