-- ==== Sys2Proof/Machine/Attention.lean ====
section
/-! DEFINITION. Sys2Proof/Machine/Attention.lean: the attention, KV and prefix instructions, their timeouts and the commands of their
pages (R338 to R382). -/
namespace Sys2Proof.Machine
open Sys2Proof

/-! ## The instructions (R372) -/

/-- rd is written. -/
def shAttRd : Shape := ⟨fun _ => false, fun w => engReads w false⟩
/-- rd is s0. -/
def shAtt : Shape := ⟨fun w => f1 w ≠ 0, fun w => engReads w false⟩
/-- PFXRELEASE: ra is s0. -/
def shAttNoRa : Shape := ⟨fun w => f2 w ≠ 0, fun w => engReads w false⟩

/-- The thread's memory operations, which the instruction follows. -/
def slotsOf (t : Thread) : List (Nat × Nat) := t.slots.map (fun m => (m.pc, m.time))
/-- Issue an instruction to the score unit. -/
def attIssue (g th op w : Nat) (sh : Shape) (wr : Bool) : Upd :=
  issue g th w sh (fun t => toEngine g th op w 3 false wr (fun s => attRoom s g)
    (fun o => seqs [modAtt g (fun x => { x with q := x.q ++ [{ o with after := slotsOf t }] }), attGo g]) t)
/-- Issue an instruction to the KV port. -/
def kvIssue (g th op w : Nat) (sh : Shape) : Upd :=
  issue g th w sh (fun t => toEngine g th op w 7 false true (fun s => kvRoom s g op)
    (fun o => seqs [modAtt g (fun x => { x with kv := x.kv ++ [{ o with after := slotsOf t }] }), kvGo g]) t)

/-- ATQ. -/
def execAtq (core th w : Nat) (s : State) : Host.Outcome State Fault Refusal := done (attIssue core th 0x60 w shAtt false) s
/-- ATBLK. -/
def execAtblk (core th w : Nat) (s : State) : Host.Outcome State Fault Refusal := done (attIssue core th 0x61 w shAttRd true) s
/-- ATEND. -/
def execAtend (core th w : Nat) (s : State) : Host.Outcome State Fault Refusal := done (attIssue core th 0x62 w shAtt false) s
/-- ATMERGE. -/
def execAtmerge (core th w : Nat) (s : State) : Host.Outcome State Fault Refusal := done (attIssue core th 0x63 w shAtt false) s
/-- KVAPPEND. -/
def execKvappend (core th w : Nat) (s : State) : Host.Outcome State Fault Refusal := done (kvIssue core th 0x64 w shAttRd) s
/-- KVCOMMIT. -/
def execKvcommit (core th w : Nat) (s : State) : Host.Outcome State Fault Refusal := done (kvIssue core th 0x65 w shAttRd) s
/-- KVROLLBACK. -/
def execKvrollback (core th w : Nat) (s : State) : Host.Outcome State Fault Refusal := done (kvIssue core th 0x66 w shAttRd) s
/-- KVREF. -/
def execKvref (core th w : Nat) (s : State) : Host.Outcome State Fault Refusal := done (kvIssue core th 0x67 w shAttRd) s
/-- KVRELEASE. -/
def execKvrelease (core th w : Nat) (s : State) : Host.Outcome State Fault Refusal := done (kvIssue core th 0x68 w shAttRd) s
/-- KVFORK. -/
def execKvfork (core th w : Nat) (s : State) : Host.Outcome State Fault Refusal := done (kvIssue core th 0x69 w shAttRd) s
/-- PFXFIND. -/
def execPfxfind (core th w : Nat) (s : State) : Host.Outcome State Fault Refusal := done (kvIssue core th 0x6A w shAttRd) s
/-- PFXINSERT. -/
def execPfxinsert (core th w : Nat) (s : State) : Host.Outcome State Fault Refusal := done (kvIssue core th 0x6B w shAttRd) s
/-- PFXRELEASE. -/
def execPfxrelease (core th w : Nat) (s : State) : Host.Outcome State Fault Refusal := done (kvIssue core th 0x6C w shAttNoRa) s

/-! ## What happens by itself (R371, R379, R381) -/

/-- ATT_READ_TIMEOUT. -/
def execAttReadTimeout (core : Nat) (s : State) : Host.Outcome State Fault Refusal := done (attExpiry core) s
/-- KVM_READ_TIMEOUT: of the operation at the head of a core's KV port. -/
def execKvmReadTimeout (core : Nat) (s : State) : Host.Outcome State Fault Refusal := done (kvExpiry core false) s
/-- PFX_READ_TIMEOUT. -/
def execPfxReadTimeout (core : Nat) (s : State) : Host.Outcome State Fault Refusal := done (kvExpiry core true) s

/-- While free nodes are below the watermark, the least recently used evictable node is evicted. -/
def pfxEvict (site : Nat) : Upd := read fun s =>
  let st := pgState s (pfxR site)
  when ((st = stRUN || st = stDRAIN) && !clockLost s (pfxR site)) (evictWhile site (fun t => decide (rd t (pfxB site + R.PFX_FREE) < fld t (pfxB site + R.PFX_LOW_WM) 23 0)) 1)
/-- PFX_EVICT. -/
def execPfxEvict (site : Nat) (s : State) : Host.Outcome State Fault Refusal := done (pfxEvict site) s

/-! ## Commands (R378, R380) -/

/-- ATT_RESET. -/
def execAttReset (o : Origin) (core arg : Nat) (s : State) : Host.Outcome State Fault Refusal :=
  done (command o (Page.core .MXU core / 0x1000) 0x30 arg) s
/-- ATT_CLEAR_COUNTS. -/
def execAttClearCounts (o : Origin) (core arg : Nat) (s : State) : Host.Outcome State Fault Refusal :=
  done (command o (Page.core .MXU core / 0x1000) 0x31 arg) s
/-- KVM_BUILD. -/
def execKvmBuild (o : Origin) (site arg : Nat) (s : State) : Host.Outcome State Fault Refusal := done (command o (Page.tile .KVM site / 0x1000) 0x10 arg) s
/-- KVM_CLEAR_COUNTS. -/
def execKvmClearCounts (o : Origin) (site arg : Nat) (s : State) : Host.Outcome State Fault Refusal := done (command o (Page.tile .KVM site / 0x1000) 0x11 arg) s
/-- PFX_BUILD. -/
def execPfxBuild (o : Origin) (site arg : Nat) (s : State) : Host.Outcome State Fault Refusal := done (command o (Page.tile .PFX site / 0x1000) 0x10 arg) s
/-- PFX_FLUSH. -/
def execPfxFlush (o : Origin) (site arg : Nat) (s : State) : Host.Outcome State Fault Refusal := done (command o (Page.tile .PFX site / 0x1000) 0x11 arg) s
/-- PFX_CLEAR_COUNTS. -/
def execPfxClearCounts (o : Origin) (site arg : Nat) (s : State) : Host.Outcome State Fault Refusal := done (command o (Page.tile .PFX site / 0x1000) 0x12 arg) s
/-- PFX_KEY_WRITE: word `n` of the key. -/
def execPfxKeyWrite (o : Origin) (site n val : Nat) (s : State) : Host.Outcome State Fault Refusal := done (busWrite o (pfxB site + R.PFX_KEY (n % 4)) 4 val) s

end Sys2Proof.Machine
end

