-- ==== Sys2Proof/Machine/Slices.lean ====
section
/-! DEFINITION. Sys2Proof/Machine/Slices.lean: the commands of the memory slices: requests and their scheduling, throttle,
refresh, retraining, rate change and lost sidebands (R266 to R301). -/
namespace Sys2Proof.Machine
open Sys2Proof

/-! ## Requests (R273, R275) -/

/-- The class of a request by its source (R275). `src`: 0 LD, PREF and COPY, 1 ST and FILL, 2 atomics, 3 the array, 4 the MV
path, 5 score units, 6 sap units, 7 the host and bough neighbours, 8 dispatch units, 9 trunk firmware, others prefetches
and the scrubber. -/
def reqClass (s : State) (g src : Nat) (wr : Bool) : Nat :=
  let m := rd s (slcB g + R.SLC_CLASS_MAP)
  match src with
  | 0 => if wr then 2 else bits m 1 0
  | 1 => 2
  | 2 => 1
  | 3 => if wr then 2 else bits m 3 2
  | 4 => fld s (Page.core .MXU g + R.MXU_MV_CTRL) 0 0
  | 5 => if wr then 2 else bits m 5 4
  | 6 => bits m 7 6
  | 7 => if wr then 2 else bits m 9 8
  | 8 => if wr then 2 else bits m 11 10
  | 9 => if wr then 2 else 1
  | _ => 3

/-- A request reaches its channel's queue of 128; a slice that takes no request completes it as a dead access. -/
def request (o : Origin) (g off n src : Nat) (wr : Bool) (val : Nat) (e1 e2 : List (Nat × Nat)) : Upd := read fun s =>
  let k := chanOf off
  let c := chanAt s g k
  let st := pgState s (slcR g)
  if st = stOFF ∨ st = stFAULT ∨ st = stRETIRED ∨ chState s g k = 6 then deadDpa (dpaOf g off) (orgWord o) (!wr)
  else
    let r : Req := { cls := reqClass s g src wr, off := off, n := n, wr := wr, add := src = 2, data := val, org := orgWord o, time := s.now,
                     e1 := e1, e2 := e2 }
    when (c.queue.length < 128) (setChan g k { c with queue := c.queue ++ [{ r with left := r.cost }] })

/-- SLICE_REQUEST. -/
def execSliceRequest (o : Origin) (core so n src : Nat) (wr : Bool) (dat : Nat) (e1 e2 : List (Nat × Nat)) (s : State) :
    Host.Outcome State Fault Refusal := done (request o core so n src wr dat e1 e2) s

/-- DEAD_DPA_ACCESS. -/
def execDeadDpaAccess (o : Origin) (dpa : Nat) (isRead : Bool) (s : State) : Host.Outcome State Fault Refusal :=
  done (read fun s => when (decide (reach s dpa = .dead)) (deadDpa dpa (orgWord o) isRead)) s

/-- A counting window of 1 ms closes (R272). -/
def deadWindow (site : Nat) : Upd := read fun s =>
  onSome (SMap.find site s.deadWin) fun w => when (s.now ≥ w.opened + 1000000) (
    if w.count = 0 then act (.deadWin site none)
    else seqs [deadRecord holdFull w.dpa w.org w.isRead w.count, act (.deadWin site (some { opened := s.now }))])

/-- SLC_DEAD_DPA_WINDOW. -/
def execSlcDeadDpaWindow (site : Nat) (s : State) : Host.Outcome State Fault Refusal := done (deadWindow site) s

/-! ## The scheduler (R276 to R282) -/

/-- Where the issuing of one window stands. -/
structure Slots where
  queue : List Req
  served : List Req := []
  used : Nat := 0
  used0 : Nat := 0
  cls : List Nat := [0, 0, 0, 0]
  aged : Nat := 0

/-- Requests of a queue that may issue: those with no earlier request to the same granule, and no grant on another row of their
bank (R273, R313). -/
def mayGo (free : Req → Bool) (q : List Req) : List (Nat × Req) :=
  ((List.range q.length).zip q).filter (fun x => (q.take x.1).all (fun y => y.off / 256 ≠ x.2.off / 256) && free x.2)
/-- Does the channel's sap unit hold the bank of a request open at another row? (R313) -/
def sapHolds (s : State) (g k off : Nat) : Bool :=
  (unitOf s g k).banks.contains (bankOf off) && (chanAt s g k).rows.any (fun r => r.1 = bankOf off && r.2.1 ≠ rowOf off)
/-- The request that takes the next slot (R277). -/
def nextReq (free : Req → Bool) (q : List Req) (used0 share : Nat) : Option (Nat × Req) :=
  let l := mayGo free q
  let of (p : Req → Bool) : Option (Nat × Req) := l.find? (fun x => p x.2)
  let others := (of (fun r => r.cls ≠ 0 && r.aged)).or ((of (fun r => r.cls = 1)).or ((of (fun r => r.cls = 2)).or (of (fun r => r.cls = 3))))
  if used0 < share then (of (fun r => r.cls = 0)).or others else others.or (of (fun r => r.cls = 0))
/-- Fill slots until the allowance `a` is used or nothing may issue. -/
def fillSlots (free : Req → Bool) (a share : Nat) : Nat → Slots → Slots
  | 0, x => x
  | fuel + 1, x =>
    if x.used ≥ a then x
    else match nextReq free x.queue x.used0 share with
      | none => x
      | some (i, r) =>
        let r' := { r with left := r.left - 1 }
        let fin := r'.left = 0
        fillSlots free a share fuel { x with
          queue := if fin then x.queue.eraseIdx i else x.queue.set i r'
          served := if fin then x.served ++ [r] else x.served
          used := x.used + 1
          used0 := if r.cls = 0 then x.used0 + 1 else x.used0
          cls := x.cls.set r.cls ((x.cls[r.cls]?).getD 0 + 1)
          aged := if fin && r.aged then x.aged + 1 else x.aged }

/-- The allowance of 320 slots at temperature T, in 0.25 °C (R281). -/
def allowOf (band : Nat) (t : Int) : Nat :=
  if band = 2 then 80 else if band = 1 then (320 - 8 * (t - 360)).toNat else 320
/-- The band of T, the heavy band kept until it is released (R281, R282). -/
def bandOf (cur : Nat) (t : Int) : Nat := if cur = 2 ∨ t ≥ 380 then 2 else if t ≥ 360 then 1 else 0

/-- The throttle takes a band (R282). -/
def setBand (g band : Nat) (t : Int) : Upd := read fun s =>
  let o := slcB g + R.SLC_THROTTLE
  let old := fld s o 15 14
  let a := allowOf band t
  seqs [setReg o (wrap 16 t * 2 ^ 16 + band * 2 ^ 14 + a),
    when (old ≠ band) (evt (slcR g) 0 0x0401 0 (payload [(24, 1, old), (25, 1, band), (26, 2, wrap 16 t), (28, 2, a)]))]

/-- One channel's slots of a window, those its sap unit took included (R276 to R278, R312). -/
def chanWindow (g k a : Nat) : Upd := read fun s =>
  let c := chanAt s g k
  let a' := if fld s (slcB g + R.CH_STATUS k) 25 25 = 1 then a else a * 240 / 320
  let share := 7 * a' / 10
  let sap0 := if fld s (slcB g + R.SLC_CLASS_MAP) 7 6 = 0 then c.sap else 0
  when (chServes s g k && (!c.queue.isEmpty || decide (0 < c.sap))) (
    let x := fillSlots (fun r => !sapHolds s g k r.off) a' share a' { queue := c.queue, used := c.sap, used0 := sap0 }
    seqs [setChan g k { c with queue := x.queue, sap := 0 },
      each (List.range 4) (fun i => bump (slcB g + R.SLC_CNT_CLS0 + 4 * i) ((x.cls[i]?).getD 0)),
      bump (slcB g + R.SLC_CNT_AGED) x.aged,
      when (x.used ≥ a' && !x.queue.isEmpty) (bump (slcB g + R.SLC_CNT_THR_WIN) 1),
      when (x.used0 ≥ share && x.queue.any (·.cls ≠ 0)) (bump (slcB g + R.SLC_CNT_CAP_WIN) 1),
      each x.served (serveReq g k)])

/-- The forced refreshes that suspended sap units waited for are issued, and the units run again (R316). -/
def refreshIssued (g : Nat) : Upd := read fun s =>
  when ((List.range 8).any (fun k => (unitOf s g k).state = 2 && (unitOf s g k).susp)) (seqs [
    each (List.range 8) (fun k => read fun t => when ((unitOf t g k).state = 2 && (unitOf t g k).susp) (modUnit g k (fun u => { u with susp := false }))),
    sapWake g])

/-- A window of 800 ns: T, the allowance, and the slots of every channel. -/
def window (g : Nat) : Upd := read fun s =>
  let t := stackT s g
  let st := pgState s (slcR g)
  let x := slcOf s g
  let band := bandOf (fld s (slcB g + R.SLC_THROTTLE) 15 14) t
  if st = stOFF ∨ st = stRETIRED then skip
  else seqs [act (.slc g { x with cool := if t ≥ 376 then none else some (x.cool.getD s.now) }),
    setBand g band t, refreshIssued g,
    if st = stFAULT then dropQueues g else when (st = stRUN) (each (List.range 8) (fun k => chanWindow g k (allowOf band t)))]

/-- SCHEDULER_WINDOW. -/
def execSchedulerWindow (core : Nat) (s : State) : Host.Outcome State Fault Refusal := done (window core) s

/-- Requests that have waited SLC_AGE_LIMIT become aged (R277). -/
def ageRequests (g k : Nat) : Upd := read fun s =>
  let limit := 100 * fld s (slcB g + R.SLC_AGE_LIMIT) 7 0
  modChan g k (fun c => { c with queue := c.queue.map (fun r => if s.now ≥ r.time + limit then { r with aged := true } else r) })

/-- REQUEST_AGED. -/
def execRequestAged (core chan : Nat) (s : State) : Host.Outcome State Fault Refusal := done (ageRequests core chan) s

/-- A row with no access for 200 ns is closed (R279). -/
def closeRow (g k bank : Nat) : Upd := read fun s =>
  modChan g k (fun c => { c with rows := c.rows.filter (fun r => !(r.1 = bank && s.now ≥ r.2.2 + 200)) })

/-- ROW_CLOSE_TIMEOUT. -/
def execRowCloseTimeout (core chan bank : Nat) (s : State) : Host.Outcome State Fault Refusal := done (closeRow core chan bank) s

/-- The heavy band is left once T has stayed below 94 °C for 10 ms (R282). -/
def releaseBand (g : Nat) : Upd := read fun s =>
  let t := stackT s g
  when (fld s (slcB g + R.SLC_THROTTLE) 15 14 = 2 && decide (t < 376) && (match (slcOf s g).cool with | some a => decide (s.now ≥ a + 10000000) | none => false))
    (setBand g (bandOf 0 t) t)

/-- THROTTLE_BAND_RELEASE. -/
def execThrottleBandRelease (core : Nat) (s : State) : Host.Outcome State Fault Refusal := done (releaseBand core) s

/-! ## Refresh (R283 to R286) -/

/-- Does a request of the channel wait for the bank? -/
def bankWanted (c : Chan) (bank : Nat) : Bool := c.queue.any (fun r => bankOf r.off = bank)

/-- A bank's refresh falls due; a forced one suspends the sap unit that holds the bank and is issued once it lets go; `late`:
not within its budget (R286, R316). -/
def refreshDue (g k : Nat) (late : Bool) : Upd := read fun s =>
  let c := chanAt s g k
  let granted := (unitOf s g k).banks.contains c.due
  let d := (c.debt.lookup c.due).getD 0
  let b := slcB g
  let next (x : Chan) : Chan := { x with due := (x.due + 1) % 16 }
  let clear : List (Nat × Nat) := c.debt.filter (·.1 ≠ c.due)
  let st := pgState s (slcR g)
  when (st ≠ stOFF && st ≠ stRETIRED) (
    if fld s (b + R.SLC_CTRL) 1 1 = 1 && (bankWanted c c.due || granted) then
      if d ≥ 4 then seqs [setChan g k (next { c with debt := clear }), bump (b + R.CH_CNT_FORCED k) 1, bump (b + R.CH_CNT_REF k) 5,
        when granted (modUnit g k (fun u => { u with susp := true })), when late (raise (slcR g) 1 0)]
      else seqs [setChan g k (next { c with debt := SMap.put c.due (d + 1) c.debt }), bump (b + R.CH_CNT_POSTPONE k) 1]
    else seqs [setChan g k (next { c with debt := clear }), bump (b + R.CH_CNT_REF k) (d + 1)])

/-- REFRESH_DUE. -/
def execRefreshDue (core chan : Nat) (late : Bool) (s : State) : Host.Outcome State Fault Refusal :=
  done (refreshDue core chan late) s

/-- A layer that has stayed 2 °C below its band for 10 ms goes one band slower (R284). -/
def releaseRefresh (g k : Nat) : Upd := read fun s =>
  let o := slcB g + R.CH_STATUS k
  let cur := fld s o 27 26
  let t := layerT s g k
  let limit : Int := if cur = 2 then 372 else 332
  when (cur > 0 && !layerBlind s g k && decide (t ≤ limit) && (match (chanAt s g k).calm with | some a => decide (s.now ≥ a + 10000000) | none => false))
    (seqs [setFld o 27 26 (cur - 1), modChan g k (fun c => { c with calm := none }),
      evt (slcR g) 1 0x0402 0 (payload [(24, 1, k), (25, 1, cur), (26, 1, cur - 1), (28, 2, wrap 16 t)])])

/-- REFRESH_BAND_RELEASE. -/
def execRefreshBandRelease (core chan : Nat) (s : State) : Host.Outcome State Fault Refusal := done (releaseRefresh core chan) s

/-! ## Retraining (R287 to R294) -/

/-- Worst eye of a wire that passes training: 0.30 UI in 1/128 UI (R288). -/
def eyeOk (eye : Nat) : Bool := decide (100 * eye ≥ 30 * 128)
/-- Is the eye below 0.40 UI? (R290) -/
def eyeLow (eye : Nat) : Bool := decide (100 * eye < 40 * 128)

/-- The next lane group is selected, or the retraining ends. -/
def nextGroup (g k : Nat) (r : Retrain) (f : Nat) : Upd := read fun s =>
  let pos := (r.pos / r.f + 1) * r.f
  if pos ≥ 72 then endRetrain g k true
  else modChan g k (fun c => { c with rt := some { r with pos := pos, f := f, gAt := s.now } })

/-- A lane group of a channel has been trained; `wire` is its worst wire and `eye` that wire's eye. -/
def laneGroup (g k wire eye : Nat) : Upd := read fun s =>
  let c := chanAt s g k
  let st := pgState s (slcR g)
  onSome c.rt fun r0 =>
    let r := if eye < r0.eye then { r0 with wire := wire, eye := eye } else r0
    if st = stFAULT then seqs [setChState g k (chServing s g k), modChan g k (fun c => { c with rt := none, again := none })]
    else seqs [bump (slcB g + R.CH_CNT_RT_GROUP k) 1, setReg (slcB g + R.CH_MARGIN k) (r.wire % 256 * 256 + r.eye % 256),
      modChan g k (fun c => { c with rt := some r }), steerWaiting g k,
      read fun t =>
        let f := (chanAt t g k).free
        if eyeOk eye then (if f = 0 then startFull g k else nextGroup g k r f)
        else if f = 0 ∨ f = 1 then seqs [
          when (f = 1) (steerNow g k wire 0),
          if f = 1 ∧ (r.pos / r.f + 1) * r.f ≥ 72 then endRetrain g k true
          else seqs [when (f = 0) (evt (slcR g) 3 0x0404 0 (payload [(24, 1, k), (25, 1, r.pos / r.f), (26, 1, wire), (27, 1, eye)])), startFull g k]]
        else seqs [steerNow g k wire 0, nextGroup g k r (f - 1)]]

/-- LANE_GROUP_RETRAIN. -/
def execLaneGroupRetrain (core chan wire eye : Nat) (s : State) : Host.Outcome State Fault Refusal := done (laneGroup core chan wire eye) s

/-- Is automatic retraining on? -/
def rtAuto (s : State) (g : Nat) : Bool := fld s (slcB g + R.SLC_CTRL) 2 2 = 1

/-- RETRAIN_PERIOD_EXPIRY. -/
def execRetrainPeriodExpiry (core chan : Nat) (s : State) : Host.Outcome State Fault Refusal :=
  done (read fun s =>
    let p := fld s (slcB core + R.SLC_RT_PERIOD) 11 0
    when (rtAuto s core && decide (p ≠ 0) && decide ((s.now / 1000000 + 2 ^ 32 - rd s (slcB core + R.CH_RT_LAST chan)) % 2 ^ 32 ≥ 1000 * p)
      && (chanAt s core chan).rt.isNone) (startRetrain core chan false false)) s

/-- A full-channel retraining ends within its hold: the channel resumes if every wire, strobe and command lane meets its
minimum eye; otherwise it goes on until the hold's limit (R292, R293). -/
def fullDone (g k : Nat) (ok : Bool) : Upd := read fun s =>
  let c := chanAt s g k
  onSome c.hold fun h => when (ok && h.2 = 0) (seqs [
    modChan g k (fun c => { c with wires := c.wires.filter (fun e => !c.toSteer.contains e.1), toSteer := [] }),
    setReg (slcB g + R.CH_RT_LAST k) (s.now / 1000000), setFld (slcB g + R.CH_TEMP k) 31 16 (wrap 16 (layerT s g k)), resumeChan g k,
    read fun t => evt (slcR g) 2 0x0403 0 (payload [(24, 1, k), (25, 1, 1), (26, 1, c.free), (27, 1, fld t (slcB g + R.CH_MARGIN k) 15 8),
      (28, 1, fld t (slcB g + R.CH_MARGIN k) 7 0), (32, 4, (t.now - h.1) / 1000)])])

/-- FULL_CHANNEL_RETRAIN. -/
def execFullChannelRetrain (core chan : Nat) (ok : Bool) (s : State) : Host.Outcome State Fault Refusal := done (fullDone core chan ok) s

/-- HOLD_TIMEOUT: a hold not resolved within 50 µs fails the channel. -/
def execHoldTimeout (core chan : Nat) (s : State) : Host.Outcome State Fault Refusal :=
  done (read fun s => match (chanAt s core chan).hold with
    | some (t, _) => when (s.now ≥ t + 50000) (failChan core chan)
    | none => skip) s

/-- EYE_MARGIN_LOW. -/
def execEyeMarginLow (core chan wire eye : Nat) (s : State) : Host.Outcome State Fault Refusal :=
  done (read fun s => when (eyeLow eye) (seqs [setReg (slcB core + R.CH_MARGIN chan) (wire % 256 * 256 + eye % 256),
    when (rtAuto s core && (chanAt s core chan).rt.isNone) (startRetrain core chan false false)])) s

/-! ## The rate change (R295, R296, R559) -/

/-- Keep a channel's settings where they or their temperature differ from the stored record (R556). -/
def saveRecord (g k : Nat) : Upd := read fun s =>
  let key := g * 8 + k
  let t := layerT s g k
  let old := SMap.find key s.boot.records
  when (fld s (bootB + R.BOOT_CTRL) 1 1 = 1 && (match old with | some x => decide ((x - t).natAbs > 20) | none => true))
    (act (.boot { s.boot with records := SMap.put key t s.boot.records }))

/-- One channel changes its rate, or falls back, after a hold of `t` units of 100 ns. -/
def rateChange (g k t : Nat) (ok : Bool) : Upd := read fun s =>
  let o := slcB g + R.CH_STATUS k
  let ev : Upd := seqs [countHold g k t, evt (slcR g) 4 0x0405 0 (payload [(24, 1, k), (26, 1, 1), (28, 4, t)])]
  when (chState s g k = 2) (
    if ok then seqs [ev, setFld o 25 25 1, setChState g k 3, saveRecord g k, evt (slcR g) 6 0x0407 0 (payload [(24, 1, k), (25, 1, 1), (28, 4, t)])]
    else seqs [ev, evt (slcR g) 6 0x0407 0 (payload [(24, 1, k), (28, 4, t)]),
      evt (slcR g) 3 0x0404 0 (payload [(24, 1, k), (25, 1, 127), (26, 1, fld s (slcB g + R.CH_MARGIN k) 15 8),
        (27, 1, fld s (slcB g + R.CH_MARGIN k) 7 0), (28, 1, 1)]), startRetrain g k false true])

/-- Channel `k` of all 64 cores of a site in service is validated; `bad` are the cores whose check fails. -/
def validate (site : Nat) (bad : List Nat) (t : Nat) : Upd := read fun s =>
  let k := (SMap.find site s.boot.val).getD 0
  when (inService s site && decide (k < 8)) (seqs [
    act (.boot { s.boot with val := SMap.put site (k + 1) s.boot.val }),
    each (List.range 64) (fun c => rateChange (site * 64 + c) k (min t 200) (!bad.contains c)), fullRateCheck site])

/-- POLLARD_VALIDATION. -/
def execPollardValidation (site : Nat) (bad : List Nat) (t : Nat) (s : State) : Host.Outcome State Fault Refusal := done (validate site bad t) s

/-! ## Sidebands (R301) -/

/-- The refresh band of a layer rises at once as its temperature crosses, and the time below its band is kept (R283, R284). -/
def refreshBand (g k : Nat) : Upd := read fun s =>
  let o := slcB g + R.CH_STATUS k
  let cur := fld s o 27 26
  let t := layerT s g k
  let new := if layerBlind s g k || decide (t > 380) then 2 else if t > 340 then 1 else 0
  let limit : Int := if cur = 2 then 372 else 332
  if new > cur then seqs [setFld o 27 26 new, modChan g k (fun c => { c with calm := none }),
    evt (slcR g) 1 0x0402 0 (payload [(24, 1, k), (25, 1, cur), (26, 1, new), (28, 2, wrap 16 t)])]
  else modChan g k (fun c => { c with calm := if cur > 0 && decide (t ≤ limit) && !layerBlind s g k then some (c.calm.getD s.now) else none })

/-- A layer's temperature has drifted from its last training by SLC_RT_DRIFT or more (R290). -/
def driftCheck (g k : Nat) : Upd := read fun s =>
  let d := (layerT s g k - sext 16 (fld s (slcB g + R.CH_TEMP k) 31 16)).natAbs
  when (rtAuto s g && decide (d ≥ 4 * fld s (slcB g + R.SLC_RT_DRIFT) 4 0) && (chanAt s g k).rt.isNone && chServes s g k) (startRetrain g k false false)

/-- The channels of a layer's quadrant follow its effective reading. -/
def layerChanged (site n : Nat) : Upd :=
  each (quadCores (n % 4)) (fun c => seqs [refreshBand (site * 64 + c) (n / 4), driftCheck (site * 64 + c) (n / 4)])

/-- A sensor is marked broken: cause 0 range, 1 stuck, 2 sideband lost (R612). -/
def breakSensor (site n cause : Nat) : Upd := read fun s =>
  when (!sensBroken s site n) (seqs [setBit64 (tthB site + R.TTHM_BROKEN_LO) n true, raise (tthR site) 2 0,
    evt (tthR site) 4 0x0314 0 (payload [(24, 1, n), (25, 1, cause), (26, 2, wrap 16 (sensRaw s site n))]),
    when (n < 32) (layerChanged site n)])

/-- A layer's sideband has delivered no reading for 1 ms. -/
def sidebandLost (g k : Nat) : Upd := read fun s =>
  let site := g / 64
  let q := quadOf (g % 64)
  let n := dramSens k q
  let x := tthOf s site
  let last := (x.last.lookup n).getD 0
  when (siteEnabled s site && !x.lostSb.contains n && !sensBroken s site n && decide (s.now ≥ last + 1000000)) (seqs [
    setTth site { x with lostSb := x.lostSb ++ [n] },
    evt (slcR g) 5 0x0406 0 (payload [(24, 1, k), (25, 1, q), (28, 4, last / 1000)]), breakSensor site n 2])

/-- SLC_SIDEBAND_LOST. -/
def execSlcSidebandLost (core chan : Nat) (s : State) : Host.Outcome State Fault Refusal := done (sidebandLost core chan) s

/-! ## Commands (R298) -/

/-- RETRAIN. -/
def execRetrain (o : Origin) (core arg : Nat) (s : State) : Host.Outcome State Fault Refusal :=
  done (command o (Page.core .SLC core / 0x1000) 0x10 arg) s
/-- SLC_CLEAR_COUNTS. -/
def execSlcClearCounts (o : Origin) (core arg : Nat) (s : State) : Host.Outcome State Fault Refusal :=
  done (command o (Page.core .SLC core / 0x1000) 0x11 arg) s

end Sys2Proof.Machine
end

