-- ==== Sys2Proof/Machine/Thermal.lean ====
section
/-! DEFINITION. Sys2Proof/Machine/Thermal.lean: the commands of the thermal engine: sensors, halts, caps, the canopy model,
the coolant and the ring counters (R608 to R636). -/
namespace Sys2Proof.Machine
open Sys2Proof

/-! ## Sensors (R611 to R618) -/

/-- What a sensor is compared with: a sensor's number or 0xFF for the model, and the value (R613). -/
def counterpart (s : State) (site n : Nat) : Option (Nat × Int) :=
  if n ≥ 32 then
    let m := if n % 2 = 0 then n + 1 else n - 1
    if sensBroken s site m then none else some (m, sensRaw s site m)
  else if ((tthOf s site).nodes.lookup (n % 4)).isSome then some (0xFF, modelEst s site n) else none

/-- Ten samples in a row that disagree guard the sensor, and of a pair both (R613, R614). -/
def disagreeCheck (site n : Nat) : Upd := read fun s =>
  onSome (counterpart s site n) fun c =>
    let x := tthOf s site
    let bad := decide ((sensRaw s site n - c.2).natAbs > 24)
    let k := if bad then (SMap.get 0 n x.dis) + 1 else 0
    when (!sensBroken s site n) (seqs [setTth site { x with dis := SMap.set 0 n k x.dis },
      when (decide (k = 10) && !sensGuarded s site n) (seqs [
        setBit64 (tthB site + R.TTHM_GUARD_LO) n true, when (n ≥ 32) (setBit64 (tthB site + R.TTHM_GUARD_LO) c.1 true),
        evt (tthR site) 3 0x0313 0 (payload [(24, 1, n), (25, 1, c.1), (26, 2, wrap 16 (sensRaw s site n)), (28, 2, wrap 16 c.2)]),
        raise (tthR site) 3 0])])

/-- Breakage: out of range, or changed by less than 0.1 °C over 10 s while the site's power changed by more than 20 % (R612). -/
def breakCheck (site n : Nat) (mc : Int) : Upd := read fun s =>
  let x := tthOf s site
  let p := fld s (tpwrB site + R.TPWR_P1) 15 0
  if mc < -20000 ∨ mc > 150000 then breakSensor site n 0
  else match x.refs.lookup n with
    | none => setTth site { x with refs := SMap.put n (mc, p, s.now) x.refs }
    | some (m0, p0, t0) => when (s.now ≥ t0 + 10000000000) (seqs [
        setTth site { x with refs := SMap.put n (mc, p, s.now) x.refs },
        when (decide ((mc - m0).natAbs < 100) && decide (5 * (max p p0 - min p p0) > p0)) (breakSensor site n 1)])

/-- The distance of an effective reading from the nearest threshold of its kind. -/
def thresholdGap (n : Nat) (t : Int) : Nat :=
  ((if n < 32 then [340, 360, 380, 400, 420] else [400, 432, 448]).map (fun (h : Int) => (t - h).natAbs)).foldl min 1000000
/-- The sampling rate follows the distance, and falls only after 10 ms in the lower band (R611). -/
def rateCheck (site n : Nat) : Upd := read fun s =>
  let x := tthOf s site
  let t := if n < 32 then effDram s site n else effLogic s site ((n - 32) / 2)
  let g := thresholdGap n t
  let want := if g ≤ 8 then 2 else if g ≤ 24 then 1 else 0
  let o := tthB site + R.TTHM_SENS n
  let cur := fld s o 15 14
  if want ≥ cur then seqs [setFld o 15 14 want, setTth site { x with slow := SMap.del n x.slow }]
  else match SMap.find n x.slow with
    | none => setTth site { x with slow := SMap.put n s.now x.slow }
    | some t0 => when (s.now ≥ t0 + 10000000) (seqs [setFld o 15 14 want, setTth site { x with slow := SMap.del n x.slow }])

/-- A quadrant's readings: trips, halts, and since when it has been cool (R616, R618, R620). -/
def quadCheck (site q n : Nat) : Upd := read fun s =>
  let d := effStack s site q
  let l := effLogic s site q
  let x := tthOf s site
  seqs [setTth site { x with cool := if d < 388 ∧ l < 420 then SMap.put q ((SMap.find q x.cool).getD s.now) x.cool else SMap.del q x.cool },
    if d ≥ 420 then trip site q n d else if l ≥ 448 then trip site q n l
    else onSome (haltCause s site q) (fun c => haltQuad site q c.1 c.2)]

/-- A sensor is sampled at `mc` thousandths of a degree. -/
def sample (site n : Nat) (mc : Int) : Upd := read fun s =>
  let x := tthOf s site
  let q := if n < 32 then n % 4 else (n - 32) / 2
  let back := x.lostSb.contains n
  when (siteEnabled s site && decide (n < 40)) (seqs [
    setTth site { x with last := SMap.put n s.now x.last, lostSb := x.lostSb.filter (· ≠ n) },
    when back (setBit64 (tthB site + R.TTHM_BROKEN_LO) n false),
    setFld (tthB site + R.TTHM_SENS n) 31 16 (wrap 16 (mc / 250)),
    read fun t => when (!sensBroken t site n) (breakCheck site n mc), disagreeCheck site n, rateCheck site n,
    when (n < 32) (layerChanged site n), quadCheck site q n,
    read fun t =>
      let y := tthOf t site
      let l := maxInt ((List.range 4).map (effLogic t site))
      setTth site { y with top := some (match y.top with | some m => max m l | none => l) }])

/-- SENSOR_SAMPLE. -/
def execSensorSample (site n : Nat) (mc : Int) (s : State) : Host.Outcome State Fault Refusal := done (sample site n mc) s

/-- A halt ends once both readings have stayed below their release values for 10 ms (R618). -/
def haltRelease (site q : Nat) : Upd := read fun s =>
  when (quadHalted s site q && !thmBit s 2 && !thmBit s 3 && decide (effStack s site q < 388) && decide (effLogic s site q < 420)
    && (match SMap.find q (tthOf s site).cool with | some t => decide (s.now ≥ t + 10000000) | none => false)) (unhaltQuad site q)

/-- HALT_RELEASE. -/
def execHaltRelease (site q : Nat) (s : State) : Host.Outcome State Fault Refusal := done (haltRelease site (q % 4)) s

/-! ## Logic caps and the canopy model (R617, R622 to R625) -/

/-- Is the prediction used by the logic caps? -/
def predOn (s : State) : Bool := fld s (thmB + R.THM_CTRL) 0 0 = 1
/-- The cap code of a logic reading (R617). -/
def capCode (t : Int) : Nat := if t ≤ 400 then 48 else (48 - (6 * (t - 400) + 3) / 4).toNat
/-- A quadrant's cap code is set. -/
def capTick (site q : Nat) : Upd := read fun s =>
  let o := tthB site + R.TTHM_CAP
  let old := fld s o (8 * q + 5) (8 * q)
  let t := if predOn s then max (effLogic s site q) (predLogic s site q) else effLogic s site q
  let new := min (capCode t) (old + 1)
  seqs [setFld o (8 * q + 5) (8 * q) new,
    when ((old = 48 && decide (new < 48)) || (decide (old < 48) && new = 48))
      (evt (tthR site) 0 0x0310 0 (payload [(24, 1, q), (25, 1, old), (26, 1, new), (28, 2, wrap 16 t)]))]

/-- LOGIC_CAP_TICK. -/
def execLogicCapTick (site : Nat) (s : State) : Host.Outcome State Fault Refusal :=
  done (read fun s => when (siteEnabled s site) (each (List.range 4) (capTick site))) s

/-- Drift of a quadrant's prediction with error `e` (R625). -/
def driftTick (site q : Nat) (e : Int) : Upd := read fun s =>
  let x := tthOf s site
  let o := tthB site + R.TTHM_STATE
  let on := bit (rd s o) (4 + q)
  let bad := decide (e.natAbs > 8)
  let since := match x.drift.lookup q with | some (b, t) => if b = bad then t else s.now | none => s.now
  let flip := bad != on && decide (s.now ≥ since + 1000000000)
  seqs [setTth site { x with drift := SMap.put q (bad, since) x.drift },
    when flip (seqs [setFld o (4 + q) (4 + q) (b2n bad),
      read fun t => setThm 6 ((enabledSites t).any (fun y => fld t (tthB y + R.TTHM_STATE) 7 4 ≠ 0)),
      evt thmR 5 0x0305 0 (payload [(24, 1, site), (25, 1, q), (26, 2, wrap 16 e), (28, 1, b2n bad)]), when bad (raise thmR 4 0)])]

/-- The model of a quadrant advances and predicts. What it estimates, predicts and misses by are free values (log 3): the
spec fixes neither how it integrates nor how it adapts. A drifting quadrant's prediction is its effective reading and 2 °C. -/
def modelTick (site q : Nat) : Upd := read fun s =>
  let v := freeVal s
  let p (i : Nat) : Int := sext 16 (v / 2 ^ (16 * i))
  let x := tthOf s site
  seqs [act .drawn, setTth site { x with nodes := SMap.put q (p 0, p 1, p 2, p 3) x.nodes }, driftTick site q (p 6),
    read fun t =>
      let on := bit (rd t (tthB site + R.TTHM_STATE)) (4 + q)
      let d := if on then effStack t site q + 8 else p 4
      let l := if on then effLogic t site q + 8 else p 5
      setReg (tthB site + R.TTHM_PRED q) (wrap 16 d * 2 ^ 16 + wrap 16 l)]

/-- The resistances adapt, each free within half and twice its starting value (R624). -/
def adaptTick (site : Nat) : Upd := read fun s =>
  let v := freeVal s
  let r (i base : Nat) : Nat := base / 2 + v / 2 ^ (16 * i) % (min (2 * base) 255 - base / 2 + 1)
  seqs [act .drawn, setReg (tthB site + R.TTHM_R) (r 0 60 * 2 ^ 24 + r 1 160 * 2 ^ 16 + r 2 40 * 2 ^ 8 + r 3 100)]

/-- CANOPY_MODEL_TICK. -/
def execCanopyModelTick (site : Nat) (s : State) : Host.Outcome State Fault Refusal :=
  done (read fun s => when (siteEnabled s site) (seqs [each (List.range 4) (modelTick site), adaptTick site])) s

/-! ## The coolant (R610, R626 to R630) -/

/-- Has condition `k` held for `ns`, given that it holds now? -/
def heldFor (s : State) (k ns : Nat) : Bool := match SMap.find k s.thm.since with | some t => decide (s.now ≥ t + ns) | none => false
/-- Note whether condition `k` holds now. -/
def noteCond (k : Nat) (b : Bool) : Upd := read fun s =>
  act (.thm { s.thm with since := if b then SMap.put k ((SMap.find k s.thm.since).getD s.now) s.thm.since else SMap.del k s.thm.since })

/-- The inlet limit (R627). -/
def inletCheck : Upd := read fun s =>
  let t := sext 16 (fld s (thmB + R.THM_TH) 15 0)
  let lim : Int := 4 * (fld s (thmB + R.THM_INLET_MAX) 7 0 : Nat)
  let on := thmBit s 4
  let c := if on then decide (t ≤ lim - 4) else decide (t > lim)
  seqs [noteCond 4 c, read fun u => when (c && heldFor u 4 1000000000) (seqs [setThm 4 (!on), noteCond 4 false,
    evt thmR 4 0x0304 0 (payload [(24, 1, b2n (!on)), (26, 2, wrap 16 t)]), when (!on) (raise thmR 3 0)])]

/-- A thermistor's 10 ms average, `cc` in 0.01 °C; `opened`: its input is open. TH_IN0 and TH_IN1 are checked for breakage and kept for
the test of a sudden stop; TH_IN2 and TH_IN3 are reported only (R610, R628, R703). -/
def coolant (i : Nat) (cc : Int) (opened : Bool) : Upd := read fun s =>
  let o := thmB + (if i < 2 then R.THM_TH else R.THM_TH_OPT)
  let h := 16 * (i % 2)
  let old := sext 16 (fld s o (h + 15) h)
  let v := cc / 25
  if i ≥ 2 then setFld o (h + 15) h (if opened then 0x8000 else wrap 16 v)
  else
    let wasBad := bit s.thm.broken i
    let inRange := !opened && decide (-2000 ≤ cc) && decide (cc ≤ 12000)
    let jump := !wasBad && decide ((v - old).natAbs > 80) && decide (rd s o ≠ 0)
    let x := s.thm
    let since := if inRange then some ((SMap.find i x.good).getD s.now) else none
    let heals := wasBad && (match since with | some t => decide (s.now ≥ t + 10000000000) | none => false)
    let bad := if wasBad then !heals else !inRange || jump
    let brk := if bad then (if wasBad then x.broken else x.broken + 2 ^ i) else (if wasBad then x.broken - 2 ^ i else x.broken)
    seqs [setFld o (h + 15) h (wrap 16 v),
      read fun t =>
        let dt : Int := 25 * (sext 16 (fld t (thmB + R.THM_TH) 31 16) - sext 16 (fld t (thmB + R.THM_TH) 15 0))
        act (.thm { t.thm with broken := brk, good := match since with | some a => SMap.put i a x.good | none => SMap.del i x.good
                               dts := (x.dts.filter (fun e => decide (t.now ≤ e.1 + 110000000))) ++ [(t.now, dt)] }),
      setThm 5 (decide (brk ≠ 0)), when (bad && !wasBad) (raise thmR 2 0), inletCheck]

/-- COOLANT_SAMPLE. -/
def execCoolantSample (i : Nat) (cc : Int) (opened : Bool) (s : State) : Host.Outcome State Fault Refusal :=
  done (coolant (i % 4) cc opened) s

/-- P_flow (R627). -/
def pFlow (s : State) : Nat := fld s (Page.trunk .PWR + R.PWR_INFO) 31 16 * flowWk s / max (flowMin s) 1

/-- A flow condition enters or releases: bit, what enters it, what releases it after 10 s, and what is done. -/
def flowCond (k n : Nat) (enters releases : Bool) (fx : Bool → Upd) : Upd := read fun s =>
  let on := thmBit s n
  let c := if on then releases else enters
  seqs [noteCond k c, read fun u => when (c && heldFor u k (if on then 10000000000 else 1000000000)) (seqs [setThm n (!on), noteCond k false, fx (!on)])]

/-- The capacity flow is estimated from the heat `ph` under the cold plate, and its conditions are evaluated (R626, R627). -/
def flowEstimate (ph : Nat) : Upd := read fun s =>
  let x := rd s (thmB + R.THM_TH)
  let dt := sext 16 (bits x 31 16) - sext 16 (bits x 15 0)
  let m := flowMin s
  let c : Nat := if s.thm.broken ≠ 0 then m * 8 / 10 else if dt < 2 then 2 * ph else (4 * (ph : Int) / dt).toNat
  let valid := s.thm.broken = 0 && decide (ph ≥ 300) && decide (dt ≥ 2)
  let rc := fld s (thmB + R.THM_COOLANT) 31 16 * fld s (thmB + R.THM_COOLANT) 15 0
  let lpm := min (c * 600000 / max rc 1) 0x3FFF
  seqs [setReg (thmB + R.THM_HEAT) (min ph 0xFFFF),
    when (decide (s.thm.broken ≠ 0) || decide (ph ≥ 300)) (seqs [
      setReg (thmB + R.THM_FLOW) (b2n valid * 2 ^ 31 + lpm * 2 ^ 16 + min c 0xFFFF),
      flowCond 0 0 (decide (4 * c < 5 * m)) (decide (10 * c ≥ 13 * m)) (fun on => seqs [when on (bump (thmB + R.THM_CNT_FLOW_WARN) 1),
        evt thmR 0 0x0300 0 (payload [(24, 1, b2n on), (26, 2, min c 0xFFFF), (28, 2, lpm)])]),
      flowCond 1 1 (decide (c < m)) (decide (c ≥ m)) (fun on => read fun t => seqs [
        evt thmR 1 0x0301 0 (payload [(24, 1, b2n on), (26, 2, min c 0xFFFF), (28, 2, pFlow t), (30, 1, fld t (thmB + R.THM_STATUS) 21 16)]),
        when on (raise thmR 1 0)])]),
    read fun t => act (.thm { t.thm with fit := if resumeFit t then some (t.thm.fit.getD t.now) else none })]

/-- FLOW_ESTIMATE. -/
def execFlowEstimate (ph : Nat) (s : State) : Host.Outcome State Fault Refusal := done (flowEstimate ph) s

/-- The step rule of R526 on a cap code: average, limit, and whether the average has been below 0.95 of it for 1 ms. -/
def stepRule (code avg lim : Nat) (low : Bool) : Nat :=
  if 100 * avg > 105 * lim then code - 4 else if avg > lim then code - 1 else if low then min (code + 1) 48 else code

/-- The flow cap follows the step rule while flow is low, is 0 while it is lost, and rises to 48 afterwards (R627, R629, R630). -/
def flowCap : Upd := read fun s =>
  let o := thmB + R.THM_STATUS
  let code := fld s o 21 16
  let ph := fld s (thmB + R.THM_HEAT) 15 0
  let under := decide (100 * ph < 95 * pFlow s)
  let since := s.thm.below.getD s.now
  seqs [act (.thm { s.thm with below := if under then some since else none }),
    setFld o 21 16 (if thmBit s 2 then 0 else if thmBit s 1 then stepRule code ph (pFlow s) (under && decide (s.now ≥ since + 1000000)) else min (code + 1) 48)]

/-- FLOW_CAP_TICK. -/
def execFlowCapTick (s : State) : Host.Outcome State Fault Refusal := done flowCap s

/-- Quadrants for which a trip value is predicted, with the predicted temperature (R629). -/
def tripPredicted (s : State) : List (Nat × Nat × Int) :=
  ((enabledSites s).flatMap (fun x => (List.range 4).map (fun q => (x, q)))).filterMap (fun e =>
    if predDram s e.1 e.2 ≥ 420 then some (e.1, e.2, predDram s e.1 e.2)
    else if predLogic s e.1 e.2 ≥ 448 then some (e.1, e.2, predLogic s e.1 e.2) else none)

/-- How much ΔT has risen in 100 ms, in 0.01 K. -/
def dtRise (s : State) : Int :=
  match s.thm.dts.getLast?, (s.thm.dts.filter (fun e => decide (e.1 + 100000000 ≤ s.now))).getLast? with
  | some n, some o => n.2 - o.2
  | _, _ => 0

/-- A jump of ΔT together with a predicted trip declares flow lost (R629). -/
def suddenStop : Upd := read fun s =>
  match tripPredicted s with
  | [] => skip
  | p :: _ => when (s.thm.broken = 0 && !thmBit s 2 && decide (dtRise s > 300)) (seqs [
      setThm 2 true, act (.thm { s.thm with lostAt := s.now, fit := none }), everyQuad s (fun x q => haltQuad x q 1 (effLogic s x q)),
      setFld (thmB + R.THM_STATUS) 21 16 0, bump (thmB + R.THM_CNT_FLOW_LOST) 1, raise thmR 0 0, faultnCheck evt,
      evt thmR 2 0x0302 0 (payload [(24, 1, p.1), (25, 1, p.2.1), (26, 2, wrap 16 p.2.2), (28, 2, wrap 16 (dtRise s)), (30, 2, fld s (thmB + R.THM_HEAT) 15 0)])])

/-- SUDDEN_STOP_TEST. -/
def execSuddenStopTest (s : State) : Host.Outcome State Fault Refusal := done suddenStop s
/-- FLOW_AUTO_RESUME. -/
def execFlowAutoResume (s : State) : Host.Outcome State Fault Refusal :=
  done (read fun s => when (fld s (thmB + R.THM_CTRL) 1 1 = 1 && resumeReady s) (flowResume 1)) s

/-! ## Ring counters (R632, R633) -/

/-- The bin of a range in 0.25 K. -/
def ringBin (r : Nat) : Option Nat := if r < 40 then none else if r < 80 then some 0 else if r < 160 then some 1 else if r < 320 then some 2 else some 3
/-- Count half cycles of a range. -/
def ringAdd (c : List (Nat × Nat)) (r n : Nat) : List (Nat × Nat) := match ringBin r with | none => c | some b => SMap.put b (SMap.get 0 b c + n) c
/-- Extend the turning points (latest first) by a value: a value that goes on in the same direction replaces the last. -/
def turn (l : List Int) (v : Int) : List Int :=
  match l with
  | [] => [v]
  | [a] => if v = a then [a] else [v, a]
  | a :: b :: r => if v = a then l else if decide (b < a) == decide (a < v) then v :: b :: r else v :: l
/-- Rainflow counting of ASTM E1049 over the turning points, latest first: a closed range inside counts 2, one at the start 1. -/
def rainflow : Nat → List Int → List (Nat × Nat) → List Int × List (Nat × Nat)
  | 0, l, c => (l, c)
  | n + 1, l, c =>
    match l with
    | a :: b :: d :: r =>
      let y := (b - d).natAbs
      if (a - b).natAbs < y then (l, c)
      else if r.isEmpty then rainflow n [a, b] (ringAdd c y 1)
      else rainflow n (a :: r) (ringAdd c y 2)
    | _ => (l, c)

/-- THM_LIFE when the life consumed first crosses 50, 80 and 100 % (R633). -/
def lifeCheck (site : Nat) : Upd := read fun s =>
  let x := tthOf s site
  let v := lifeOf x
  let p := if v ≥ 100000 then 100 else if v ≥ 80000 then 80 else if v ≥ 50000 then 50 else 0
  when (decide (p > x.life)) (seqs [setTth site { x with life := p }, evt thmR 6 0x0306 0 (payload [(24, 1, site), (25, 1, p), (28, 4, v)])])

/-- One second of a site's ring counter. -/
def ringTick (site : Nat) : Upd := read fun s =>
  let x := tthOf s site
  match x.top with
  | none => skip
  | some v =>
    let l := turn x.residue v
    let c := rainflow l.length l x.counts
    seqs [setTth site { x with residue := c.1, counts := c.2, top := none }, lifeCheck site]

/-- RING_COUNT_TICK: each second, every site's counter, and a second with flow low is counted. -/
def execRingCountTick (s : State) : Host.Outcome State Fault Refusal :=
  done (read fun s => seqs [each (enabledSites s) ringTick, when (thmBit s 1) (bump (thmB + R.THM_CNT_FLOW_LOW_S) 1)]) s

/-- RING_SAVE_TIMER. -/
def execRingSaveTimer (ok : Bool) (s : State) : Host.Outcome State Fault Refusal := done (if ok then ringSave else raise thmR 5 0) s
/-- FLOW_RESUME. -/
def execFlowResume (o : Origin) (arg : Nat) (s : State) : Host.Outcome State Fault Refusal := done (command o (thmB / 0x1000) 0x10 arg) s
/-- RING_SAVE. -/
def execRingSave (o : Origin) (arg : Nat) (s : State) : Host.Outcome State Fault Refusal := done (command o (thmB / 0x1000) 0x11 arg) s
/-- MODEL_RESET. -/
def execModelReset (o : Origin) (arg : Nat) (s : State) : Host.Outcome State Fault Refusal := done (command o (thmB / 0x1000) 0x12 arg) s
/-- THM_CLEAR_COUNTS. -/
def execThmClearCounts (o : Origin) (arg : Nat) (s : State) : Host.Outcome State Fault Refusal := done (command o (thmB / 0x1000) 0x13 arg) s

end Sys2Proof.Machine
end

