-- ==== Sys2Proof/Machine/Power.lean ====
section
/-! DEFINITION. Sys2Proof/Machine/Power.lean: the commands of power: input monitors, the governor, stage and rail faults, and
the power-loss sequence (R517 to R541, R691, R697). A monitor's command carries the voltages measured, in mV: pair A, pair
B and the carrier bus. It has its effect when its condition holds. -/
namespace Sys2Proof.Machine
open Sys2Proof

/-! ## Input monitors (R518) -/

/-- The readings of a monitor. -/
def noteInput (a b bus : Nat) : Upd := seqs [setReg (pwrB + R.PWR_VIN) (min b 0xFFFF * 2 ^ 16 + min a 0xFFFF), setFld (pwrB + R.PWR_VBUS) 15 0 (min bus 0xFFFF)]
/-- PWR_UNDERVOLT. -/
def undervolt (a b bus : Nat) : Upd := read fun s =>
  evt pwrR 0 0x0700 0 (payload [(24, 2, a), (26, 2, b), (28, 2, bus), (30, 1, fld s (pwrB + R.PWR_STATE) 4 0)])

/-- UNDERVOLTAGE_WARNING. -/
def execUndervoltageWarning (a b bus : Nat) (s : State) : Host.Outcome State Fault Refusal :=
  done (seqs [noteInput a b bus, read fun s => when (decide (bus < 42000) && !pwrBit s 0)
    (seqs [setPwr 0 true, bump (pwrB + R.PWR_CNT_UV) 1, undervolt a b bus])]) s

/-- BROWN_OUT. -/
def execBrownOut (a b bus : Nat) (s : State) : Host.Outcome State Fault Refusal :=
  done (seqs [noteInput a b bus, read fun s => when (decide (bus < 40000) && !pwrBit s 1)
    (seqs [setPwr 1 true, read fun t => setFld (pwrB + R.PWR_LIMIT) 15 0 (pLim t bus).1, undervolt a b bus])]) s

/-- A pair is lost: the single-pair limit, and a fast cut if the average is above it (R518, R527). -/
def pairGone (pair mv bus : Nat) : Upd := read fun s => when (!bit s.pwr.lost pair) (seqs [
  act (.pwr { s.pwr with lost := s.pwr.lost + 2 ^ pair }), setPwr 2 true, bump (pwrB + R.PWR_CNT_PAIR_LOST) 1,
  read fun t =>
    let p := (pLim t bus).1
    seqs [setFld (pwrB + R.PWR_LIMIT) 15 0 p, evt pwrR 1 0x0701 0 (payload [(24, 1, pair), (26, 2, mv), (28, 2, p)]), raise pwrR 1 0,
      when (fld t (pwrB + R.PWR_POWER) 15 0 > p) fastCut]])

/-- PAIR_LOST. -/
def execPairLost (pair a b bus : Nat) (s : State) : Host.Outcome State Fault Refusal :=
  let mine := if pair = 0 then a else b
  let other := if pair = 0 then b else a
  done (seqs [noteInput a b bus, when (decide (40000 ≤ other) && (decide (mine < 38000) || decide (mine + 3000 < other))) (pairGone pair mine bus)]) s

/-- OVERVOLTAGE_WARNING. -/
def execOvervoltageWarning (a b bus : Nat) (s : State) : Host.Outcome State Fault Refusal :=
  done (seqs [noteInput a b bus, read fun s => when (decide (58000 < max a b) && !s.pwr.past) (seqs [
    act (.pwr { s.pwr with past := true }), setPwr 3 true,
    evt pwrR 2 0x0702 0 (payload [(24, 1, if 58000 < a then 0 else 1), (26, 2, if 58000 < a then a else b)])])]) s

/-- PAIR_OVERVOLTAGE: the pair's stage opens, and it counts as lost. -/
def execPairOvervoltage (pair a b bus : Nat) (s : State) : Host.Outcome State Fault Refusal :=
  let mine := if pair = 0 then a else b
  done (seqs [noteInput a b bus, read fun s => when (decide (62000 < mine) && !bit s.pwr.opened pair) (seqs [
    act (.pwr { s.pwr with opened := s.pwr.opened + 2 ^ pair }), setPwr 3 true,
    evt pwrR 2 0x0702 0 (payload [(24, 1, pair), (26, 2, mine), (28, 1, 1)]), raise pwrR 2 0, pairGone pair mine bus])]) s

/-- A release condition has held for 1 ms: 0 undervoltage, 1 brown-out, 2 pair A lost, 3 pair B lost, 4 overvoltage warning,
5 and 6 overvoltage of pair A and B. -/
def conditionRelease (cond a b bus : Nat) : Upd := read fun s =>
  let near := decide (max a b - min a b ≤ 300)
  match cond with
  | 0 => when (bus ≥ 43000) (setPwr 0 false)
  | 1 => when (bus ≥ 40500) (setPwr 1 false)
  | 2 | 3 => when (near && bit s.pwr.lost (cond - 2) && !bit s.pwr.opened (cond - 2)) (seqs [
      act (.pwr { s.pwr with lost := s.pwr.lost - 2 ^ (cond - 2) }), setPwr 2 (decide (s.pwr.lost ≠ 2 ^ (cond - 2)))])
  | 4 => when (decide (max a b ≤ 57500)) (seqs [act (.pwr { s.pwr with past := false }), setPwr 3 (decide (s.pwr.opened ≠ 0))])
  | _ => when (bit s.pwr.opened (cond - 5) && decide ((if cond = 5 then a else b) ≤ 57500)) (seqs [
      act (.pwr { s.pwr with opened := s.pwr.opened - 2 ^ (cond - 5) }), setPwr 3 (s.pwr.past || decide (s.pwr.opened ≠ 2 ^ (cond - 5)))])

/-- INPUT_CONDITION_RELEASE. -/
def execInputConditionRelease (cond a b bus : Nat) (s : State) : Host.Outcome State Fault Refusal :=
  done (seqs [noteInput a b bus, when (cond < 7) (conditionRelease cond a b bus)]) s

/-- PAIR_OVERCURRENT: the pairs' currents in 0.1 A. -/
def execPairOvercurrent (ia ib : Nat) (s : State) : Host.Outcome State Fault Refusal :=
  done (seqs [setReg (pwrB + R.PWR_IIN) (min ib 0xFFFF * 2 ^ 16 + min ia 0xFFFF), when (1200 < max ia ib) (raise pwrR 4 0)]) s

/-! ## The governor (R526 to R529) -/

/-- A site reports its power: the words of TPWR_P0, TPWR_P1 and TPWR_RAIL. -/
def siteReport (x : Nat × Nat × Nat × Nat) : Upd := read fun s => when (siteEnabled s x.1) (seqs [
  setReg (tpwrB x.1 + R.TPWR_P0) x.2.1, setReg (tpwrB x.1 + R.TPWR_P1) x.2.2.1, setReg (tpwrB x.1 + R.TPWR_RAIL) x.2.2.2,
  act (.pwr { s.pwr with silent := s.pwr.silent.filter (· ≠ x.1) })])

/-- What a site whose telemetry is silent counts for, in W (R529). -/
def silentW (s : State) (site : Nat) : Nat := max (fld s (tpwrB site + R.TPWR_P1) 15 0 / 10) 105

/-- The module's cap (R526). -/
def moduleTick (bus avg : Nat) : Upd := read fun s =>
  let o := pwrB + R.PWR_LIMIT
  let p := pLim s bus
  let code := fld s o 21 16
  let under := decide (100 * avg < 95 * p.1)
  let since := s.pwr.below.getD s.now
  let new := stepRule code avg p.1 (under && decide (s.now ≥ since + 1000000))
  let why := if new = 48 then 0 else if new < code then p.2 else fld s o 31 29
  let ticks := s.pwr.capTicks + (if new < 48 then 1 else 0)
  let above := if avg > p.1 then some (s.pwr.above.getD s.now) else none
  seqs [act (.pwr { s.pwr with below := if under then some since else none, above := above, capTicks := ticks % 10 }),
    setFld (pwrB + R.PWR_POWER) 15 0 avg, setFld o 15 0 p.1, setFld o 21 16 new, setFld o 31 29 why,
    when (ticks ≥ 10) (bump (pwrB + R.PWR_CNT_CAP_MS) 1), when (code = 48 && decide (new < 48)) capEvent]

/-- A site's own cap, where TPWR_CAP sets a limit (R528). -/
def siteTick (site : Nat) : Upd := read fun s =>
  let o := tpwrB site + R.TPWR_FCAP
  let cap := 10 * fld s (tpwrB site + R.TPWR_CAP) 15 0
  let w := fld s (tpwrB site + R.TPWR_P1) 15 0
  let code := fld s o 5 0
  let under := decide (100 * w < 95 * cap)
  let since := (SMap.find site s.pwr.siteBelow).getD s.now
  let new := if cap = 0 then 48 else stepRule code w cap (under && decide (s.now ≥ since + 1000000))
  let bl := if cap ≠ 0 && under then SMap.put site since s.pwr.siteBelow else SMap.del site s.pwr.siteBelow
  let ab := if cap ≠ 0 && decide (w > cap) then SMap.put site ((SMap.find site s.pwr.siteAbove).getD s.now) s.pwr.siteAbove
    else SMap.del site s.pwr.siteAbove
  seqs [act (.pwr { s.pwr with siteBelow := bl, siteAbove := ab }),
    setFld o 5 0 new, when (code = 48 && decide (new < 48)) (siteCapEvent site)]

/-- POWER_GOVERNOR_TICK: the voltages, the 1 ms average of the input power in W but for silent sites, and the sites' reports. -/
def execPowerGovernorTick (a b bus avg : Nat) (tele : List (Nat × Nat × Nat × Nat)) (s : State) : Host.Outcome State Fault Refusal :=
  done (seqs [noteInput a b bus, each tele siteReport,
    read fun s => moduleTick bus (min (avg + s.pwr.silent.foldl (fun n x => n + silentW s x) 0) 0xFFFF),
    read fun s => each (enabledSites s) siteTick]) s

/-- FAST_CUT: a 10 µs sample in W; and the sites whose own limit has been exceeded for 10 ms. -/
def execFastCut (sample : Nat) (s : State) : Host.Outcome State Fault Refusal :=
  let long (s : State) (t : Nat) : Bool := decide (s.now ≥ t + 10000000)
  done (read fun s => seqs [
    setFld (pwrB + R.PWR_POWER) 31 16 (max (fld s (pwrB + R.PWR_POWER) 31 16) (min sample 0xFFFF)),
    when (decide (sample > 8600) || (match s.pwr.above with | some t => long s t | none => false)) fastCut,
    each (s.pwr.siteAbove.filter (fun e => long s e.2)) (fun e => seqs [
      setFld (tpwrB e.1 + R.TPWR_FCAP) 5 0 0, bump (pwrB + R.PWR_CNT_FAST_CUT) 1, siteCapEvent e.1,
      read fun t => act (.pwr { t.pwr with siteAbove := SMap.del e.1 t.pwr.siteAbove, siteBelow := SMap.del e.1 t.pwr.siteBelow })])]) s

/-- TELEMETRY_LOSS. -/
def execTelemetryLoss (site : Nat) (s : State) : Host.Outcome State Fault Refusal :=
  done (read fun s => when (siteEnabled s site && !s.pwr.silent.contains site) (seqs [
    act (.pwr { s.pwr with silent := s.pwr.silent ++ [site] }), raise (tpwrR site) 1 0])) s

/-! ## Stages and rails (R530 to R532) -/

/-- STAGE_FAULT: cause 0 overcurrent, 1 overtemperature, 2 output voltage. -/
def execStageFault (stage cause : Nat) (s : State) : Host.Outcome State Fault Refusal :=
  done (seqs [each (stageSites stage) siteDark, setFld (pwrB + R.PWR_STAGES) (16 + stage) (16 + stage) 1, raise pwrR 3 0,
    evt pwrR 4 0x0704 0 (payload [(24, 1, stage), (25, 1, cause), (28, 8, (stageSites stage).foldl (fun n x => n + 2 ^ x) 0)])]) s

/-- RAIL_FAULT: rail 0 core `c`, 1 tile-common, 2 memory, measured at `mv`. -/
def execRailFault (site rail c mv : Nat) (s : State) : Host.Outcome State Fault Refusal :=
  done (seqs [
    when (rail = 0) (setFld (tpwrB site + R.TPWR_RAIL) 15 0 (min mv 0xFFFF)), when (rail = 2) (setFld (tpwrB site + R.TPWR_RAIL) 31 16 (min mv 0xFFFF)),
    raise (tpwrR site) 0 0, evt (tpwrR site) 0 0x0710 0 (payload [(24, 1, rail), (25, 1, c), (26, 2, mv)]),
    match rail with
    | 0 => coreOff site c
    | 1 => commonOff site
    | _ => seqs [memoryOff site, fenceSite site]]) s

/-! ## Power loss (R533 to R537) -/

/-- The PWRFAIL record (R541). -/
def pwrfailRec (s : State) (cause : Nat) : EvRec :=
  { typ := 0x0705, flags := 0, seq := rd s (evqB + R.EVQ_SEQ (fld s (pwrB + R.PG_EVT_RING) 5 0)), time := s.now, page := pageNo pwrR, src := 0,
    payload := payload [(24, 1, cause), (28, 4, s.jnl.fill), (32, 4, s.evq.hold.length)] }

/-- Can PWRFAIL be written? (R533 step 3) -/
def pwrfailOpen (s : State) : Bool := linkUp s && ringOpen s (fld s (pwrB + R.PG_EVT_RING) 5 0)

/-- PWRFAIL is written past the hold store, then its shadow index and message. -/
def pwrfailWrite (e : EvRec) : Upd := read fun s =>
  let n := fld s (pwrB + R.PG_EVT_RING) 5 0
  let p := rd s (evqB + R.ER_PROD n)
  seqs [setFld (pwrB + R.PG_EVT) 5 5 1, hostWrite (rd64 s (evqB + R.ER_BASE_LO n) + (p % ringSize s n) * 64) e.bytes,
    setReg (evqB + R.ER_PROD n) (p + 1), hostWrite (rd64 s (evqB + R.ER_SHADOW_LO n)) (toBytes 4 (p + 1)),
    setReg (evqB + R.EVQ_SEQ n) (seqAfter (rd s (evqB + R.EVQ_SEQ n))), ledAdd 0x20 64 n 0 1, ledAdd 0x20 64 n 1 1,
    when (msixEnabled s) (seqs [act (.evCount n (0, 0)), msixSend n])]

/-- The newest valid save: slot and sequence. -/
def newestSave (s : State) : Option (Nat × Nat) :=
  (s.pwr.slots.filter (·.2.2.2)).foldl (fun b e => match b with
    | some (_, q) => if e.2.1 > q then some (e.1, e.2.1) else b
    | none => some (e.1, e.2.1)) none
/-- DFLT's first-fault latch, as the save record holds it: the collector's registers in page order (log 41). -/
def latchBytes (s : State) : List Byte := (regRun R.TFLT_FIRST 5).flatMap (fun o => toBytes 4 (rd s (dfltB + o)))
/-- The save record of R534 as its bytes, its CRC in place. -/
def saveBytes (s : State) (seq cause sent lost : Nat) (e : EvRec) : List Byte :=
  let js := s.jnl.store.drop (s.jnl.store.length - 256)
  let head := toBytes 4 seq ++ toBytes 1 cause ++ toBytes 1 sent ++ toBytes 2 js.length ++ toBytes 8 s.now ++ toBytes 4 (s.jnl.fill - js.length)
    ++ toBytes 4 lost ++ toBytes 4 (nextSeq s) ++ toBytes 4 s.evq.hold.length ++ toBytes 28 0
  let ring := (List.range 64).flatMap (fun x => (List.range 4).flatMap (fun b => toBytes 4 (SMap.get 0 b (tthOf s x).counts)))
  let rest := e.bytes ++ latchBytes s ++ toBytes 44 0 ++ ring ++ js.flatMap JEntry.bytes
  let body (crc : Nat) : List Byte := head ++ toBytes 4 crc ++ rest
  body (crc32c (body 0))

/-- The record is programmed into the erased slot; `ok` is false where it was cut off (R533 step 5). -/
def saveTo (seq rec : Nat) (ok : Bool) : Upd := read fun s =>
  let slot := if (SMap.find 0 s.pwr.slots).isNone then 0 else 1
  act (.pwr { s.pwr with slots := SMap.put slot (seq, rec, ok) s.pwr.slots })

/-- The power-loss sequence (R533), to its end in one step. -/
def powerLoss (cause : Nat) (ok : Bool) : Upd := read fun s =>
  let lost := s.pwr.discarded + s.jnl.bp.held.length
  let seq := (match newestSave s with | some (_, q) => (q + 1) % 2 ^ 32 | none => 1)
  seqs [setPwr 4 true, act (.pwr { s.pwr with discarded := lost }), act (.jBp { s.jnl.bp with held := [], holdAt := none }), raise pwrR 0 0,
    read fun t =>
      let e := { pwrfailRec s cause with seq := (pwrfailRec t cause).seq }
      let sent := pwrfailOpen t
      seqs [when sent (pwrfailWrite e),
        when (fld s (pwrB + R.PWR_CTRL) 0 0 = 1) (
          if fld s (pwrB + R.PWR_SAVE_STATUS) 30 30 = 1 then
            seqs [saveTo seq (ofBytes (saveBytes s seq cause (b2n sent) lost e)) ok, setFld (pwrB + R.PWR_SAVE_STATUS) 30 30 0]
          else raise pwrR 5 0)],
    read fun t => act (.pins { t.pins with pwrgd := false })]

/-- POWER_FAIL: the bus or both pairs below 38 V for 5 µs. -/
def execPowerFail (a b bus : Nat) (ok : Bool) (s : State) : Host.Outcome State Fault Refusal :=
  done (read fun s => when (decide (bus < 38000) || decide (max a b < 38000)) (seqs [noteInput a b bus, powerLoss (if s.pwr.opened = 3 then 2 else 0) ok])) s

/-- PWR_EN_LOW: the save of R537, or before Xazara runs the rails off without one (R697). -/
def execPwrEnLow (ok : Bool) (s : State) : Host.Outcome State Fault Refusal :=
  always (seqs [act (.pins { s.pins with pwrEn := false }), read fun t => when t.pins.pwrgd (
    if fld t (trkB + R.TRK_FW_STATE) 7 0 < 2 then act (.pins { t.pins with pwrgd := false }) else powerLoss 1 ok)]) s

/-- CARRIER_BUS_DISCHARGED: the bus is below 5 V with 50 V gone: THERMTRIP_N is released (R30, R691). -/
def execCarrierBusDischarged (s : State) : Host.Outcome State Fault Refusal :=
  always (act (.pins { s.pins with v50 := false, thermtrip := false, pwrgd := false })) s

/-! ## Commands of PWR and TPWR (R539) -/

/-- STAGE_RESTART. -/
def execStageRestart (o : Origin) (arg : Nat) (s : State) : Host.Outcome State Fault Refusal := done (command o (pwrB / 0x1000) 0x10 arg) s
/-- SAVE_RELEASE. -/
def execSaveRelease (o : Origin) (arg : Nat) (s : State) : Host.Outcome State Fault Refusal := done (command o (pwrB / 0x1000) 0x11 arg) s
/-- PWR_CLEAR_COUNTS. -/
def execPwrClearCounts (o : Origin) (arg : Nat) (s : State) : Host.Outcome State Fault Refusal := done (command o (pwrB / 0x1000) 0x12 arg) s
/-- CORES_APPLY. -/
def execCoresApply (o : Origin) (site arg : Nat) (s : State) : Host.Outcome State Fault Refusal := done (command o (tpwrB site / 0x1000) 0x10 arg) s
/-- DOM_SET. -/
def execDomSet (o : Origin) (site arg : Nat) (s : State) : Host.Outcome State Fault Refusal := done (command o (tpwrB site / 0x1000) 0x11 arg) s
/-- TPWR_CLEAR_COUNTS. -/
def execTpwrClearCounts (o : Origin) (site arg : Nat) (s : State) : Host.Outcome State Fault Refusal := done (command o (tpwrB site / 0x1000) 0x12 arg) s

end Sys2Proof.Machine
end

