-- ==== Sys2Proof/Machine/BootUp.lean ====
section
/-! DEFINITION. Sys2Proof/Machine/BootUp.lean: the commands of bring-up: input power, cold start, the reset pins, the tile
waves and their holds, training records and licences (R542 to R579, R694 to R699). -/
namespace Sys2Proof.Machine
open Sys2Proof

/-! ## Cold start (R535, R542, R695) -/

/-- INPUT_POWER_APPLIED. -/
def execInputPowerApplied (s : State) : Host.Outcome State Fault Refusal := always (act (.pins { s.pins with v50 := true })) s

/-- What fuses and flash hold through a loss of power: licence state, image slots, repair state, the ring-count sequence. -/
def coldKeeps (off : Nat) : Bool :=
  match Page.ofOff off with
  | none => false
  | some r =>
    let o := off % 0x1000
    match r.t with
    | .IDN => true
    | .LIC => R.LIC_STATE ≤ o ∧ o ≤ R.LIC_ID_HI
    | .FWU => R.FWU_SLOTA ≤ o ∧ o ≤ R.FWU_MIN_SVN
    | .FUS => R.FUS_DORMANT_LO ≤ o ∧ o ≤ R.FUS_RETIRED_HI
    | .THM => o = R.THM_RING_SAVE
    | .PWR => o = R.PWR_INFO
    | _ => false
/-- A channel after a loss of power: its fused repair state. -/
def Chan.cold (c : Chan) : Chan := { bad := c.bad, rmap := c.rmap, steer := c.steer }

/-- Everything but fuses and flash returns to its reset value; device time is 0 and the journal empty (R67, R506, R536). -/
def powerOnReset : Upd := seqs [
  chipReset 1, act (.regsReset (fun off => !coldKeeps off)), act .jCold, act (.now 0), act (.flt {}), ldgInitial, act (.ldgLast {}),
  read fun s => seqs [
    each s.slc (fun e => act (.slc e.1 { chans := (e.2.chans.map (fun x => (x.1, x.2.cold))).filter (fun x => x.2 ≠ {}) })),
    each s.bgh (fun e => act (.bgh e.1 {})), each s.tth (fun e => act (.tth e.1 {})), each s.thm.saved (fun e => act (.tth e.1 { counts := e.2 })),
    act (.thm { saved := s.thm.saved }), act (.clk {}), act (.pwr { slots := s.pwr.slots }),
    act (.pins { s.pins with pwrEn := true, pwrgd := true, pwrgdAt := 0, early := false })]]

/-- A word of a record. -/
def recNum (d a n : Nat) : Nat := d / 256 ^ a % 256 ^ n
/-- The ring counts and the first-fault latch return from a found record (R535). -/
def restore (d : Nat) : Upd := seqs [
  each (List.range 64) (fun x => read fun s =>
    let counts := ((List.range 4).map (fun b => (b, recNum d (192 + 16 * x + 4 * b) 4))).filter (fun e => e.2 ≠ 0)
    when (decide (counts ≠ (tthOf s x).counts)) (setTth x { tthOf s x with counts := counts })),
  each (regRun 0 5) (fun i => setReg (dfltB + R.TFLT_FIRST + i) (recNum d (128 + i) 4))]

/-- Xazara looks for the newest valid save, and makes one slot ready (R535). -/
def saveSearch : Upd := read fun s =>
  let keep := newestSave s
  let full := s.pwr.slots.length ≥ 2
  let st := pwrB + R.PWR_SAVE_STATUS
  seqs [when (s.pwr.slots.any (fun e => !e.2.2.2)) (raise pwrR 5 0),
    onSome keep fun x => onSome (SMap.find x.1 s.pwr.slots) fun v => seqs [
      act (.pwr { s.pwr with found := some x.1 }), setFld st 31 31 1, setFld st 15 0 v.1, restore v.2.1,
      evt pwrR 6 0x0706 0 (payload [(24, 4, v.1), (28, 1, 1), (32, 8, recNum v.2.1 8 8), (40, 2, recNum v.2.1 6 2)])],
    read fun t => when full (act (.pwr { t.pwr with slots := t.pwr.slots.filter (fun e => keep.map (·.1) = some e.1) })),
    setFld st 30 30 1]

/-- COLD_START: from rails off, or the seed ROM's first run after PWRGD. -/
def execColdStart (s : State) : Host.Outcome State Fault Refusal :=
  always (read fun s =>
    let fresh := s.pins.pwrgd && decide (fld s (trkB + R.TRK_FW_STATE) 7 0 = 0) && decide (fld s (trkB + R.TRK_RESET_CAUSE) 31 16 = 0) && s.pins.resetN
    when (s.pins.v50 && (!s.pins.pwrgd || fresh)) (seqs [
      when (!s.pins.pwrgd) powerOnReset,
      read fun t => when t.pins.resetN (seqs [bootRom, read fun u => when (fld u (trkB + R.TRK_FW_STATE) 7 0 = 2) saveSearch])])) s

/-! ## The reset pins (R510, R543, R544, R694, R698, R699) -/

/-- Is a chip reset held by a pin? -/
def pinHeld (s : State) : Bool :=
  (!s.pins.resetN || !s.pins.perstN) && decide (fld s (trkB + R.TRK_FW_STATE) 7 0 = 0) && decide (fld s (trkB + R.TRK_RESET_CAUSE) 31 16 ≠ 0)
/-- A pin goes low with cause bit `n`: one chip reset, whichever pins hold it. -/
def pinReset (n : Nat) : Upd := read fun s =>
  if pinHeld s then setFld (trkB + R.TRK_RESET_CAUSE) n n 1 else chipReset (2 ^ n)
/-- With both pins high the seed ROM runs again. -/
def pinsHigh : Upd := read fun s => when (s.pins.resetN && s.pins.perstN) (
  if decide (fld s (trkB + R.TRK_FW_STATE) 7 0 = 0) then bootRom else leaveReset)

/-- RESET_N_ASSERT. -/
def execResetNAssert (s : State) : Host.Outcome State Fault Refusal :=
  always (read fun s => when s.pins.resetN (seqs [when s.pins.pwrgd (pinReset 1), act (.pins { s.pins with resetN := false })])) s
/-- RESET_N_RELEASE. -/
def execResetNRelease (s : State) : Host.Outcome State Fault Refusal :=
  always (read fun s => when (!s.pins.resetN) (seqs [act (.pins { s.pins with resetN := true }), when s.pins.pwrgd pinsHigh])) s
/-- PERST_N_ASSERT. -/
def execPerstNAssert (s : State) : Host.Outcome State Fault Refusal :=
  always (read fun s => seqs [
    when (s.pins.perstN && s.pins.pwrgd) (pinReset 2), act (.pins { s.pins with perstN := false, early := false })]) s

/-- May PERST_N count as high: 100 ms after PWRGD, and at a cold start with Xazara running? (R543, R694) -/
def perstReady (s : State) : Bool :=
  s.pins.pwrgd && decide (s.now ≥ s.pins.pwrgdAt + 100000000)
    && (decide (fld s (trkB + R.TRK_FW_STATE) 7 0 ≥ 2) || decide (fld s (trkB + R.TRK_RESET_CAUSE) 31 16 ≠ 0))
/-- PERST_N goes high. -/
def perstUp : Upd := read fun s => when (!s.pins.perstN) (
  if perstReady s then seqs [act (.pins { s.pins with perstN := true, early := false }), pinsHigh]
  else act (.pins { s.pins with early := true }))
/-- PERST_N_RELEASE. -/
def execPerstNRelease (s : State) : Host.Outcome State Fault Refusal := always perstUp s
/-- PERST_N_HOLDOFF_END. -/
def execPerstNHoldoffEnd (s : State) : Host.Outcome State Fault Refusal := always (when s.pins.early perstUp) s

/-! ## Tile waves (R547 to R555) -/

/-- The wave of a site. -/
def waveOf (s : State) (site : Nat) : Option Nat := s.boot.waves.findIdx? (·.contains site)
/-- Is a site under way in its steps? -/
def underWay (s : State) (site : Nat) : Bool := s.boot.steps.any (·.1 = site)
/-- Has the site failed? -/
def bootFailed (s : State) (site : Nat) : Bool := getBit64 s (bootB + R.BOOT_FAIL_LO) site
/-- Need the next wave not wait for the site? (R549) -/
def waveFree (s : State) (site : Nat) : Bool :=
  bootFailed s site || inService s site || s.boot.freed.contains site || s.boot.alone.contains site || (underWay s site && decide (siteSub s site ≥ 4))
/-- Is the site done with its steps? -/
def bootSettled (s : State) (site : Nat) : Bool := bootFailed s site || inService s site || !siteEnabled s site

/-- Sites whose memory is powered. -/
def poweredSites (s : State) : List Nat := (enabledSites s).filter (fun x => domOn s x 0 .memory)
/-- The highest DRAM prediction of the powered sites. -/
def hotSpot (s : State) : Int := maxInt ((poweredSites s).flatMap (fun x => (List.range 4).map (predDram s x)))
/-- Does a hold apply: heat, flow or SYSREF? (R552, R696) -/
def waveHeld (s : State) : Bool := decide (hotSpot s ≥ 360) || thmBit s 0 || decide (fld s (clkB + R.CLK_STATUS) 31 31 = 0)
/-- BOOT_HOLD. -/
def holdEvent (start wave : Nat) : Upd := read fun s =>
  evt bootR 5 0x0005 0 (payload [(24, 1, start), (25, 1, wave), (26, 2, wrap 16 (hotSpot s))])
/-- The first wave that has not begun. -/
def nextWave (s : State) : Nat := (s.boot.waves.takeWhile (fun w => w.any (fun x => underWay s x || bootSettled s x))).length

/-- The step of a site is set, with its time. -/
def stepTo (site n : Nat) : Upd := read fun s => seqs [setSub site n,
  act (.boot { s.boot with steps := s.boot.steps.filter (·.1 ≠ site) ++ [(site, s.now)] })]

/-- Waves that are done are reported, and the last one moves on to pollard service (R547, R557). -/
def waveReport : Upd := read fun s => seqs [
  each ((List.range s.boot.waves.length).filter (fun w => !s.boot.waveDone.contains w && (s.boot.waves.getD w []).all (bootSettled s))) (fun w =>
    let l := s.boot.waves.getD w []
    seqs [read fun t => act (.boot { t.boot with waveDone := t.boot.waveDone ++ [w] }),
      evt bootR 0 0x0000 0 (payload [(24, 1, w), (25, 1, l.length), (28, 8, l.foldl (fun n x => n + 2 ^ x) 0), (36, 4, nowMs s)])]),
  when (bootPhase s = 2 && (enabledSites s).all (bootSettled s)) (seqs [setFld (bootB + R.BOOT_STATUS) 31 28 3, setReg (bootB + R.BOOT_T_ALL) (nowMs s)]),
  fullServiceCheck]

/-- A site fails at its step, by a source of TILE and a channel of it (512: none); its DRAM stays unpowered, and the repair
ladder takes it (R551). -/
def siteFails (site source ch : Nat) : Upd := read fun s =>
  let step := siteSub s site
  seqs [when (source < 32) (raise ⟨.TILE, site⟩ source 0), memoryOff site, setSub site 8, setBit64 (bootB + R.BOOT_FAIL_LO) site true,
    bumpFld (bootB + R.BOOT_STATUS) 6 0 1,
    read fun t => act (.boot { t.boot with steps := t.boot.steps.filter (·.1 ≠ site), alone := t.boot.alone.filter (· ≠ site) }),
    evt bootR 4 0x0004 0 (payload [(24, 1, site), (25, 1, step), (26, 1, source), (27, 1, if ch < 512 then ch % 8 else 0xFF),
      (28, 2, if ch < 512 then site * 64 + ch / 8 else 0)]),
    retireDue site 1, waveReport]

/-- Step 1: root plate, bark domain, memory and tile-common domains on. -/
def siteStart (site : Nat) : Upd := seqs [
  read fun s => when (!domOn s site 0 .root) (seqs [setFld (tpwrB site + R.TPWR_DOM) 0 0 1, each [PType.RTR, .XPR, .TFLT, .LDG] (fun t => setState ⟨t, site⟩ stRUN)]),
  read fun s => when (!domOn s site 0 .memory) (seqs [setFld (tpwrB site + R.TPWR_DOM) 2 2 1, countDom site true]),
  commonOn site, stepTo site 1]

/-- Can the channel fast-start? (R554) -/
def fastStart (s : State) (key : Nat) : Bool :=
  fld s (bootB + R.BOOT_CTRL) 0 0 = 0 && (match SMap.find key s.boot.records with
    | some t => decide ((t - layerT s (key / 8) (key % 8)).natAbs ≤ 60) | none => false)

/-- Step 3 ends: every channel is trained at 1.2 Gbit/s, by a fast start or in full, and the slices and sap units start;
`bad` are the site's channels whose short check failed (R554, R555). -/
def siteTrained (site : Nat) (bad : List Nat) : Upd := read fun s =>
  let usable := (List.range 512).filter (fun i => fastStart s (site * 512 + i))
  let failed := (usable.filter bad.contains).length
  let fast := usable.length - failed
  let t := Page.tile .TILE site + R.TILE_TRAIN
  seqs [
    each (List.range 512) (fun i => seqs [setFld (slcB (site * 64 + i / 8) + R.CH_STATUS (i % 8)) 25 25 0, setChState (site * 64 + i / 8) (i % 8) 2,
      setFld (slcB (site * 64 + i / 8) + R.CH_TEMP (i % 8)) 31 16 (wrap 16 (layerT s (site * 64 + i / 8) (i % 8)))]),
    setReg t (fast * 2 ^ 16 + (512 - fast)),
    bumpFld (bootB + R.BOOT_TRAIN) 31 16 fast, bumpFld (bootB + R.BOOT_TRAIN) 15 0 (512 - fast),
    bumpFld (bootB + R.BOOT_CHECK_FAIL) 15 0 failed, bumpFld (bootB + R.BOOT_CHECK_FAIL) 31 16 (512 - usable.length),
    each [PType.SLC, .SAP] (fun p => each (List.range 64) (fun c => seqs [setState ⟨p, site * 64 + c⟩ stIDLE, fwStart ⟨p, site * 64 + c⟩]))]

/-- A training in full is not waited for (R549). -/
def trainsInFull (s : State) (site : Nat) (bad : List Nat) : Bool := (List.range 512).any (fun i => bad.contains i || !fastStart s (site * 512 + i))

/-- Step 6: the site enters pollard service (R557); a fence left from a stage or rail fault is lifted. -/
def siteServes (site : Nat) : Upd := seqs [
  act (.memClear (fun d => d / 2 ^ 35 = site)), setBit64 (Page.trunk .CLK + R.CLK_FENCED_LO) site false,
  setState ⟨.TILE, site⟩ stIDLE, fwStart ⟨.TILE, site⟩, setSub site 6, setReg (Page.tile .TILE site + R.TILE_SERVE_T) 0,
  read fun s => seqs [setReg (Page.tile .TILE site + R.TILE_SERVE_T) (nowMs s),
    when (fld s (bootB + R.BOOT_T_FIRST) 31 0 = 0) (setReg (bootB + R.BOOT_T_FIRST) (nowMs s)),
    act (.boot { s.boot with steps := s.boot.steps.filter (·.1 ≠ site), alone := s.boot.alone.filter (· ≠ site), val := SMap.del site s.boot.val })],
  setBit64 (bootB + R.BOOT_SERVE_LO) site true, setBit64 (bootB + R.BOOT_FAIL_LO) site false,
  read fun s => evt bootR 1 0x0001 0 (payload [(24, 1, site), (26, 2, fld s (Page.tile .TILE site + R.TILE_TRAIN) 25 16),
    (28, 2, fld s (Page.tile .TILE site + R.TILE_TRAIN) 9 0), (32, 4, readReg s (bootB + R.BOOT_CAP)), (36, 4, readReg s (bootB + R.BOOT_BW))]),
  waveReport]

/-- The last site of a wave is past step 2: the broadcast of the tile part to it has ended (R672). -/
def tpReport (site : Nat) : Upd := read fun s => onSome (waveOf s site) fun n =>
  let w := s.boot.waves.getD n []
  when (!s.boot.alone.contains site && w.all (fun x => bootSettled s x || (underWay s x && decide (3 ≤ siteSub s x))))
    (tpDone evt w.length (w.filter (bootFailed s)).length)
/-- A site's present step ends and the next begins; at step 2 `fail` is the channel that fails the self-test twice, or 512 for a tile
part that cannot be loaded or fails its digest. -/
def siteNext (site : Nat) (bad : List Nat) (fail : Option Nat) : Upd := read fun s =>
  match siteSub s site with
  | 1 => stepTo site 2
  | 2 => seqs [match fail with
    | some ch => if ch < 512 then siteFails site 0 ch else seqs [raise ⟨.BCST, site⟩ 1 0, siteFails site 0xFF 512]
    | none => seqs [tpLoaded site, stepTo site 3, when (trainsInFull s site bad) (read fun t => act (.boot { t.boot with freed := t.boot.freed ++ [site] }))],
      tpReport site]
  | 3 => seqs [siteTrained site bad, stepTo site 4]
  | 4 => seqs [each (List.range 64) (coreOn site), stepTo site 5]
  | _ => siteServes site

/-- May the site's own wave begin: the one before has trained? -/
def waveMay (s : State) (site : Nat) : Bool :=
  match waveOf s site with
  | none => false
  | some 0 => true
  | some (w + 1) => (s.boot.waves.getD w []).all (waveFree s)
/-- A site alone waits for the waves to have ended (R551). -/
def aloneMay (s : State) (site : Nat) : Bool := s.boot.alone.contains site && s.boot.waves.all (fun w => w.all (fun x => bootSettled s x || x = site))

/-- A site of the waves, or alone, goes one step on, if its turn has come and no hold applies. -/
def siteWave (site : Nat) (bad : List Nat) (fail : Option Nat) : Upd := read fun s =>
  let turn := waveMay s site && !s.boot.alone.contains site
  when (siteEnabled s site && decide (fld s (tthB site + R.TTHM_STATE) 8 8 = 0) && decide (bootPhase s = 2 ∨ bootPhase s = 3 ∨ bootPhase s = 4) && !bootFailed s site && !inService s site) (
    if underWay s site then siteNext site bad fail
    else if turn && waveHeld s && !underWay s site && !(s.boot.waves.getD ((waveOf s site).getD 0) []).any (underWay s) then
      when s.boot.holdAt.isNone (seqs [act (.boot { s.boot with holdAt := some s.now }), setFld (bootB + R.BOOT_STATUS) 27 27 1, holdEvent 1 (nextWave s)])
    else if turn && s.boot.holdAt.isNone then seqs [setFld (bootB + R.BOOT_STATUS) 23 20 ((waveOf s site).getD 0), siteStart site]
    else when (aloneMay s site) (siteStart site))

/-- TILE_WAVE. -/
def execTileWave (site : Nat) (bad : List Nat) (fail : Option Nat) (s : State) : Host.Outcome State Fault Refusal := done (siteWave site bad fail) s

/-- The limit of a step in ns. -/
def stepLimit : Nat → Nat
  | 1 => 5000000 | 2 => 50000000 | 3 => 6000000000 | 4 => 5000000 | _ => 5000000
/-- TILE_STEP_TIMEOUT. -/
def execTileStepTimeout (site : Nat) (s : State) : Host.Outcome State Fault Refusal :=
  done (read fun s => onSome (s.boot.steps.find? (·.1 = site)) fun e =>
    when (s.now > e.2 + stepLimit (siteSub s site)) (siteFails site 1 512)) s

/-- THERMAL_HOLD_RELEASE: the condition has been clear for 10 ms. -/
def execThermalHoldRelease (s : State) : Host.Outcome State Fault Refusal :=
  done (read fun s => when (s.boot.holdAt.isSome && !waveHeld s) (seqs [
    act (.boot { s.boot with holdAt := none }), setFld (bootB + R.BOOT_STATUS) 27 27 0, holdEvent 0 (nextWave s)])) s
/-- BOOT_WAVE_STALL. -/
def execBootWaveStall (s : State) : Host.Outcome State Fault Refusal :=
  done (read fun s => onSome s.boot.holdAt fun t => when (s.now > t + 10000000000) (raise bootR 1 0)) s

/-! ## Commands of BOOT and LIC (R573, R575) -/

/-- SETTINGS_SAVE. -/
def execSettingsSave (o : Origin) (arg : Nat) (s : State) : Host.Outcome State Fault Refusal := done (command o (bootB / 0x1000) 0x10 arg) s
/-- SETTINGS_ERASE. -/
def execSettingsErase (o : Origin) (arg : Nat) (s : State) : Host.Outcome State Fault Refusal := done (command o (bootB / 0x1000) 0x11 arg) s
/-- LIC_INSTALL. -/
def execLicInstall (o : Origin) (arg : Nat) (s : State) : Host.Outcome State Fault Refusal := done (command o (licB / 0x1000) 0x10 arg) s
/-- LIC_CANCEL. -/
def execLicCancel (o : Origin) (arg : Nat) (s : State) : Host.Outcome State Fault Refusal := done (command o (licB / 0x1000) 0x11 arg) s
/-- LIC_STAGE_CLEAR. -/
def execLicStageClear (o : Origin) (arg : Nat) (s : State) : Host.Outcome State Fault Refusal := done (command o (licB / 0x1000) 0x12 arg) s

end Sys2Proof.Machine
end

