-- ==== Sys2Proof/Machine/Fabric.lean ====
section
/-! DEFINITION. Sys2Proof/Machine/Fabric.lean: packets at routers and at their endpoints, credits, links, detours, and the send port
(R417 to R434, R453 to R458). -/
namespace Sys2Proof.Machine
open Sys2Proof

/-! ## Credits (R422) -/

/-- Change the packet at place `pos`. -/
def setPkt (pos : Nat) (p : Pkt) : Upd := modPkts (fun l => l.set pos p)
/-- The packet at place `pos` leaves the fabric. -/
def dropAt (pos : Nat) : Upd := modPkts (fun l => l.eraseIdx pos)

/-- A packet leaves the buffer it is in: its credit sets out for the sender. A buffer held since before the link was reconciled is
offered once more instead. -/
def freeBuffer (p : Pkt) : Upd := read fun s => when (p.via ≠ 255) (onSome (gridNbr p.node p.via) fun m =>
  let l := opp p.node p.via
  let i := credIdx l p.vc p.cls
  if p.old then when (linkSt s m l = 1) (modRtr m (fun x =>
      let n := offered s m l p.vc p.cls + 1
      { x with offer := SMap.set (fullCred l p.cls) i n x.offer }))
  else modRtr m (fun x => { x with owed := SMap.set 0 i (SMap.get 0 i x.owed + 1) x.owed }))

/-- CREDIT_RETURN at the sender: a credit on its way arrives; one beyond the buffers offered is RTR_credit. -/
def creditBack (n l vc cls : Nat) : Upd := read fun s =>
  let i := credIdx l vc cls
  let x := rtrOf s n
  let u := unreturned s n l vc cls
  when (linkSt s n l = 1) (
    if SMap.get 0 i x.owed > 0 ∧ u > 0 then seqs [setRtr n { x with owed := SMap.set 0 i (SMap.get 0 i x.owed - 1) x.owed, used := SMap.set 0 i (u - 1) x.used }, fabLed n i 4 1]
    else when (u = 0 && decide (n < 64)) (raise (rtrR n) 2 0))

/-- CREDIT_RETURN. -/
def execCreditReturn (node link vc cls : Nat) (s : State) : Host.Outcome State Fault Refusal := done (creditBack node link vc cls) s

/-! ## Routing (R420 to R430) -/

/-- The node of an endpoint, for a packet now at `n`: a trunk unit lies below every column. -/
def dstNode (n dst : Nat) : Nat := if bit dst 12 then 64 + n % 8 else dst / 64
/-- Has the packet reached its destination's router? -/
def arrived (p : Pkt) : Bool := if bit p.dst 12 then decide (64 ≤ p.node) else p.node = p.dst / 64
/-- The first link of the way from `n` to `d` by XY: east or west to the column, then north or south; a packet for the trunk goes south in
its own column, one from it north. -/
def stepXY (n d : Nat) : Nat :=
  if 64 ≤ n then 0 else if 64 ≤ d then 2
  else if n % 8 < d % 8 then 1 else if d % 8 < n % 8 then 3 else if n / 8 < d / 8 then 0 else 2
/-- The first link by YX. -/
def stepYX (n d : Nat) : Nat :=
  if 64 ≤ n then 0 else if 64 ≤ d then 2
  else if n / 8 < d / 8 then 0 else if d / 8 < n / 8 then 2 else if n % 8 < d % 8 then 1 else 3
/-- Manhattan distance of two sites. -/
def manhattan (a b : Nat) : Nat := (max (a % 8) (b % 8) - min (a % 8) (b % 8)) + (max (a / 8) (b / 8) - min (a / 8) (b / 8))
/-- A router's detour entry for a site. -/
def detour (s : State) (n d : Nat) : Nat := fld s (rtrB n + R.RTR_DETOUR (d / 16)) (2 * (d % 16) + 1) (2 * (d % 16))
/-- May the packet take the express from here to its destination? -/
def expressOk (s : State) (p : Pkt) (d : Nat) : Bool := decide (p.node < 64 ∧ d < 64) && !p.xpr && xprRuns s p.node && linkSt s p.node (32 + d) = 1

/-- Where a packet goes next: a link and its class from there on; the express; or nowhere. `detD` and `detX` mark the moves that the
detour counters count. -/
inductive Route where
  | link (l cls : Nat) (detD : Bool)
  | express (detX : Bool)
  | dead (answered : Bool)
deriving DecidableEq, Repr

/-- The move of R426 from here on. -/
def hopRoute (s : State) (p : Pkt) (d : Nat) : Route :=
  let yx (det : Bool) : Route := if linkSt s p.node (stepYX p.node d) = 1 then .link (stepYX p.node d) 1 det
    else if expressOk s p d then .express true else .dead false
  if p.cls = 0 then (if linkSt s p.node (stepXY p.node d) = 1 then .link (stepXY p.node d) 0 false else yx true) else yx false
/-- The first rule of R425 that applies at the source. -/
def sourceRoute (s : State) (p : Pkt) (d : Nat) : Route :=
  if 64 ≤ p.node ∨ 64 ≤ d then hopRoute s { p with cls := 0 } d
  else
    let x : Route := if expressOk s p d then .express false else .dead false
    if p.force ∨ detour s p.node d = 2 then x
    else if detour s p.node d = 3 then .dead true
    else if manhattan p.node d > fld s (rtrB p.node + R.RTR_CTRL) 3 0 then x
    else if detour s p.node d = 1 then hopRoute s { p with cls := 1 } d
    else hopRoute s { p with cls := 0 } d
/-- The route of a packet. -/
def routeOf (s : State) (p : Pkt) : Route := if p.via = 255 then sourceRoute s p (dstNode p.node p.dst) else hopRoute s p (dstNode p.node p.dst)

/-- Is it a request, which is answered? -/
def isReq (p : Pkt) : Bool := p.typ ≤ 5 || p.typ = 0x20
/-- Answer a request from node `n` with a status; a packet that is no request is gone. -/
def answer (n : Nat) (p : Pkt) (status len data : Nat) (pz : Bool) : Upd :=
  when (isReq p) (inject { typ := 0x10, vc := 1, src := p.dst, dst := p.src, addr := p.addr, tag := p.tag, org := p.org, status := status, len := len, data := data, pz := pz, node := n })
/-- Count at a site's router. -/
def rtrCount (n o k : Nat) : Upd := when (n < 64) (bump (rtrB n + o) k)

/-- A packet is answered DEAD by the router that holds it; `unreach`: no rule can move it (R426). -/
def answerDead (pos : Nat) (p : Pkt) (unreach : Bool) : Upd := seqs [
  dropAt pos, freeBuffer p, rtrCount p.node R.RTR_CNT_DEAD 1, answer p.node p 2 0 0 false, when (unreach && decide (p.node < 64)) (raise (rtrR p.node) 4 0)]

/-- Does an earlier packet of the same source, destination and VC stand before it in the same place, both in class X (R428)? -/
def orderHeld (l : List Pkt) (pos : Nat) (p : Pkt) : Bool :=
  p.cls = 0 && (l.take pos).any (fun q => q.src = p.src && q.dst = p.dst && q.vc = p.vc && q.cls = 0 && q.node = p.node && q.via = p.via && !q.ejected)

/-- A packet is sent over link `l` of its node: it takes a credit and frees the buffer it was in. -/
def sendOver (pos : Nat) (p : Pkt) (l cls m : Nat) : Upd := read fun s =>
  let i := credIdx l p.vc cls
  when (decide (credHeld s p.node l p.vc cls > 0)) (seqs [
    freeBuffer p, modRtr p.node (fun x => { x with used := SMap.set 0 i (SMap.get 0 i x.used + 1) x.used }), fabLed p.node i 3 1,
    rtrCount p.node R.RTR_CNT_FWD 1, when (decide (32 ≤ l)) (seqs [bump (xprB p.node + R.XPR_CNT_TX) 1, bump (xprB m + R.XPR_CNT_RX) 1]),
    setPkt pos { p with node := m, via := if l < 4 then opp p.node l else 32 + p.node, cls := cls, xpr := p.xpr || decide (32 ≤ l), hops := (p.hops + 1) % 256, old := false }])

/-- A packet at its destination's router: a request to a tile in OFF or RESET is answered RETRY_LATER, one to a retired site DEAD, a response
to a tile that is down is discarded and counted; every other leaves the router for its endpoint (R429, R430). -/
def eject (pos : Nat) (p : Pkt) : Upd := read fun s =>
  let site := p.dst / 64
  let tile := decide (p.node < 64)
  let mine := p.typ ≠ 0x05 && p.typ ≠ 0x30
  if tile && tileDead s site && mine && isReq p then answerDead pos p false
  else if tile && tileRetry s site && mine && isReq p && (p.vc = 0 || p.vc = 2) then
    seqs [dropAt pos, freeBuffer p, rtrCount p.node R.RTR_CNT_RETRY 1, answer p.node p 1 0 0 false]
  else if tile && (tileRetry s site || tileDead s site) && p.typ = 0x10 then seqs [dropAt pos, freeBuffer p, rtrCount p.node R.RTR_CNT_EJECT 1, reqLed (p.dst % 4096) 5 1]
  else seqs [setPkt pos { p with ejected := true, via := 255, old := false }, freeBuffer p, rtrCount p.node R.RTR_CNT_EJECT 1]

/-- A packet whose CRC fails, or whose type is illegal, is discarded; its credit returns (R420, R421). -/
def discardBad (pos : Nat) (p : Pkt) : Upd := seqs [
  dropAt pos, freeBuffer p, rtrCount p.node R.RTR_CNT_CRC 1,
  when (decide (p.node < 64)) (if p.via < 4 then raise (rtrR p.node) 1 0 else raise (xprR p.node) 2 0)]
/-- The codes of R420. -/
def legalType (t : Nat) : Bool := (decide (1 ≤ t ∧ t ≤ 5)) || t = 0x10 || t = 0x20 || t = 0x30

/-- The packet at place `pos` moves on; `bad`: its CRC fails as it arrives. -/
def routePkt (pos : Nat) (bad : Bool) : Upd := read fun s => onSome s.fab.pkts[pos]? fun p =>
  when (!p.ejected && rtrRuns s p.node) (
    if (bad && p.via ≠ 255) || !legalType p.typ then discardBad pos p
    else when (!orderHeld s.fab.pkts pos p) (
      if arrived p then eject pos p
      else match routeOf s p with
        | .dead false => answerDead pos p true
        | .dead true => answerDead pos p false
        | .link l cls det => onSome (gridNbr p.node l) fun m => seqs [
            when (det && decide (credHeld s p.node l p.vc cls > 0)) (rtrCount p.node R.RTR_CNT_DETOUR_D 1), sendOver pos p l cls m]
        | .express det => seqs [
            when (det && decide (credHeld s p.node (32 + dstNode p.node p.dst) p.vc 0 > 0)) (rtrCount p.node R.RTR_CNT_DETOUR_X 1),
            sendOver pos p (32 + dstNode p.node p.dst) p.cls (dstNode p.node p.dst)]))

/-- PACKET_ROUTE. -/
def execPacketRoute (pos : Nat) (bad : Bool) (s : State) : Host.Outcome State Fault Refusal := done (routePkt pos bad) s

/-! ## Endpoints (R420, R423) -/

/-- Act on the packet of a type that has been ejected at place `pos`; no earlier one of its source, destination and VC waits. -/
def atEnd (pos typ : Nat) (f : Pkt → Upd) : Upd := read fun s => onSome s.fab.pkts[pos]? fun p =>
  when (p.ejected && p.typ = typ && !(s.fab.pkts.take pos).any (fun q => q.ejected && q.src = p.src && q.dst = p.dst && q.vc = p.vc)) (f p)
/-- It is answered and gone. -/
def reply (pos : Nat) (p : Pkt) (status len data : Nat) (pz : Bool) : Upd := seqs [dropAt pos, answer p.node p status len data pz]

/-- A read at its slice: what the slice has no answer for waits in its queue. -/
def serveRead (pos : Nat) (p : Pkt) : Upd := read fun s =>
  match reachRange s p.addr p.op0 with
  | .retry => skip
  | .dead => reply pos p 2 0 0 false
  | .ok => let m := memRead s p.addr p.op0
    reply pos p 0 p.op0 m.1 m.2
/-- RD_REQ. -/
def execRdReq (pos : Nat) (s : State) : Host.Outcome State Fault Refusal := done (atEnd pos 0x01 (serveRead pos)) s

/-- A write at its slice: whole or not at all; poison is written as poison. -/
def serveWrite (pos : Nat) (p : Pkt) : Upd := read fun s =>
  match reachRange s p.addr p.len with
  | .retry => skip
  | .dead => reply pos p 2 0 0 false
  | .ok => seqs [if p.pz then memPoison p.addr p.len else memWrite p.addr (toBytes p.len p.data), reply pos p 0 0 0 false]
/-- WR_REQ. -/
def execWrReq (pos : Nat) (s : State) : Host.Outcome State Fault Refusal := done (atEnd pos 0x02 (serveWrite pos)) s
/-- BULK. -/
def execBulk (pos : Nat) (s : State) : Host.Outcome State Fault Refusal := done (atEnd pos 0x20 (serveWrite pos)) s

/-- An atomic at its slice: the old value answers; a poisoned target gives poison and is not written (R106, R119). -/
def serveAtomic (pos : Nat) (p : Pkt) : Upd := read fun s =>
  match reachRange s p.addr p.wid with
  | .retry => skip
  | .dead => reply pos p 2 0 0 false
  | .ok =>
    let old := memRead s p.addr p.wid
    let new := if !p.cas then (old.1 + p.op0) % 2 ^ (8 * p.wid) else if old.1 = p.op1 then p.op0 else old.1
    seqs [when (!old.2) (memWrite p.addr (toBytes p.wid new)), reply pos p 0 p.wid old.1 old.2]
/-- ATOMIC. -/
def execAtomic (pos : Nat) (s : State) : Host.Outcome State Fault Refusal := done (atEnd pos 0x03 (serveAtomic pos)) s

/-- A signal at its core: a core that takes none is tried again; a count beyond 65,535 is refused (R102). -/
def serveSig (pos : Nat) (p : Pkt) : Upd := read fun s =>
  let g := p.dst % 4096
  let k := p.op0 % 64
  let n := bits p.op0 31 16
  if !takesSignal s g then reply pos p 1 0 0 false
  else if tokOver s g k n then reply pos p 3 0 0 false
  else seqs [addTok g k n, reply pos p 0 0 0 false]
/-- SIGTOK_PACKET. -/
def execSigtokPacket (pos : Nat) (s : State) : Host.Outcome State Fault Refusal := done (atEnd pos 0x04 (serveSig pos)) s

/-- A register access at the bus: a read answers its value, a write once the journal has taken it (R47, R75, R96). -/
def serveReg (pos : Nat) (p : Pkt) : Upd := read fun s =>
  let o := originOf p.org
  let waiting (t : State) : Bool := t.jnl.bp.held.contains (.reg o p.addr 4 p.data)
  if p.len = 0 then seqs [reply pos p 0 4 (busRead s o p.addr) false, readEffect o p.addr]
  else if p.held then when (!waiting s) (reply pos p 0 0 0 false)
  else seqs [setPkt pos { p with held := true }, busWrite o p.addr 4 p.data, read fun t => when (!waiting t) (reply pos p 0 0 0 false)]
/-- REG_REQ. -/
def execRegReq (pos : Nat) (s : State) : Host.Outcome State Fault Refusal := done (atEnd pos 0x05 (serveReg pos)) s

/-! ## Responses (R102, R118, R119, R127, R271, R454) -/

/-- The response to a thread's operation in slot `i`. -/
def opAnswered (g th i : Nat) (m : MemOp) (p : Pkt) : Upd :=
  let load := m.kind = .ld || m.kind = .aadd || m.kind = .acas
  let dead : Upd := when (eaSpace m.ea = 0) (deadDpa m.ea (coreOrg g) load)
  let again : Upd := read fun s => let t := thr s g th
    setThr g th { t with slots := t.slots.set i { m with again := true } }
  match p.status with
  | 0 => if m.kind = .sig then seqs [tokLed g 1 m.val, freeSlot g th i 1 id]
      else if load then land g th i 1 m (if m.kind = .ld then extend m.size p.data else p.data) p.pz cPLoad
      else freeSlot g th i 1 id
  | 1 => again
  | 2 => if m.kind = .sig then again else if load then seqs [dead, land g th i 1 m 0 true cPLoad] else seqs [dead, freeSlot g th i 1 id]
  | _ => seqs [tokLed g 2 m.val, freeSlot g th i 1 (·.erred m.pc), thrFault g th cTokOvf 0]

/-- The response to a packet of a SEND, or to its signal. -/
def sendAnswered (g : Nat) (r : SendRun) (p : Pkt) : Upd :=
  let put (r : SendRun) : Upd := modSnd g (fun x => { x with run := some r })
  match r.outs.find? (·.1 = p.tag) with
  | some o =>
    let gone := { r with outs := r.outs.filter (·.1 ≠ p.tag) }
    if p.status = 1 then put { r with outs := r.outs.map (fun x => if x.1 = p.tag then (x.1, x.2.1, x.2.2.1, true) else x) }
    else seqs [when (p.status = 2) (deadDpa (r.op.d + o.2.1) (coreOrg g) false), put gone, sndGo g]
  | none => onSome r.sig fun x =>
    if p.status = 0 then seqs [tokLed g 1 1, sendEnds g r, sndGo g]
    else if p.status = 3 then seqs [tokLed g 2 1, sndPop g, engError g r.op cTokOvf 0 false, sndGo g]
    else put { r with sig := some (x.1, x.2.1, true) }
/-- Does the SEND wait for this tag? -/
def SendRun.waits (r : SendRun) (tag : Nat) : Bool := r.outs.any (·.1 = tag) || (match r.sig with | some x => x.1 = tag | none => false)

/-- A response at its core: for the operation that waits for it, else late: discarded and counted. -/
def serveRsp (pos : Nat) (p : Pkt) : Upd := read fun s =>
  let g := p.dst % 4096
  let hit := (coreThreads s g).findSome? (fun e => (e.2.slots.findIdx? (fun m => m.tag = some p.tag && !m.again)).map (fun i => (e.1, i)))
  seqs [dropAt pos, match hit with
    | some (th, i) => onSome (thr s g th).slots[i]? (fun m => opAnswered g th i m p)
    | none => match (sndOf s g).run with
      | some r => if r.waits p.tag then sendAnswered g r p else reqLed g 5 1
      | none => reqLed g 5 1]
/-- RSP. -/
def execRsp (pos : Nat) (s : State) : Host.Outcome State Fault Refusal := done (atEnd pos 0x10 (serveRsp pos)) s

/-! ## Detours (R425, R427, R502) -/

/-- Is every link of the way UP? `step` gives the next link. -/
def pathUp (s : State) (step : Nat → Nat → Nat) (d : Nat) : Nat → Nat → Bool
  | 0, n => n = d
  | k + 1, n => n = d || (linkSt s n (step n d) = 1 && (match gridNbr n (step n d) with | some m => pathUp s step d k m | none => false))
/-- The entry of router `n` for site `d`: 3 for a site that is fenced, has no router or lost it; XY and YX while their way is UP; else
the express; else 3. -/
def detourFor (s : State) (n d : Nat) : Nat :=
  if n = d then 0
  else if fenced s d || !present s d || islandLost s 1 d 0 then 3
  else if pathUp s stepXY d 14 n then 0 else if pathUp s stepYX d 14 n then 1
  else if linkSt s n (32 + d) = 1 && xprRuns s n then 2 else 3
/-- The four words of a router's table. -/
def detourWords (s : State) (n : Nat) : Nat := (List.range 64).foldl (fun v d => v + detourFor s n d * 4 ^ d) 0
/-- The words a router holds. -/
def detourHeld (s : State) (n : Nat) : Nat := (List.range 4).foldl (fun v i => v + rd s (rtrB n + R.RTR_DETOUR i) * 2 ^ (32 * i)) 0

/-- Trunk firmware sends every router whose table is to change its new table (R420, R427); `site` is the site whose state changed. -/
def detourRewrite (site : Nat) : Upd := read fun s =>
  each ((List.range 64).filter (fun n => rtrRuns s n && nodeUp s n && detourWords s n ≠ detourHeld s n)) (fun n =>
    inject { typ := 0x30, vc := 3, src := 0x1000, dst := n * 64, addr := rtrB n + R.RTR_DETOUR 0, len := 32, data := detourWords s n, org := 0x2000, op1 := site, node := 64 + n % 8 })
/-- DETOUR_REWRITE. -/
def execDetourRewrite (site : Nat) (s : State) : Host.Outcome State Fault Refusal := done (detourRewrite site) s

/-- A detour table update at its router: the registers are written as trunk firmware's, and DETOUR_CHANGED names the entries. -/
def serveMgmt (pos : Nat) (p : Pkt) : Upd := read fun s =>
  let n := p.dst / 64
  let old := detourHeld s n
  let new := p.data % 2 ^ 128
  let diff := (List.range 64).foldl (fun v d => if bits old (2 * d + 1) (2 * d) = bits new (2 * d + 1) (2 * d) then v else v + 2 ^ d) 0
  seqs [dropAt pos, when (p.addr = rtrB n + R.RTR_DETOUR 0) (seqs [
    each (List.range 4) (fun i => when (bits old (32 * i + 31) (32 * i) ≠ bits new (32 * i + 31) (32 * i)) (busWrite (originOf p.org) (rtrB n + R.RTR_DETOUR i) 4 (bits new (32 * i + 31) (32 * i)))),
    when (diff ≠ 0) (evt (rtrR n) 2 0x0602 0 (payload [(24, 8, diff), (32, 1, p.op1)]))])]
/-- MGMT. -/
def execMgmt (pos : Nat) (s : State) : Host.Outcome State Fault Refusal := done (atEnd pos 0x30 (serveMgmt pos)) s

/-! ## Links (R431 to R434) -/

/-- A link is marked DOWN, and its page raises its source; `cut`: the packet that was arriving is cut off, discarded and not counted as
lost here. -/
def linkGone (n l : Nat) (cut : Bool) : Upd := read fun s => when (linkSt s n l = 1 && (rtrRuns s n)) (
  let last := (List.range s.fab.pkts.length).reverse.find? (fun i => match s.fab.pkts[i]? with | some p => p.node = n && p.via = l && !p.ejected | none => false)
  seqs [when cut (onSome last fun i => seqs [dropAt i, rtrCount n R.RTR_CNT_TRUNC 1]), linkLoss evt n l 0,
    when (decide (n < 64)) (if l < 4 then raise (rtrR n) 0 0 else raise (xprR n) 0 0)])
/-- LINK_HEARTBEAT_TIMEOUT. -/
def execLinkHeartbeatTimeout (node link : Nat) (cut : Bool) (s : State) : Host.Outcome State Fault Refusal :=
  done (when (link < 4) (linkGone node link cut)) s

/-- An express peer answers a probe, or not: 2 µs without an answer mark it DOWN. -/
def probePeer (site peer : Nat) (ok : Bool) : Upd := read fun s =>
  let x := rtrOf s site
  let l := 32 + peer
  let first := (SMap.find peer x.probe).getD s.now
  when (xprRuns s site && (farEnd s site l).isSome) (
    if ok then setRtr site { x with probe := SMap.del peer x.probe }
    else seqs [setRtr site { x with probe := SMap.put peer first x.probe }, bump (xprB site + R.XPR_CNT_PROBE_MISS) 1,
      when (decide (s.now ≥ first + 2000)) (linkGone site l false)])
/-- EXPRESS_PROBE. -/
def execExpressProbe (site peer : Nat) (ok : Bool) (s : State) : Host.Outcome State Fault Refusal := done (probePeer site peer ok) s

/-- RECON_START. -/
def execReconStart (node link : Nat) (s : State) : Host.Outcome State Fault Refusal :=
  done (read fun s => when (linkSt s node link = 2 && (match farEnd s node link with | some m => rtrRuns s node && rtrRuns s m | none => false)) (reconStart node link)) s

/-- Buffers of `m`'s end of a link that are free, per VC and class: those that packets from it still hold are not. -/
def freeAt (s : State) (n l vc cls : Nat) : Nat :=
  match gridNbr n l with
  | none => 0
  | some m => fullCred l cls - (s.fab.pkts.filter (fun p => p.node = m && p.via = opp n l && p.vc = vc && p.cls = cls && !p.ejected)).length
/-- One end of a link takes the far end's offer for its credits; the difference goes to the ledger as reconciled. -/
def takeOffer (n l : Nat) : Upd := read fun s =>
  let c := linkCreds l
  let diff (vc : Nat × Nat) : Nat := (freeAt s n l vc.1 vc.2 + 2 ^ 32 - credHeld s n l vc.1 vc.2) % 2 ^ 32
  seqs [each c (fun vc => let i := credLed n (credIdx l vc.1 vc.2)
      when (diff vc ≠ 0) (seqs [fabLed n (credIdx l vc.1 vc.2) 6 (diff vc), reconciled evt i.2.1 i.1 4 i.2.2 0 (diff vc)])),
    modRtr n (fun x => c.foldl (fun x vc =>
      let i := credIdx l vc.1 vc.2
      { x with used := SMap.del i x.used, owed := SMap.del i x.owed, offer := SMap.set (fullCred l vc.2) i (freeAt s n l vc.1 vc.2) x.offer })
      { x with links := SMap.del l x.links, began := SMap.del l x.began }),
    when (decide (n < 64)) (evt (linkPage n l).1 1 0x0601 0 (payload ([(24, 1, (linkPage n l).2), (25, 1, 0)]
      ++ perVc (fun v => (linkClasses l).foldl (fun k c => k + freeAt s n l v c) 0))))]
/-- Both offers are in, and both ends confirm: the link is UP. -/
def reconOffer (n l : Nat) : Upd := read fun s => onSome (farEnd s n l) fun m =>
  when (linkSt s n l = 3 && linkSt s m (opp n l) = 3) (seqs [
    takeOffer n l, takeOffer m (opp n l),
    modPkts (fun ps => ps.map (fun p => if !p.ejected && ((p.node = n && p.via = l) || (p.node = m && p.via = opp n l)) then { p with old := true } else p)),
    reconDone n l 1, reconDone m (opp n l) 1])
/-- RECON_OFFER. -/
def execReconOffer (node link : Nat) (s : State) : Host.Outcome State Fault Refusal := done (reconOffer node link) s

/-- RECON_TIMEOUT. -/
def execReconTimeout (node link : Nat) (s : State) : Host.Outcome State Fault Refusal :=
  done (read fun s => when (linkSt s node link = 3 && decide (s.now ≥ SMap.get 0 link (rtrOf s node).began + 100000)) (seqs [
    modRtr node (fun x => { x with links := SMap.put link 2 x.links, began := SMap.del link x.began }), reconDone node link 7])) s

/-- EXPRESS_LASER_OUT_OF_RANGE. -/
def execExpressLaserOutOfRange (site lane : Nat) (s : State) : Host.Outcome State Fault Refusal := done (when (lane < 8) (raise (xprR site) 1 0)) s

/-! ## The send instructions (R453 to R455) -/

/-- SEND reads rd as an address; BSEND writes rd; BCRED takes s0 for ra and rd. -/
def shSend : Shape := ⟨fun _ => false, fun w => engReads w true⟩
/-- BSEND. -/
def shBsend : Shape := ⟨fun _ => false, fun w => f1 w :: engReads w false⟩
/-- BCRED. -/
def shBcred : Shape := ⟨fun w => f1 w ≠ 0 || f2 w ≠ 0, fun w => engReads w false⟩
/-- Issue an instruction to the send port. -/
def sndIssue (g th op w : Nat) (sh : Shape) (readsRd wr : Bool) : Upd :=
  issue g th w sh (fun t => toEngine g th op w 6 readsRd wr (fun s => sndRoom s g)
    (fun o => seqs [modSnd g (fun x => { x with q := x.q ++ [{ o with after := t.slots.map (fun m => (m.pc, m.time)) }] }), sndGo g]) t)
/-- SEND. -/
def execSend (core th w : Nat) (s : State) : Host.Outcome State Fault Refusal := done (sndIssue core th 0xA0 w shSend true false) s
/-- BSEND. -/
def execBsend (core th w : Nat) (s : State) : Host.Outcome State Fault Refusal := done (sndIssue core th 0xA1 w shBsend false true) s
/-- BCRED. -/
def execBcred (core th w : Nat) (s : State) : Host.Outcome State Fault Refusal := done (sndIssue core th 0xA2 w shBcred false false) s

/-- The packets of a SEND, or its signal, that were answered RETRY_LATER are sent again under new tags. -/
def sendRetry (g : Nat) : Upd := seqs [
  read fun s => onSome (sndOf s g).run fun r => each (r.outs.filter (·.2.2.2)) (fun o => read fun t => onSome (sndOf t g).run fun r' => seqs [
    modSnd g (fun x => { x with run := some { r' with outs := r'.outs.map (fun y => if y.1 = o.1 then (t.fab.next, y.2.1, y.2.2.1, false) else y) } }),
    sendReq g (bulkAt t g r'.op o.2.1).1]),
  read fun s => onSome (sndOf s g).run fun r => onSome r.sig fun x => when x.2.2 (seqs [
    modSnd g (fun y => { y with run := some { r with sig := some (s.fab.next, x.2.1, false) } }), sendReq g (sigPkt r.op)])]
/-- SEND_RETRY. -/
def execSendRetry (core : Nat) (s : State) : Host.Outcome State Fault Refusal := done (sendRetry core) s

/-! ## Commands (R456) -/

/-- LINK_RECON. -/
def execLinkRecon (o : Origin) (site arg : Nat) (s : State) : Host.Outcome State Fault Refusal := done (command o (rtrB site / 0x1000) 0x10 arg) s
/-- RTR_CLEAR_COUNTS. -/
def execRtrClearCounts (o : Origin) (site arg : Nat) (s : State) : Host.Outcome State Fault Refusal := done (command o (rtrB site / 0x1000) 0x11 arg) s
/-- PEER_RECON. -/
def execPeerRecon (o : Origin) (site arg : Nat) (s : State) : Host.Outcome State Fault Refusal := done (command o (xprB site / 0x1000) 0x10 arg) s
/-- XPR_CLEAR_COUNTS. -/
def execXprClearCounts (o : Origin) (site arg : Nat) (s : State) : Host.Outcome State Fault Refusal := done (command o (xprB site / 0x1000) 0x11 arg) s

end Sys2Proof.Machine
end

