-- ==== Sys2Proof/Machine/Bough.lean ====
section
/-! DEFINITION. Sys2Proof/Machine/Bough.lean: flits, frames and management over the bough ports (R435 to R455). -/
namespace Sys2Proof.Machine
open Sys2Proof

/-! ## Flits (R437 to R439) -/

/-- The 256 bytes of a flit as a number: what the replay buffer holds, and the acknowledgement and credits of the moment (R437). -/
def flitNum (f : Flit) (ack : Nat) (nack : Bool) (creds : List Nat) (fc : Nat) : Nat :=
  let body := (f.seq % 4096 + f.typ * 4096) + (ack % 4096 + b2n nack * 4096) * 2 ^ 16 + f.vcb * 2 ^ 32 + f.pz * 2 ^ 40 + f.plen * 2 ^ 48
    + ((List.range 4).foldl (fun v i => v + min (creds.getD i 0) 255 * 256 ^ i) 0) * 2 ^ 64 + fc * 2 ^ 96 + f.data % 256 ^ 224 * 256 ^ 28
  body + crc32c (toBytes 252 body) * 256 ^ 252

/-- A flit leaves the port with the port's acknowledgement and credits. -/
def emitFlit (p : Nat) (f : Flit) : Upd := read fun s =>
  let x := bghOf s p
  let creds := x.freed.map (min 255)
  let fc := min x.fback 16
  seqs [act (.out (.flit p (flitNum f ((x.rxSeq + 4095) % 4096) x.nackDue creds fc))),
    modBgh p (fun y => { y with freed := (List.range 4).map (fun v => y.freed.getD v 0 - creds.getD v 0), fback := y.fback - fc,
                                nackDue := false, nacked := y.nacked || y.nackDue }),
    bump (bghB p + R.BGH_CNT 0) 1]

/-- A new DATA flit takes the next sequence number, a place in the replay buffer and a credit of its VC. -/
def newFlit (p : Nat) (f : Flit) : Upd := read fun s =>
  let x := bghOf s p
  let v := f.vcb % 4
  let g := { f with seq := x.txSeq, typ := 1 }
  seqs [modBgh p (fun y => { y with txSeq := (y.txSeq + 1) % 4096, replay := y.replay ++ [g], cur := y.replay.length + 1,
                                    cred := y.cred.set v (y.cred.getD v 0 - 1) }), flitLed p v 0 1, emitFlit p g]

/-- Flits of a frame. -/
def BFrame.total (f : BFrame) : Nat := (f.bytes + 223) / 224
/-- The next flit of the frame in transmission: its part of the image, with poison where the image holds it; the first carries the
time of the frame's start (R444, R445). -/
def frameFlit (s : State) (f : BFrame) : Flit :=
  let a := f.op.a + 224 * f.flits
  let n := min 224 (f.bytes - 224 * f.flits)
  let unit (u : Nat) : Bool := decide (32 * u < n) && (memRead s (a + 32 * u) (min 32 (n - 32 * u))).2
  let raw := (List.range 7).foldl (fun v u => v + (if 32 * u < n then (memRead s (a + 32 * u) (min 32 (n - 32 * u))).1 else 0) * 256 ^ (32 * u)) 0
  { seq := 0, typ := 1, vcb := 2 + b2n (f.flits = 0) * 4 + b2n (f.flits + 1 = f.total) * 8, pz := (List.range 7).foldl (fun v u => v + b2n (unit u) * 2 ^ u) 0,
    plen := n, data := if f.flits = 0 then setBits raw 319 256 f.time else raw }

/-- A port sends one flit: a resend, a CTRL message, a management frame, the next of the frame in transmission, or IDLE (R438, R440, R441).
CTRL messages carry the next sequence number without taking it: the sequences are what they settle. -/
def sendFlit (p : Nat) : Upd := read fun s =>
  let x := bghOf s p
  let link := bghLink s p
  let room := decide (x.replay.length < 1024)
  when (bghLive s p && decide (link ≥ 2)) (seqs [
    match x.ctrl, x.replay[x.cur]?, x.mgmt, x.frame with
    | m :: rest, _, _, _ => seqs [modBgh p (fun y => { y with ctrl := rest }), emitFlit p { seq := x.txSeq, typ := 2, plen := 32, data := m }]
    | [], some f, _, _ =>
      if link ≥ 3 then seqs [modBgh p (fun y => { y with cur := y.cur + 1 }), bump (bghB p + R.BGH_CNT 2) 1, emitFlit p f]
      else emitFlit p { seq := x.txSeq, typ := 0 }
    | [], none, m :: rest, fr =>
      if room && decide (x.cred.getD 3 0 > 0) && (link = 4 || (link = 3 && m % 256 = 0x20)) then
        seqs [modBgh p (fun y => { y with mgmt := rest }), newFlit p { seq := 0, typ := 1, vcb := 15, plen := 144, data := m }]
      else frameOr p x link room fr
    | [], none, [], fr => frameOr p x link room fr, sndKick])
where
  /-- The next flit of the frame, or IDLE. -/
  frameOr (p : Nat) (x : Bgh) (link : Nat) (room : Bool) (fr : Option BFrame) : Upd := read fun s =>
    match fr with
    | some f =>
      if link = 4 && room && decide (x.cred.getD 2 0 > 0) && decide (f.flits < f.total) then
        let fl := frameFlit s f
        seqs [modBgh p (fun y => { y with frame := some { f with flits := f.flits + 1, met := f.met || fl.pz ≠ 0 } }), newFlit p fl]
      else emitFlit p { seq := x.txSeq, typ := 0 }
    | none => emitFlit p { seq := x.txSeq, typ := 0 }

/-- FLIT_SEND_TIMER. -/
def execFlitSendTimer (port : Nat) (s : State) : Host.Outcome State Fault Refusal := done (sendFlit port) s

/-- A frame whose last flit is acknowledged is sent: status 3 where it carried poison, else 0, and BGH_FSEQ moves on (R448, R455). -/
def frameCheck (p : Nat) : Upd := read fun s =>
  let x := bghOf s p
  onSome x.frame fun f => when (decide (f.flits ≥ f.total) && inReplay x.replay 2 = 0) (seqs [
    bump (bghB p + R.BGH_CNT 6) 1,
    if f.met then seqs [raise (bghR p) 3 0, frameEnds p 3]
    else seqs [setReg (bghB p + R.BGH_FSEQ) ((memNum s (f.op.a + 8) 4 + 1) % 2 ^ 32), frameEnds p 0], sndKick])

/-- The acknowledgement of an accepted flit: flits up to `ack` leave the replay buffer; on a nack the rest is sent again, and 16 resends
without progress take the link down (R438, R439). -/
def takeAck (p ack : Nat) (nack : Bool) : Upd := read fun s =>
  let x := bghOf s p
  let i := x.replay.findIdx? (fun f => f.seq = ack)
  let left := match i with | some k => x.replay.drop (k + 1) | none => x.replay
  let gone := x.replay.length - left.length
  let tries := if nack && !left.isEmpty then (if gone = 0 then x.tries + 1 else 1) else if gone = 0 then x.tries else 0
  seqs [modBgh p (fun y => { y with replay := left, cur := if nack then 0 else y.cur - gone, tries := tries }),
    each (List.range 4) (fun v => flitLed p v 1 (inReplay x.replay v - inReplay left v)),
    frameCheck p, when (tries > 16) (bghDown p 1)]

/-- A DATA flit's payload joins the frame of its VC; its buffer is freed. -/
def takeData (p vcb pz plen data : Nat) : Upd := seqs [
  modBgh p (fun y => { y with freed := y.freed.set (vcb % 4) (y.freed.getD (vcb % 4) 0 + 1) }),
  if vcb % 4 = 3 then (if [0x10, 0x11, 0x12, 0x20].contains (data % 256) then modBgh p (fun y => { y with inbox := y.inbox ++ [.mgmt data] }) else skip)
  else if vcb % 4 = 2 then read fun s =>
    let x := bghOf s p
    let f := if bit vcb 2 then (0, 0, []) else x.rxFrame.getD (0, 0, [])
    let g := (f.1 + plen, f.2.1 + data % 256 ^ plen * 256 ^ f.1, f.2.2 ++ ((List.range 7).filter (bit pz)).map (fun u => f.1 / 32 + u))
    modBgh p (fun y => if bit vcb 3 then { y with rxFrame := none, inbox := y.inbox ++ [.frame g.1 g.2.1 g.2.2] } else { y with rxFrame := some g })
  else skip]

/-- A flit arrives: one whose CRC is bad or whose sequence number is not the next is discarded, with one nack; CTRL flits of a link in
RECON stand outside the sequence. -/
def recvFlit (p w corr unc : Nat) : Upd := read fun s =>
  let x := bghOf s p
  let f (hi lo : Nat) : Nat := bits w hi lo
  let body := w % 256 ^ 252
  let typ := f 15 12
  let ok := w / 256 ^ 252 % 2 ^ 32 = crc32c (toBytes 252 body)
  let ctrl := decide (typ = 2)
  let fits := decide (typ ≤ 2) && (ctrl || f 11 0 = x.rxSeq)
  let fc := f 100 96
  when (bghLive s p && decide (bghLink s p ≥ 2)) (seqs [
    bump (bghB p + R.BGH_CNT 4) corr, bump (bghB p + R.BGH_CNT 5) unc,
    if ok && ((ctrl && bghLink s p = 2) || (fits && !ctrl)) then seqs [
      bump (bghB p + R.BGH_CNT 1) 1,
      modBgh p (fun y => { y with last := s.now, nacked := false, nackDue := false, rxSeq := if typ = 1 then (y.rxSeq + 1) % 4096 else y.rxSeq,
                                  cred := (List.range 4).map (fun v => min (y.cred.getD v 0 + f (71 + 8 * v) (64 + 8 * v)) ([64, 64, 512, 16].getD v 0)) }),
      when (fc > 0) (modBgh p (fun y => { y with inbox := y.inbox ++ [.cred fc] })),
      when (decide (bghLink s p ≥ 3)) (takeAck p (f 27 16) (bit w 28)),
      when ctrl (modBgh p (fun y => { y with inbox := y.inbox ++ [.ctrl (f 479 224)] })),
      when (typ = 1) (takeData p (f 39 32) (f 46 40) (f 63 48) (f 2015 224))]
    else seqs [when (!ok) (bump (bghB p + R.BGH_CNT 3) 1),
      when (decide (bghLink s p ≥ 3) && !x.nacked) (modBgh p (fun y => { y with nackDue := true }))]])

/-- FLIT_RECEIVE. -/
def execFlitReceive (port flit corr unc : Nat) (s : State) : Host.Outcome State Fault Refusal := done (recvFlit port flit corr unc) s

/-! ## The link (R440 to R443, R457) -/

/-- CODEWORD_LOCK: the offer is sent. -/
def execCodewordLock (port : Nat) (s : State) : Host.Outcome State Fault Refusal :=
  done (read fun s => when (bghLive s port && bghLink s port = 1) (seqs [
    setLink port 2, setFld (bghB port + R.BGH_STATUS) 31 24 0xFF, modBgh port (fun x => { x with last := s.now }), sendCtrl port 1])) s

/-- No good flit for 10 µs, or no lock on a lane for as long (`lanes`). -/
def flitGap (p : Nat) (lanes : Bool) : Upd := read fun s =>
  when (bghLive s p && decide (bghLink s p ≥ 2) && (lanes || decide (s.now ≥ (bghOf s p).last + 10000))) (bghDown p (if lanes then 2 else 0))
/-- FLIT_GAP_TIMEOUT. -/
def execFlitGapTimeout (port : Nat) (lanes : Bool) (s : State) : Host.Outcome State Fault Refusal := done (flitGap port lanes) s

/-- The message at the front of what a port has received. -/
def popMsg (p : Nat) : Upd := modBgh p (fun x => { x with inbox := x.inbox.drop 1 })
/-- Act on a CTRL message of a code at the front. -/
def onCtrl (p code : Nat) (f : Nat → Upd) : Upd := read fun s =>
  match (bghOf s p).inbox with
  | .ctrl d :: _ => when (d % 256 = code && bghLive s p) (seqs [popMsg p, when (bghLink s p = 2) (f d)])
  | _ => skip
/-- Act on a management frame of a type at the front. -/
def onMgmt (p typ : Nat) (f : Nat → Upd) : Upd := read fun s =>
  match (bghOf s p).inbox with
  | .mgmt d :: _ => when (d % 256 = typ && bghLive s p) (f d)
  | _ => skip

/-- BOUGH_RECON_OFFER: the offer decides, and is confirmed; in FAULT the confirm waits. -/
def execBoughReconOffer (port : Nat) (s : State) : Host.Outcome State Fault Refusal :=
  done (onCtrl port 1 (fun d => read fun s => when (bghOf s port).offer.isNone (seqs [offerDecides port d, modBgh port (fun x => { x with offer := some d }),
    when (decide (pgState s (bghR port) ≠ stFAULT)) (sendCtrl port 2), reconFinish port]))) s
/-- BOUGH_RECON_CONFIRM. -/
def execBoughReconConfirm (port : Nat) (s : State) : Host.Outcome State Fault Refusal :=
  done (onCtrl port 2 (fun _ => seqs [modBgh port (fun x => { x with conf := true }), reconFinish port])) s

/-- Add frame credits to the credit token of the stand that sends through the bough (R449). -/
def creditTok (n : Nat) : Upd := read fun s => onSome (bghStand s 13) fun (a, k) =>
  let g := standNum s a k 20 2 % 4096
  let t := standNum s a k 22 1 % 64
  if tokOver s g t n then raise ⟨.CORE, g⟩ cTokOvf 0 else addTok g t n

/-- Do two HELLOs agree: roles, tags, and the layers of an up and a down end (R442 step 5)? -/
def helloAgrees (mine peer : Nat) : Bool :=
  let r := msgF mine 44 1
  let q := msgF peer 44 1
  let joins (down up : Nat) : Bool := (msgF down 42 2 + 1) % 65536 = msgF up 40 2
  msgF peer 1 1 = 1 && msgF mine 32 8 = msgF peer 32 8 && ((r = 1 && q = 2 && joins peer mine) || (r = 2 && q = 1 && joins mine peer) || (r = 3 && q = 3))

/-- The HELLO of the peer: on agreement the port runs, takes the peer's sequence or credits, and reports; else START ends FAILED. -/
def takeHello (p d : Nat) : Upd := read fun s => when (bghLink s p = 3) (
  let b := bghB p
  let mine := helloMsg s p
  let grant := msgF d 45 1
  let role := bghRole s p
  seqs [popMsg p, setFld (b + R.BGH_STATUS) 19 18 (msgF d 44 1), each (List.range 4) (fun i => setReg (b + R.BGH_PEER_SN i) (msgF d (16 + 4 * i) 4)),
    setReg (b + R.BGH_PEER_LAYER) (msgF d 40 2 * 2 ^ 16 + msgF d 42 2),
    if helloAgrees mine d then seqs [
      setLink p 4, setState (bghR p) stRUN,
      when (role = 1) (setReg (b + R.BGH_FSEQ) (msgF d 48 4)),
      when (role = 2) (seqs [modBgh p (fun x => { x with fcred := min grant 16 }), creditTok grant]),
      evt (bghR p) 2 0x0603 0 (payload ([(24, 1, msgF d 44 1), (25, 1, if role = 1 then entrySlots s p else grant), (26, 2, msgF d 40 2), (28, 2, msgF d 42 2)]
        ++ [(32, 16, msgF d 16 16)])),
      when (bghOf s p).was (bghReconciled p 1),
      modBgh p (fun x => { x with was := true, lost := false }),
      when (bghStarting s p 2 || bghStarting s p 0x10) (endBusy evt (bghR p) 1), sndKick]
    else seqs [setLink p 0, raise (bghR p) 1 0, when (bghStarting s p 2) (endBusy evt (bghR p) 7)]])
/-- HELLO. -/
def execHello (port : Nat) (s : State) : Host.Outcome State Fault Refusal := done (onMgmt port 0x20 (takeHello port)) s

/-- BOUGH_START_TIMEOUT. -/
def execBoughStartTimeout (port : Nat) (s : State) : Host.Outcome State Fault Refusal :=
  done (read fun s => when (bghStarting s port 2 && decide (s.now ≥ (bghOf s port).began + 100000000)) (seqs [setLink port 0, endBusy evt (bghR port) 7])) s

/-- BGH_OPT_WARN: lane powers in 0.01 dBm. -/
def execBghOptWarn (port lane tx rx : Nat) (s : State) : Host.Outcome State Fault Refusal :=
  done (when (lane < 8) (seqs [setReg (bghB port + R.BGH_OPT lane) (tx % 65536 * 2 ^ 16 + rx % 65536),
    evt (bghR port) 5 0x0606 0 (payload [(24, 1, lane), (26, 2, tx), (28, 2, rx)])])) s
/-- OPTICAL_ENGINE_OUT_OF_RANGE: the engine is shut down, and its lanes lose lock. -/
def execOpticalEngineOutOfRange (port : Nat) (s : State) : Host.Outcome State Fault Refusal :=
  done (read fun s => when (bghLive s port) (seqs [raise (bghR port) 5 0, bghDown port 2, setLink port 0, modBgh port (fun x => { x with dark := true })])) s

/-! ## Activation frames (R445 to R449) -/

/-- Why a frame is dropped, or 0: `a`, `k` the entry stand, `next` the mseq expected (R447). -/
def frameReason (s : State) (a k next len data : Nat) (pz : List Nat) : Nat :=
  let f (o n : Nat) : Nat := data / 256 ^ o % 256 ^ n
  if (pz.any (fun u => decide (u < 2))) ∨ f 0 1 ≠ 1 ∨ f 1 1 ≠ 1 ∨ ¬(1 ≤ f 6 2 ∧ f 6 2 ≤ 1024) ∨ ¬(1 ≤ f 12 2 ∧ f 12 2 ≤ 1024)
      ∨ ¬(f 14 1 = 0 ∨ f 14 1 = 1 ∨ f 14 1 = 5) ∨ f 16 4 % 32 ≠ 0 ∨ f 20 4 ≠ len ∨ len > standNum s a k 28 4 then 1
  else if f 8 4 < next then 2
  else if f 2 2 ≠ standNum s a k 8 2 then 3
  else if f 24 8 ≠ lptNum s a 16 8 then 4
  else 0

/-- BGH_FRAME_DROP, with a dropped frame's credit returned. -/
def frameDrop (p reason mseq n : Nat) : Upd := seqs [
  evt (bghR p) 3 0x0604 0 (payload [(24, 1, reason), (28, 4, mseq), (32, 4, n)]), raise (bghR p) 2 0, modBgh p (fun x => { x with fback := x.fback + 1 })]

/-- A complete frame: written to its slot, with poison where it was flagged, then signalled; or dropped. -/
def takeFrame (p len data : Nat) (pz : List Nat) : Upd := read fun s =>
  let next := rd s (bghB p + R.BGH_FSEQ)
  let mseq := data / 256 ^ 8 % 2 ^ 32
  match bghStand s 12 with
  | none => seqs [popMsg p, bump (bghB p + R.BGH_CNT 7) 1, frameDrop p 1 mseq len]
  | some (a, k) =>
    let why := frameReason s a k next len data pz
    let g := standNum s a k 16 2 % 4096
    let d := dpaOf g (standNum s a k 24 4 + mseq % max 1 (standNum s a k 15 1) * standNum s a k 28 4)
    if why ≠ 0 then seqs [popMsg p, bump (bghB p + R.BGH_CNT 7) 1, frameDrop p why mseq len]
    else when (takesSignal s g && !tokOver s g (standNum s a k 18 1 % 64) 1 && decide (reachRange s d len ≠ .retry)) (seqs [
      popMsg p, bump (bghB p + R.BGH_CNT 7) 1,
      when (mseq > next) (evt (bghR p) 3 0x0604 0 (payload [(24, 1, 0), (28, 4, mseq), (32, 4, mseq - next)])),
      setReg (bghB p + R.BGH_FSEQ) ((mseq + 1) % 2 ^ 32),
      memWrite d (toBytes len data), each pz (fun u => memPoison (d + 32 * u) 32),
      when (!pz.isEmpty) (evt (bghR p) 4 0x0605 0 (payload [(24, 4, mseq), (28, 4, pz.length)])),
      addTok g (standNum s a k 18 1 % 64) 1])
/-- ACTIVATION_FRAME. -/
def execActivationFrame (port : Nat) (s : State) : Host.Outcome State Fault Refusal :=
  done (read fun s => match (bghOf s port).inbox with
    | .frame len data pz :: _ => when (bghLive s port) (takeFrame port len data pz)
    | _ => skip) s

/-- FRAME_CREDIT. -/
def execFrameCredit (port : Nat) (s : State) : Host.Outcome State Fault Refusal :=
  done (read fun s => match (bghOf s port).inbox with
    | .cred n :: _ => when (bghLive s port) (seqs [popMsg port, modBgh port (fun x => { x with fcred := min (x.fcred + n) 16 }), creditTok n, sndKick])
    | _ => skip) s

/-! ## Management frames (R450, R451, R456) -/

/-- The origin of a peer's write: class 5, [2:0] the port, [6:3] the requester's class on its own module (R68). -/
def boughOrigin (p d : Nat) : Origin := { cls := 5, inst := p + msgF d 5 1 % 16 * 8 }
/-- Answer a register frame with a status and values. -/
def regRsp (p d st : Nat) (vals : List Nat) : Upd :=
  sendMgmt p (msgOf ([(0, 1, 0x12), (1, 1, 1), (2, 2, msgF d 2 2), (4, 1, msgF d 4 1), (6, 1, st), (8, 4, msgF d 8 4)] ++ (List.range vals.length).map (fun i => (16 + 4 * i, 4, vals.getD i 0))))
/-- Registers of a frame. -/
def regCount (d : Nat) : Nat := msgF d 4 1 % 32 + 1

/-- Read `n` registers from `off`, each with its effect. -/
def readRegs (o : Origin) (off : Nat) : Nat → List Nat → (List Nat → Upd) → Upd
  | 0, acc, go => go acc
  | n + 1, acc, go => read fun s => seqs [readEffect o off, readRegs o (off + 4) n (acc ++ [busRead s o off]) go]
/-- REG_RD. -/
def takeRegRd (p d : Nat) : Upd := read fun s => seqs [popMsg p,
  if fld s (bghB p + R.BGH_CTRL) 2 2 = 0 then regRsp p d 3 []
  else if msgF d 4 1 > 31 ∨ msgF d 8 4 % 4 ≠ 0 then regRsp p d 1 []
  else readRegs (boughOrigin p d) (msgF d 8 4) (regCount d) [] (regRsp p d 0)]
/-- REG_RD. -/
def execRegRd (port : Nat) (s : State) : Host.Outcome State Fault Refusal := done (onMgmt port 0x10 (takeRegRd port)) s

/-- Would the write be refused? -/
def writeRefused (s : State) (o : Origin) (off v : Nat) : Bool :=
  match judge s o off 4 v with | .refuse _ | .refusePair _ _ | .reject _ _ => true | _ => false
/-- Write registers in order, up to one that is refused; the status. -/
def writeRegs (o : Origin) (go : Nat → Upd) : List (Nat × Nat) → Upd
  | [] => go 0
  | x :: xs => read fun s => seqs [busWrite o x.1 4 x.2, if writeRefused s o x.1 x.2 then go 1 else writeRegs o go xs]
/-- REG_WR. -/
def takeRegWr (p d : Nat) : Upd := read fun s => seqs [popMsg p,
  if fld s (bghB p + R.BGH_CTRL) 2 2 = 0 then regRsp p d 3 []
  else if fld s (bghB p + R.BGH_CTRL) 3 3 = 0 then regRsp p d 2 []
  else if msgF d 4 1 > 31 ∨ msgF d 8 4 % 4 ≠ 0 then regRsp p d 1 []
  else writeRegs (boughOrigin p d) (fun st => regRsp p d st []) ((List.range (regCount d)).map (fun i => (msgF d 8 4 + 4 * i, msgF d (16 + 4 * i) 4)))]
/-- REG_WR. -/
def execRegWr (port : Nat) (s : State) : Host.Outcome State Fault Refusal := done (onMgmt port 0x11 (takeRegWr port)) s

/-- The answer to a REMOTE: a read's value, then DONE or FAILED; an answer nobody waits for is dropped. -/
def takeRegRsp (p d : Nat) : Upd := read fun s => seqs [popMsg p, onSome (bghOf s p).remote fun r => when (r.1 = msgF d 2 2) (seqs [
  modBgh p (fun x => { x with remote := none }),
  if msgF d 6 1 = 0 then seqs [when (!r.2.1) (setReg (bghB p + R.BGH_RACC_DATA) (msgF d 16 4)), when (bghStarting s p 0x12) (endBusy evt (bghR p) 1)]
  else when (bghStarting s p 0x12) (endBusy evt (bghR p) 7)])]
/-- REG_RSP. -/
def execRegRsp (port : Nat) (s : State) : Host.Outcome State Fault Refusal := done (onMgmt port 0x12 (takeRegRsp port)) s

/-- REMOTE_TIMEOUT. -/
def execRemoteTimeout (port : Nat) (s : State) : Host.Outcome State Fault Refusal :=
  done (read fun s => onSome (bghOf s port).remote fun r => when (decide (s.now ≥ r.2.2 + 1000 * fld s (bghB port + R.BGH_TIMEOUT) 15 0)) (seqs [
    modBgh port (fun x => { x with remote := none }), when (bghStarting s port 0x12) (endBusy evt (bghR port) 7)])) s

/-! ## Commands (R456) -/

/-- LINK_RETRAIN. -/
def execLinkRetrain (o : Origin) (port arg : Nat) (s : State) : Host.Outcome State Fault Refusal := done (command o (bghB port / 0x1000) 0x10 arg) s
/-- BGH_CLEAR_COUNTS. -/
def execBghClearCounts (o : Origin) (port arg : Nat) (s : State) : Host.Outcome State Fault Refusal := done (command o (bghB port / 0x1000) 0x11 arg) s
/-- REMOTE. -/
def execRemote (o : Origin) (port arg : Nat) (s : State) : Host.Outcome State Fault Refusal := done (command o (bghB port / 0x1000) 0x12 arg) s

end Sys2Proof.Machine
end

