-- ==== Sys2Proof/Machine/Clocks.lean ====
section
/-! DEFINITION. Sys2Proof/Machine/Clocks.lean: the commands of islands, clocks and device time (R493 to R516). -/
namespace Sys2Proof.Machine
open Sys2Proof

/-! ## Device time (R504 to R509) -/

/-- The rate adjustment, in 0.01 ppm, for a difference in ns: full at 1 ms, none within 100 ns (R509). -/
def slewRate (d : Int) : Int := if d.natAbs ≤ 100 then 0 else max (-5000) (min 5000 (d / 200))
/-- The difference the time loop removes: leaving holdover first, else the PTM difference where slew_en is set. -/
def slewDiff (s : State) : Int :=
  if s.clk.leaving ≠ 0 then s.clk.leaving
  else if fld s (timB + R.TIM_CTRL) 1 1 = 1 then sext 64 (rd64 s (timB + R.TIM_PTM_OFFSET_LO)) - sext 64 (rd64 s (timB + R.TIM_SLEW_TARGET_LO))
  else 0
/-- TIM_RATE and TIM_STATUS.slewing follow the difference. -/
def slewReport : Upd := read fun s =>
  let a := slewRate (slewDiff s)
  seqs [setFld (timB + R.TIM_RATE) 15 0 (wrap 16 a), setFld (timB + R.TIM_STATUS) 1 1 (b2n (decide (a ≠ 0)))]

/-- Device time goes on by `dt` ns, local copies with it, and what slewing removes in that time is removed (R506, R507, R509). -/
def advance (dt : Nat) : Upd := read fun s =>
  let gone : Int := slewRate s.clk.leaving * (dt : Int) / 100000000
  seqs [act (.now (s.now + dt)),
    when (decide (s.clk.leaving ≠ 0)) (act (.clk { s.clk with leaving := if s.clk.leaving.natAbs ≤ 100 then 0 else s.clk.leaving - gone })),
    slewReport]

/-- TIME_CORRECTION. -/
def execTimeCorrection (dt : Nat) (s : State) : Host.Outcome State Fault Refusal := done (advance dt) s

/-- A PTM exchange: the host's time at the midpoint and the link delay, or no response (R508). It ends a PTM_NOW. -/
def exchange (host delay : Nat) (ok : Bool) : Upd := read fun s =>
  let now1 := (SMap.find timB s.busy).isSome
  when (fld s (timB + R.TIM_CTRL) 0 0 = 1) (
    if ok then seqs [
      setReg64 (timB + R.TIM_PTM_OFFSET_LO) ((host + 2 ^ 64 - s.now % 2 ^ 64) % 2 ^ 64), setReg64 (timB + R.TIM_PTM_AT_LO) s.now,
      setReg (timB + R.TIM_PTM_STATUS) (2 ^ 31 + min delay 0xFFFF), act (.clk { s.clk with missed := 0 }), setFld (timB + R.TIM_STATUS) 2 2 0,
      slewReport, when now1 (endBusy evt timR 1)]
    else seqs [act (.clk { s.clk with missed := s.clk.missed + 1 }),
      when (s.clk.missed + 1 = 3) (seqs [setFld (timB + R.TIM_STATUS) 2 2 1, raise timR 0 0]),
      when now1 (endBusy evt timR 7)])

/-- PTM_EXCHANGE. -/
def execPtmExchange (host delay : Nat) (ok : Bool) (s : State) : Host.Outcome State Fault Refusal := done (exchange host delay ok) s
/-- PTM_NOW. -/
def execPtmNow (o : Origin) (arg : Nat) (s : State) : Host.Outcome State Fault Refusal := done (command o (timB / 0x1000) 0x10 arg) s

/-- SYSREF_LOST: holdover begins (R504). -/
def execSysrefLost (s : State) : Host.Outcome State Fault Refusal :=
  done (seqs [setFld (clkB + R.CLK_STATUS) 31 31 0, setFld (clkB + R.CLK_STATUS) 29 29 1, setFld (timB + R.TIM_STATUS) 0 0 1, raise clkR 2 0]) s
/-- SYSREF_RETURN: holdover ends, and the difference of the counts is removed by rate (R504, R509). -/
def execSysrefReturn (diff : Int) (s : State) : Host.Outcome State Fault Refusal :=
  done (read fun s => seqs [setFld (clkB + R.CLK_STATUS) 31 31 1, setFld (clkB + R.CLK_STATUS) 29 29 0, setFld (timB + R.TIM_STATUS) 0 0 0,
    when (fld s (timB + R.TIM_STATUS) 0 0 = 1) (act (.clk { s.clk with leaving := diff })), slewReport]) s

/-- REFCLK_RETURN (R701). -/
def execRefclkReturn (s : State) : Host.Outcome State Fault Refusal := done (setFld (clkB + R.CLK_STATUS) 30 30 1) s

/-! ## Core frequency (R497 to R500) -/

/-- A core island takes one step towards its effective frequency. -/
def freqStep (g : Nat) : Upd := read fun s =>
  let c := freqCur s g
  let t := freqTarget s g
  when (domOn s (g / 64) (g % 64) .core && !islandLost s 0 (g / 64) (g % 64) && decide (c ≠ t)) (
    let n := if c < t then c + 1 else c - 1
    seqs [setCur g n, when (decide (n = t)) (bump (clkB + R.CLK_CNT_FREQ_CHANGE) 1)])

/-- FREQ_STEP. -/
def execFreqStep (core : Nat) (s : State) : Host.Outcome State Fault Refusal := done (freqStep core) s
/-- FREQ_SET. -/
def execFreqSet (o : Origin) (arg : Nat) (s : State) : Host.Outcome State Fault Refusal := done (command o (clkB / 0x1000) 0x10 arg) s
/-- TILE_RESET. -/
def execTileReset (o : Origin) (arg : Nat) (s : State) : Host.Outcome State Fault Refusal := done (command o (clkB / 0x1000) 0x11 arg) s
/-- CLK_CLEAR_COUNTS. -/
def execClkClearCounts (o : Origin) (arg : Nat) (s : State) : Host.Outcome State Fault Refusal := done (command o (clkB / 0x1000) 0x12 arg) s

/-! ## Monitoring (R496, R501, R502) -/

/-- The fixed action for a lost island; `ok`: the trunk's restart within 20 µs succeeds. -/
def lostAction (kind site idx : Nat) (ok : Bool) : Upd :=
  let back := unlose (fun x => x = (kind, site, idx))
  match kind with
  | 0 => each [PType.CORE, .MXU] (fun t => blockFx evt ⟨t, site * 64 + idx⟩ 0)
  | 1 => fenceSite site
  | 2 =>
    let g := site * 64 + idx / 8
    seqs [read fun s => when (chServes s g (idx % 8)) (beginHold g (idx % 8) 0), if ok then resumeChan g (idx % 8) else failChan g (idx % 8), back]
  | 3 => seqs [sapLayerLost site idx ok, if ok then back else restartFailed]
  | 4 => seqs [chipReset 16, bootRom]
  | _ => back

/-- An island is lost: 0 no edges, 1 frequency, 2 handshake. -/
def islandGone (kind site idx cause : Nat) (ok : Bool) : Upd := read fun s =>
  when (islandExists s kind site idx && islandOn s kind site idx && !islandLost s kind site idx) (seqs [
    act (.lost (s.lost ++ [(kind, site, idx)])),
    act (.clk { s.clk with losses := ((kind, site, idx), (s.clk.losses.lookup (kind, site, idx)).getD 0 + 1) :: s.clk.losses.filter (·.1 ≠ (kind, site, idx)) }),
    setReg (clkB + R.CLK_LAST) (cause * 2 ^ 30 + kind * 2 ^ 16 + site * 2 ^ 9 + idx),
    bump (clkB + (if cause = 2 then R.CLK_CNT_HS_TIMEOUT else R.CLK_CNT_LOST)) 1, raise clkR (if cause = 2 then 1 else 0) 0,
    lostAction kind site idx ok])

/-- Is a window's count off the effective frequency by more than 2 %? During a change both frequencies count (R501). -/
def offFrequency (s : State) (kind site idx edges : Nat) : Bool :=
  let m := (islandMhz s kind site idx).1
  let t := if kind = 0 then mhzOf (freqTarget s (site * 64 + idx)) else m
  decide (100 * edges < 98 * min m t) || decide (100 * edges > 102 * max m t)

/-- CLOCK_MONITOR_WINDOW. -/
def execClockMonitorWindow (kind site idx edges : Nat) (ok : Bool) (s : State) : Host.Outcome State Fault Refusal :=
  done (read fun s => when (decide (kind ≠ 5) && offFrequency s kind site idx edges) (islandGone kind site idx 1 ok)) s
/-- ISLAND_CLOCK_LOST. -/
def execIslandClockLost (kind site idx : Nat) (ok : Bool) (s : State) : Host.Outcome State Fault Refusal := done (islandGone kind site idx 0 ok) s
/-- HANDSHAKE_TIMEOUT. -/
def execHandshakeTimeout (kind site idx : Nat) (ok : Bool) (s : State) : Host.Outcome State Fault Refusal := done (islandGone kind site idx 2 ok) s

end Sys2Proof.Machine
end

