-- ==== Sys2Proof/Machine/Descriptors.lean ====
section
/-! DEFINITION. Sys2Proof/Machine/Descriptors.lean: descriptor rings: fetching, launching, completing, and the layer barrier
(R383 to R408). -/
namespace Sys2Proof.Machine
open Sys2Proof

/-! ## Fields of a descriptor, its 64 bytes held as a number (R388 to R392) -/

/-- `n` bytes at byte `b` of a descriptor. -/
def dF (d b n : Nat) : Nat := bits d (8 * (b + n) - 1) (8 * b)
/-- flags.cpl_host. -/
def dHost (d : Nat) : Bool := dF d 1 1 % 2 = 1
/-- Threads or stages: count + 1. -/
def dCount (d : Nat) : Nat := dF d 2 1 + 1
/-- The completion address. -/
def dCpl (d : Nat) : Nat := dF d 24 8
/-- The signal words: core, token, count. -/
def dSigs (d : Nat) : List (Nat × Nat × Nat) := [dF d 12 4, dF d 16 4].map (fun x => (bits x 11 0, bits x 19 14, bits x 31 20))
/-- A chain's link words: loc, buffers, bytes of a buffer. -/
def dLink (d j : Nat) : Nat × Nat × Nat := let x := dF d (48 + 2 * j) 2; (bits x 15 15, bits x 14 12 + 1, bits x 11 0 * 256)
/-- Bytes that the links before `j` with the same location take. -/
def linkBytes (d j loc : Nat) : Nat :=
  (List.range j).foldl (fun n i => let l := dLink d i; if l.1 = loc then n + l.2.1 * l.2.2 else n) 0
/-- The EA of buffer 0 of link `j` (R390, R394). -/
def linkEa (g d j : Nat) : Nat :=
  let l := dLink d j
  if l.1 = 0 then 2 ^ 62 + bits (dF d 20 4) 12 0 * 256 + linkBytes d j 0
  else dpaOf g (bits (dF d 54 2) 12 0 * 65536 + linkBytes d j 1)

/-- Does an EA satisfy R95 for a PC? -/
def pcOk (s : State) (g ea : Nat) : Bool := (eaSpace ea = 0 || eaSpace ea = 1) && (eaFault s g ea 8 8).isNone
/-- Is the completion address one a record may be written to? (R388) -/
def cplOk (d : Nat) : Bool := dCpl d % 16 = 0 && (dHost d || decide (dCpl d < 2 ^ 41))

/-- The common fields (R388). -/
def commonOk (d : Nat) : Bool :=
  decide (dF d 1 1 ≤ 1) && bits (dF d 4 4) 15 6 = 0 && bits (dF d 8 4) 15 6 = 0 && bits (dF d 12 4) 13 12 = 0
    && bits (dF d 16 4) 13 12 = 0 && cplOk d
/-- A STAGE (R389). -/
def stageOk (s : State) (g d : Nat) : Bool := decide (dF d 2 1 ≤ 63) && dF d 3 1 = 0 && dF d 20 4 = 0 && pcOk s g (dF d 32 8)
/-- A CHAIN's own fields and the buffers' room (R390, R395). -/
def chainShapeOk (s : State) (g d : Nat) : Bool :=
  let n := dCount d
  let links := List.range (n - 1)
  decide (2 ≤ n ∧ n ≤ 4) && decide (dF d 3 1 + 2 * (n - 1) ≤ 64) && decide (dF d 20 4 < 2 ^ 13) && decide (dF d 54 2 < 2 ^ 13)
    && (List.range n).all (fun i => pcOk s g ((dF d 32 8 + 8 * dF d (40 + 2 * i) 2) % 2 ^ 64))
    && (List.range 4).all (fun i => decide (i < n) || dF d (40 + 2 * i) 2 = 0)
    && (List.range 3).all (fun j => decide (j < n - 1) || dF d (48 + 2 * j) 2 = 0)
    && links.all (fun j => decide (1 ≤ (dLink d j).2.2 / 256))
    && decide (bits (dF d 20 4) 12 0 * 256 + linkBytes d (n - 1) 0 ≤ scratchSize s g
        ∨ links.all (fun j => (dLink d j).1 = 1) = true)
    && decide (bits (dF d 54 2) 12 0 * 65536 + linkBytes d (n - 1) 1 ≤ 2 ^ 29)
/-- The buffer tokens of a chain with what the free ones are set to (R395). -/
def chainToks (d : Nat) : List (Nat × Nat) :=
  (List.range (dCount d - 1)).flatMap (fun j => [(dF d 3 1 + 2 * j, 0), (dF d 3 1 + 2 * j + 1, (dLink d j).2.1)])
/-- A WPRE (R391). -/
def wpreOk (s : State) (g d : Nat) : Bool :=
  let len := dF d 44 4
  dF d 2 1 = 0 && dF d 3 1 = 0 && decide (dF d 20 4 ≤ 3) && dF d 32 8 % 256 = 0 && decide (dF d 32 8 < 2 ^ 41)
    && dF d 40 4 % 256 = 0 && len % 256 = 0 && decide (256 ≤ len ∧ len ≤ 1310720) && dF d 48 16 = 0
    && (if dF d 20 4 % 2 = 1 then dF d 40 4 = 0 else decide (dF d 40 4 + len ≤ scratchSize s g))
/-- A NOP or DRAIN (R392). -/
def plainOk (d : Nat) : Bool := dF d 2 1 = 0 && dF d 3 1 = 0 && dF d 20 4 = 0 && dF d 32 32 = 0

/-- Is the descriptor malformed, a chain's tokens aside? (R393) -/
def malformed (s : State) (g d : Nat) : Bool :=
  !(commonOk d && (match descKind d with
    | 0 | 4 => plainOk d
    | 1 => stageOk s g d
    | 2 => chainShapeOk s g d
    | 3 => wpreOk s g d
    | _ => false))

/-- A chain that would launch is malformed while one of its tokens is not 0 (R393). -/
def chainDirty (s : State) (g d : Nat) : Bool := descKind d = 2 && (chainToks d).any (fun x => tok s g x.1 ≠ 0)

/-! ## Fetching (R385 to R387) -/

/-- Count a core's descriptors (R404). -/
def descLed (g t n : Nat) : Upd := ledAdd 0x06 (g / 64) (g % 64) t n
/-- Change a core's descriptor machinery. -/
def setStream (g : Nat) (x : Stream) : Upd := act (.stream g x)
/-- Descriptors of a ring in the buffer. -/
def inBuf (x : Stream) (n : Nat) : Nat := (x.buf.filter (·.1 = n)).length
/-- The burst a ring may fetch now: its length (R385). -/
def burstLen (s : State) (g n : Nat) : Nat :=
  let b := coreB g
  let cons := rd s (b + R.RING_CONS n)
  min 16 (min ((rd s (b + R.RING_PROD n) + 2 ^ 32 - cons) % 2 ^ 32) (16 - cons % 16))

/-- A ring with room and unread descriptors asks for a burst; in RUN only, since DRAIN fetches none (R385, R408). -/
def fetchBurst (g n : Nat) : Upd := read fun s =>
  let x := streamOf s g
  when (decide (n < 4) && pgState s ⟨.CORE, g⟩ = stRUN && fld s (coreB g + R.RING_CTRL n) 0 0 = 1
      && decide (burstLen s g n ≠ 0) && decide (inBuf x n + 16 ≤ 32) && !x.stopped.contains n && !x.bursts.any (·.ring = n))
    (setStream g { x with bursts := x.bursts ++ [{ ring := n, seq := rd s (coreB g + R.RING_CONS n), n := burstLen s g n, time := s.now }] })

/-- RING_FETCH_BURST. -/
def execRingFetchBurst (core ring : Nat) (s : State) : Host.Outcome State Fault Refusal := done (fetchBurst core ring) s

/-- Where descriptor `q` of a ring lies. -/
def descAddr (s : State) (g n q : Nat) : Nat :=
  rd64 s (coreB g + R.RING_BASE_LO n) + (q % 2 ^ fld s (coreB g + R.RING_SIZE n) 4 0) * 64

/-- A burst ends badly: it is discarded, and the ring fetches nothing until START (R387). -/
def burstFails (g : Nat) (b : Burst) (src : Nat) : Upd := read fun s =>
  let x := streamOf s g
  seqs [setStream g { x with bursts := x.bursts.filter (· ≠ b), stopped := x.stopped ++ [b.ring] }, descFault g b.ring b.seq src]

/-- Its descriptors enter the buffer and RING_CONS advances. -/
def burstLands (g : Nat) (b : Burst) (val : Nat → Nat) : Upd := read fun s =>
  let x := streamOf s g
  seqs [setStream g { x with bursts := x.bursts.filter (· ≠ b),
                             buf := x.buf ++ (List.range b.n).map (fun i => (b.ring, (b.seq + i) % 2 ^ 32, val (b.seq + i))) },
    setReg (coreB g + R.RING_CONS b.ring) (b.seq + b.n), descLed g 0 b.n]

/-- A burst arrives, or is past CORE_MEM_TIMEOUT (`ok` false), or finds poison or a bad address. -/
def burstArrives (g n : Nat) (ok : Bool) : Upd := read fun s =>
  let x := streamOf s g
  onSome (x.bursts.find? (·.ring = n)) fun b =>
    let host := fld s (coreB g + R.RING_CTRL n) 1 1 = 1
    let a := descAddr s g n b.seq
    if !ok then when (s.now ≥ b.time + memLimit s g) (burstFails g b cTimeout)
    else if host then burstLands g b (fun q => hostNum s (descAddr s g n q) 64)
    else if a ≥ 2 ^ 41 ∨ reach s a = .dead then seqs [when (a < 2 ^ 41) (deadDpa a (coreOrg g) true), burstFails g b cAddr]
    else if reach s a = .retry then skip
    else if rangePoison s a (64 * b.n) then burstFails g b cPLoad
    else burstLands g b (fun q => memNum s (descAddr s g n q) 64)

/-- RING_BURST_ARRIVAL. -/
def execRingBurstArrival (core ring : Nat) (ok : Bool) (s : State) : Host.Outcome State Fault Refusal :=
  done (burstArrives core ring ok) s

/-! ## Completion (R400 to R402) -/

/-- The completion record (R401). -/
def cplBytes (s : State) (g ring seq status : Nat) : List Byte :=
  toBytes 4 seq ++ toBytes 1 status ++ toBytes 1 ring ++ toBytes 2 g ++ toBytes 8 s.now

/-- Write the record, if the descriptor asks for one. -/
def writeCpl (g ring seq d status : Nat) : Upd := read fun s =>
  let a := dCpl d
  when (a ≠ 0 && cplOk d) (
    if dHost d then hostWrite a (cplBytes s g ring seq status)
    else if reach s a = .dead then deadDpa a (coreOrg g) false
    else memWrite a (cplBytes s g ring seq status))

/-- Send one completion signal; to another core it travels (R400). -/
def sendSig (g ring seq : Nat) (x : Nat × Nat × Nat) : Upd := read fun s =>
  let (target, k, n) := x
  when (n ≠ 0) (
    if target = g then
      (if tokOver s g k n then seqs [tokLed g 0 n, tokLed g 2 n, descFault g ring seq cTokOvf]
       else seqs [tokLed g 0 n, tokLed g 1 n, addTok g k n])
    else
      let y := streamOf s g
      seqs [tokLed g 0 n, setStream g { y with sigs := y.sigs ++ [{ ring := ring, seq := seq, target := target, tok := k, n := n, time := s.now }] }])

/-- A descriptor ends with a status: its record, and its signals where the status sends them. -/
def endDesc (g ring seq d status : Nat) : Upd :=
  seqs [writeCpl g ring seq d status, when (status = 0 || status = 4) (each (dSigs d) (sendSig g ring seq))]

/-- Does a chain's token stand where it must at its end? (R396) -/
def tokOff (s : State) (g : Nat) (x : Nat × Nat) : Nat := if tok s g x.1 ≥ x.2 then tok s g x.1 - x.2 else x.2 - tok s g x.1

/-- Every thread of a descriptor is free: a chain's tokens are checked and set to 0, then it completes (R396, R400, R402). -/
def descComplete (g ring seq : Nat) : Upd := read fun s =>
  let x := streamOf s g
  onSome (x.running.find? (fun r => r.ring = ring && r.seq = seq && r.kind ≠ 3)) fun r =>
    let off := r.toks.foldl (fun n e => n + tokOff s g e) 0
    let poisonHost := !dHost r.data && dCpl r.data ≠ 0 && cplOk r.data && reach s (dCpl r.data) = .retry
    when (r.threads.all (fun th => (thr s g th).state = tFREE) && !poisonHost) (seqs [
      setStream g { x with running := x.running.filter (· ≠ r) },
      each r.toks (fun e => setTok g e.1 0),
      when (r.kind = 2) (seqs [ledAdd 0x05 (g / 64) (g % 64) (if off = 0 then 1 else 2) 1, ledAdd 0x05 (g / 64) (g % 64) 4 off]),
      descLed g 4 1,
      endDesc g ring seq r.data (if r.killed then 2 else if off ≠ 0 then 3 else 0)])

/-- DESCRIPTOR_COMPLETION. -/
def execDescriptorCompletion (core ring seq : Nat) (s : State) : Host.Outcome State Fault Refusal :=
  done (descComplete core ring seq) s

/-! ## Launch (R393 to R399) -/

/-- The lowest-numbered free threads. -/
def freeList (s : State) (g n : Nat) : List Nat := ((List.range 64).filter (fun th => (thr s g th).state = tFREE)).take n
/-- Threads a descriptor needs. -/
def threadsOf (d : Nat) : Nat := if descKind d = 1 ∨ descKind d = 2 then dCount d else 0

/-- Can the head of ring `n` launch, or be turned away as malformed? (R397) -/
def canLaunch (s : State) (g n : Nat) : Bool :=
  match headOf (streamOf s g) n with
  | none => false
  | some (_, d) =>
    let st := pgState s ⟨.CORE, g⟩
    (st = stRUN || st = stDRAIN) && !((SMap.find (coreB g) s.busy).any (·.op = 4))
      && (malformed s g d || (descKind d ≠ 4 && !barrierPending s g && waitsMet s g d && decide ((freeList s g (threadsOf d)).length = threadsOf d)))

/-- The ring that launches next: one passed over 32 times, else the lowest-numbered (R398). -/
def pickRing (s : State) (g : Nat) : Option Nat :=
  let can := (List.range 4).filter (canLaunch s g)
  match can.find? (fun n => SMap.get 0 n (streamOf s g).passed ≥ 32) with
  | some n => some n
  | none => can.head?

/-- Remove the first buffered descriptor of ring `n`. -/
def dropHead (n : Nat) : List (Nat × Nat × Nat) → List (Nat × Nat × Nat)
  | [] => []
  | e :: l => if e.1 = n then l else e :: dropHead n l

/-- Take the head of ring `n` off the buffer; every other ring that could have launched has been passed over once more. -/
def takeHead (g n : Nat) : Upd := read fun s =>
  let x := streamOf s g
  let p := (List.range 4).foldl (fun m k =>
    if k = n then SMap.set 0 k 0 m else if canLaunch s g k then SMap.set 0 k (SMap.get 0 k m + 1) m else m) x.passed
  setStream g { x with buf := dropHead n x.buf, passed := p }

/-- Subtract the waits (R397). -/
def payWaits (g d : Nat) : Upd :=
  each ((waitWords d).filter (·.2 ≠ 0)) (fun w => read fun s => setTok g w.1 (tok s g w.1 - w.2))

/-- A link token word for s6 or s7 (R394). -/
def linkWord (d j : Nat) : Nat :=
  let l := dLink d j
  dF d 3 1 + 2 * j + (dF d 3 1 + 2 * j + 1) * 2 ^ 8 + l.2.1 * 2 ^ 16 + l.2.2 * 2 ^ 32

/-- The registers of copy or stage `i` at launch (R394). -/
def launchRegs (g ring seq d i : Nat) : List Nat :=
  let n := dCount d
  if descKind d = 1 then [i, n, dF d 40 8, dF d 48 8, dF d 56 8, 0, 0, seq + ring * 2 ^ 32]
  else [i, n, dF d 56 8, if i = 0 then 0 else linkEa g d (i - 1), if i + 1 = n then 0 else linkEa g d i,
    if i = 0 then 0 else linkWord d (i - 1), if i + 1 = n then 0 else linkWord d i, seq + ring * 2 ^ 32]

/-- The PC of copy or stage `i`. -/
def launchPc (d i : Nat) : Nat := if descKind d = 1 then dF d 32 8 else (dF d 32 8 + 8 * dF d (40 + 2 * i) 2) % 2 ^ 64

/-- A thread as a descriptor launches it: every other register 0, no poison (R81, R394). -/
def launched (g ring seq d i : Nat) : Thread :=
  let l := launchRegs g ring seq d i
  let t : Thread := { state := tREADY, pc := launchPc d i, ring := ring, seq := seq }
  (List.range 8).foldl (fun t k => t.put (k + 1) (l.getD k 0) false) t

/-- A malformed descriptor at the head: not executed; status 1 if its address allows, CORE_illegal_op with no thread (R393). -/
def launchMalformed (g n seq d : Nat) : Upd :=
  seqs [takeHead g n, descLed g 2 1, writeCpl g n seq d 1, descFault g n seq cIllegal]

/-- Launch the threads of a STAGE or CHAIN (R389, R390, R395, R397). -/
def launchThreads (g n seq d : Nat) : Upd := read fun s =>
  let ths := freeList s g (threadsOf d)
  let tk := if descKind d = 2 then chainToks d else []
  seqs [takeHead g n, payWaits g d, descLed g 1 1, when (descKind d = 2) (ledAdd 0x05 (g / 64) (g % 64) 0 1),
    each tk (fun e => setTok g e.1 e.2),
    each (List.range ths.length) (fun i => setThr g (ths.getD i 0) (launched g n seq d i)),
    read fun u => let x := streamOf u g
      setStream g { x with running := x.running ++ [{ ring := n, seq := seq, kind := descKind d, data := d, threads := ths, toks := tk, time := u.now }] }]

/-- A WPRE joins the prefetch engine (R399). -/
def launchWpre (g n seq d : Nat) : Upd :=
  seqs [takeHead g n, payWaits g d, descLed g 1 1, read fun s => let x := streamOf s g
    setStream g { x with running := x.running ++ [{ ring := n, seq := seq, kind := 3, data := d, time := s.now }] }]

/-- A NOP completes at launch (R399). -/
def launchNop (g n seq d : Nat) : Upd := seqs [takeHead g n, payWaits g d, descLed g 1 1, descLed g 4 1, endDesc g n seq d 0]

/-- The head of ring `n` launches, when it is that ring's turn and the head is of the kind asked for. -/
def launchHead (g n kind : Nat) (u : Nat → Nat → Nat → Nat → Upd) : Upd := read fun s =>
  onSome (headOf (streamOf s g) n) fun h =>
    when (pickRing s g = some n) (
      if malformed s g h.2 || chainDirty s g h.2 then launchMalformed g n h.1 h.2
      else when (descKind h.2 = kind) (u g n h.1 h.2))

/-- STAGE. -/
def execStage (core ring : Nat) (s : State) : Host.Outcome State Fault Refusal := done (launchHead core ring 1 launchThreads) s
/-- CHAIN. -/
def execChain (core ring : Nat) (s : State) : Host.Outcome State Fault Refusal := done (launchHead core ring 2 launchThreads) s
/-- WPRE. -/
def execWpre (core ring : Nat) (s : State) : Host.Outcome State Fault Refusal := done (launchHead core ring 3 launchWpre) s
/-- NOP_DESCRIPTOR. -/
def execNopDescriptor (core ring : Nat) (s : State) : Host.Outcome State Fault Refusal := done (launchHead core ring 0 launchNop) s

/-! ## WPRE (R399, R402, R403) -/

/-- One line of a WPRE: into scratch, poison with it, or into the leaf cache as a PREF with KEEP. -/
def wpreLine (g d a i : Nat) : Upd := read fun s =>
  let m := memRead s a 256
  if dF d 20 4 % 2 = 0 then scratchWrite g (dF d 40 4 + 256 * i) (if m.2 then List.replicate 256 0 else toBytes 256 m.1) m.2
  else seqs [touchLine g (a / 256) .pref 1, fillArrive g (a / 256)]

/-- Does a line of the WPRE read poison? -/
def wprePoison (s : State) (d : Nat) : Bool := (linesOf (dF d 32 8) (dF d 44 4)).any (fun a => (memRead s (a * 256) 256).2)
/-- Does a line wait for a tile that answers RETRY_LATER? -/
def wpreWaits (s : State) (d : Nat) : Bool := reachRange s (dF d 32 8) (dF d 44 4) = .retry

/-- The oldest WPRE ends: its lines are written, or one was not returned within CORE_MEM_TIMEOUT (`ok` false). -/
def wpreEnds (g ring seq : Nat) (ok : Bool) : Upd := read fun s =>
  let x := streamOf s g
  onSome (x.running.find? (·.kind = 3)) fun r => when (r.ring = ring && r.seq = seq) (
    let gone := setStream g { x with running := x.running.filter (· ≠ r) }
    let src := dF r.data 32 8
    if ok then when (!wpreWaits s r.data) (seqs [gone, descLed g 4 1,
      when (reachRange s src (dF r.data 44 4) = .dead) (deadDpa src (coreOrg g) true),
      each (List.range (dF r.data 44 4 / 256)) (fun i => wpreLine g r.data (src + 256 * i) i),
      endDesc g ring seq r.data (if wprePoison s r.data then 4 else 0)])
    else when (s.now ≥ r.time + memLimit s g) (seqs [gone, descLed g 4 1, descFault g ring seq cTimeout, endDesc g ring seq r.data 5]))

/-- WPRE_COMPLETION. -/
def execWpreCompletion (core ring seq : Nat) (ok : Bool) (s : State) : Host.Outcome State Fault Refusal :=
  done (wpreEnds core ring seq ok) s

/-! ## The layer barrier (R405 to R407) -/

/-- A DRAIN descriptor at the head of ring `n` launches and completes. -/
def launchDrain (g n : Nat) : Upd := read fun s =>
  onSome (headOf (streamOf s g) n) fun h => when (descKind h.2 = 4)
    (seqs [takeHead g n, payWaits g h.2, descLed g 1 1, descLed g 4 1, endDesc g n h.1 h.2 0])

/-- When a pending barrier's conditions hold: run-ahead squashed, DRAIN descriptors launch and complete, DRAIN threads go on. -/
def barrierComplete (g : Nat) : Upd := read fun s =>
  let st := pgState s ⟨.CORE, g⟩
  when ((st = stRUN || st = stDRAIN) && barrierPending s g && barrierMet s g) (seqs [squashAll g,
    each (List.range 4) (fun n => when (drainHead (streamOf s g) n) (launchDrain g n)),
    read fun u => each (coreThreads u g) (fun e => when (inDrain e.2) (setThr g e.1 e.2.ready.next))])

/-- LAYER_BARRIER_COMPLETE. -/
def execLayerBarrierComplete (core : Nat) (s : State) : Host.Outcome State Fault Refusal := done (barrierComplete core) s

/-- DRAIN_DESCRIPTOR: at the head of its ring it makes a barrier pending, which its place in the buffer says; it launches with
the barrier's completion. -/
def execDrainDescriptor (core ring : Nat) (s : State) : Host.Outcome State Fault Refusal :=
  done (read fun s => onSome (headOf (streamOf s core) ring) fun h =>
    if malformed s core h.2 then when (pickRing s core = some ring) (launchMalformed core ring h.1 h.2)
    else when (descKind h.2 = 4) (barrierComplete core)) s

end Sys2Proof.Machine
end

