-- ==== Sys2Proof/Machine/DispatchUnit.lean ====
section
/-! DEFINITION. Sys2Proof/Machine/DispatchUnit.lean: the dispatch and conditional instructions, and the dispatch unit's work
on a round: placement, batches, returns and combining (R239 to R265). -/
namespace Sys2Proof.Machine
open Sys2Proof

/-! ## The instructions (R257) -/

/-- DOPEN, DSKIP and BMSCAN write rd. -/
def shDspRd : Shape := ⟨fun _ => false, fun w => engReads w true⟩
/-- DLOGIT: rd is s0. -/
def shDlogit : Shape := ⟨fun w => f1 w ≠ 0, fun w => engReads w false⟩
/-- DRET: rd and ra are s0. -/
def shDret : Shape := ⟨fun w => f1 w ≠ 0 || f2 w ≠ 0, fun w => engReads w false⟩

/-- Put an instruction into the port and work the port off. -/
def portPush (g : Nat) (o : EOp) : Upd :=
  seqs [read fun s => setPort g { portOf s g with q := (portOf s g).q ++ [o] }, portGo g]
/-- Issue an instruction to the port. -/
def portIssue (g th op w : Nat) (sh : Shape) (wr : Bool) : Upd :=
  issue g th w sh (fun t => toEngine g th op w 4 false wr (fun s => portRoom s g op)
    (fun o => portPush g { o with after := if op = 0x82 then t.slots.map (fun m => (m.pc, m.time)) else [] }) t)

/-- DOPEN. -/
def execDopen (core th w : Nat) (s : State) : Host.Outcome State Fault Refusal := done (portIssue core th 0x80 w shDspRd true) s
/-- DLOGIT. -/
def execDlogit (core th w : Nat) (s : State) : Host.Outcome State Fault Refusal := done (portIssue core th 0x81 w shDlogit false) s
/-- DRET. -/
def execDret (core th w : Nat) (s : State) : Host.Outcome State Fault Refusal := done (portIssue core th 0x82 w shDret false) s
/-- DSKIP. -/
def execDskip (core th w : Nat) (s : State) : Host.Outcome State Fault Refusal := done (portIssue core th 0x83 w shDspRd true) s
/-- BMSCAN. -/
def execBmscan (core th w : Nat) (s : State) : Host.Outcome State Fault Refusal := done (portIssue core th 0x84 w shDspRd true) s

/-! ## Selection and placement (R239 to R241) -/

/-- Does expert `x` rank before expert `y`: a higher score, or an equal one and a lower number; a NaN after every number. -/
def ranksBefore (x y : Nat × Nat) : Bool :=
  let a := f32 x.2
  let b := f32 y.2
  if a.isNan then b.isNan && decide (x.1 < y.1)
  else if b.isNan then true
  else if b.lt a then true
  else !a.lt b && decide (x.1 < y.1)
/-- Insert into a ranking. -/
def rankInsert (x : Nat × Nat) : List (Nat × Nat) → List (Nat × Nat)
  | [] => [x]
  | y :: l => if ranksBefore x y then x :: y :: l else y :: rankInsert x l
/-- A token's first 16 ranked experts. -/
def ranked (r : Round) (t : Nat) : List Nat :=
  match SMap.find t r.logits with
  | some (some l) =>
    let scores := (List.range r.experts.length).filterMap (fun e => match r.experts[e]? with
      | some x => if x.valid then some (e, add32 ((l[e]?).getD 0) x.bias) else none
      | none => none)
    ((scores.foldr rankInsert []).map (·.1)).take 16
  | _ => []

/-- Placement as it goes: choices placed, cursors of the tokens that have spilled, spills and unplaced choices. -/
structure Placing where
  choices : List Choice := []
  cursor : List (Nat × Nat) := []
  spills : Nat := 0
  unplaced : Nat := 0

/-- Choices an expert holds. -/
def Placing.load (p : Placing) (e : Nat) : Nat := (p.choices.filter (·.exp = e)).length
/-- Has the expert room? -/
def Placing.room (p : Placing) (r : Round) (e : Nat) : Bool :=
  match r.experts[e]? with | some x => x.valid && decide (p.load e < x.cap) | none => false
/-- Place choice `i` of token `t`. -/
def Placing.put (p : Placing) (t i e : Nat) : Placing := { p with choices := p.choices ++ [{ tok := t, idx := i, exp := e, slot := p.load e }] }
/-- The first spill candidate with room from place `n` of the ranking on. -/
def spillTo (p : Placing) (r : Round) (l : List Nat) (n : Nat) : Option (Nat × Nat) :=
  (((List.range l.length).zip l).drop n).find? (fun e => p.room r e.2)
/-- Choice `i` of token `t` (R240). -/
def placeOne (r : Round) (i : Nat) (p : Placing) (t : Nat) : Placing :=
  if r.skips t || r.bad t then p
  else
    let l := ranked r t
    match l[i]? with
    | none => { p with unplaced := p.unplaced + 1 }
    | some e =>
      if p.room r e then p.put t i e
      else match spillTo p r l ((SMap.find t p.cursor).getD r.k) with
        | none => { p with unplaced := p.unplaced + 1 }
        | some (n, f) => { p.put t i f with spills := p.spills + 1, cursor := SMap.put t (n + 1) p.cursor }
/-- The whole placement, rank by rank. -/
def placeAll (r : Round) : Placing :=
  (List.range r.k).foldl (fun p i => (List.range r.tokens).foldl (placeOne r i) p) {}

/-- Does the unit work? (R261) -/
def dspWorks (s : State) (site : Nat) : Bool :=
  let st := pgState s (dspR site)
  (st = stRUN || st = stDRAIN) && !clockLost s (dspR site)

/-- Placement, once every token that is not skipped has its logits; the unused predictions are squashed (R240, R241, R256). -/
def placement (site h : Nat) : Upd := read fun s =>
  onSome ((dspOf s site).round h) fun r =>
    let ready := (List.range r.tokens).all (fun t => r.skips t || (SMap.find t r.logits).isSome)
    let p := placeAll r
    let b := dspB site
    let wm := fld s (b + R.DSP_SPILL_WM) 13 0
    let unused := r.predicted.filter (fun e => p.load e = 0)
    when (dspWorks s site && r.state = 1 && ready) (seqs [
      setRound site { r with state := 2, choices := p.choices, spills := p.spills, unplaced := p.unplaced, time := s.now },
      bump (b + R.DSP_CNT_SPILL) p.spills, bump (b + R.DSP_CNT_UNPLACED) p.unplaced,
      dspLed site 0x03 3 p.spills, dspLed site 0x03 4 p.unplaced,
      when (p.unplaced > 0) (evt (dspR site) 0 0x0A00 0 (payload [(24, 1, h), (26, 2, r.layer), (28, 4, p.unplaced)])),
      when (wm ≠ 0 && decide (p.spills ≥ wm)) (evt (dspR site) 4 0x0A04 0 (payload [(24, 1, h), (26, 2, r.layer), (28, 4, p.spills)])),
      sendUnpins site true (fun y => y.handle = h && y.seq = r.seq && unused.contains y.exp)])

/-- PLACEMENT. -/
def execPlacement (site handle : Nat) (s : State) : Host.Outcome State Fault Refusal := done (placement site handle) s

/-! ## Batches (R237, R243) -/

/-- The batch header. -/
def batchHeader (site : Nat) (r : Round) (e : Nat) : List Byte :=
  toBytes 2 (r.of e).length ++ toBytes 1 r.handle ++ toBytes 1 e ++ toBytes 2 site ++ toBytes 2 r.layer ++ toBytes 2 r.seq
    ++ List.replicate 54 0
/-- The next expert to serve. -/
def nextExpert (r : Round) : Option (Nat × DExpert) :=
  ((List.range r.experts.length).zip r.experts).find? (fun e => e.2.valid && !r.sent.contains e.1)
/-- Has the unit read every result row of the expert's previous round? It is known by its input buffer. -/
def prevRead (x : Dsp) (r : Round) (e : DExpert) : Bool :=
  x.rounds.all (fun y => y.seq ≥ r.seq || ((List.range y.experts.length).zip y.experts).all (fun f =>
    !f.2.valid || f.2.inBase ≠ e.inBase || (y.of f.1).all (fun c => y.written.contains c.tok)))
/-- Copy one input row into its slot; poison goes with it, codeword by codeword. -/
def copyRow (site : Nat) (r : Round) (e : DExpert) (c : Choice) : Upd := read fun s =>
  let src := (r.xBase + c.tok * r.xPitch) % 2 ^ 41
  let dst := (e.inBase + 64 + c.slot * r.xBytes) % 2 ^ 41
  let n := r.xBytes
  let dead := reachRange s src n = .dead
  let bad := (List.range (n / 32)).filter (fun k => dead || rangePoison s (src + 32 * k) 32)
  seqs [when dead (deadDpa src 0 true), dspWrite dst (if dead then List.replicate n 0 else memBytes s src n),
    each bad (fun k => dspPoison (dst + 32 * k) 32), when (!bad.isEmpty) (dspFault site dPoison)]

/-- The unit serves the next expert of a round: rows, header, then its token. -/
def batchSend (site h : Nat) : Upd := read fun s =>
  let x := dspOf s site
  onSome (x.round h) fun r => onSome (nextExpert r) fun (e, d) =>
    let lost := pgState s ⟨.TILE, d.home / 64⟩ = stRETIRED
    let n := 64 + (r.of e).length * r.xBytes
    let waits := reachRange s d.inBase n = .retry || (r.of e).any (fun c => reachRange s ((r.xBase + c.tok * r.xPitch) % 2 ^ 41) r.xBytes = .retry)
    when (dspWorks s site && r.state = 2) (
      if lost then faultRound site dLost r
      else when (!waits && takesSignal s d.home && prevRead x r d) (seqs [
        each (r.of e) (copyRow site r d), dspWrite d.inBase (batchHeader site r e),
        read fun t => onSome ((dspOf t site).round h) fun r' => seqs [
          setRound site { r' with sent := r'.sent ++ [e], time := t.now },
          bump (dspB site + R.DSP_CNT_OUT) (r.of e).length, dspLed site 0x03 0 (r.of e).length,
          unitSignal d.home d.tok 1]]))

/-- EXPERT_BATCH_SEND. -/
def execExpertBatchSend (site handle : Nat) (s : State) : Host.Outcome State Fault Refusal := done (batchSend site handle) s

/-! ## Returns (R244, R249) -/

/-- Have the thread's memory operations before a DRET completed? -/
def dretReady (s : State) (g : Nat) (o : EOp) : Bool :=
  (thr s g o.th).slots.all (fun m => !o.after.contains (m.pc, m.time))
/-- A late return. -/
def lateReturn (site g : Nat) (o : EOp) : Upd :=
  seqs [bump (dspB site + R.DSP_CNT_LATE_RET) 1,
    evt (dspR site) 2 0x0A02 0 (payload [(24, 1, bits o.b 11 8), (25, 1, bits o.b 7 0), (26, 2, bits o.b 33 18), (28, 2, g)])]
/-- What a DRET does at its home. -/
def takeReturn (site g : Nat) (o : EOp) : Upd := read fun s =>
  let e := bits o.b 7 0
  match (dspOf s site).round (bits o.b 11 8) with
  | none => lateReturn site g o
  | some r =>
    if r.seq % 2 ^ 16 ≠ bits o.b 33 18 then lateReturn site g o
    else if r.state = 1 || r.returned.contains e || !r.sent.contains e then dspFault site dSeq
    else setRound site { r with returned := r.returned ++ [e], time := s.now }

/-- A DRET reaches its home, which accepts it or answers RETRY_LATER; an illegal word is a sequence error of the issuing
tile. -/
def dretArrive (g i : Nat) : Upd := read fun s =>
  let x := portOf s g
  onSome x.drets[i]? fun o =>
    let site := bits o.b 17 12
    let st := pgState s (dspR site)
    let taken : Upd := seqs [setPort g { x with drets := x.drets.eraseIdx i }, engDone g o]
    when (dretReady s g o) (
      if bits o.b 63 34 ≠ 0 then seqs [taken, dspFault (g / 64) dSeq]
      else when (siteEnabled s site && !clockLost s (dspR site)) (
        if st = stFAULT then seqs [taken, lateReturn site g o]
        else when (st = stRUN || st = stDRAIN || st = stHALT) (seqs [taken, takeReturn site g o])))

/-- DRET_ARRIVAL: DRET `pos` of those on their way from a core. -/
def execDretArrival (core pos : Nat) (s : State) : Host.Outcome State Fault Refusal := done (dretArrive core pos) s

/-- The limit of R248 in ns. -/
def dspLimit (s : State) (site : Nat) : Nat := fld s (dspB site + R.DSP_TIMEOUT) 15 0 * 1000
/-- A DRET not accepted in time is abandoned (R249). -/
def dretExpiry (g i : Nat) : Upd := read fun s =>
  let x := portOf s g
  onSome x.drets[i]? fun o => when (s.now ≥ o.time + dspLimit s (g / 64) && dretReady s g o)
    (seqs [setPort g { x with drets := x.drets.eraseIdx i }, engDone g o, dspFault (g / 64) dRet])

/-- DRET_NOT_ACCEPTED. -/
def execDretNotAccepted (core pos : Nat) (s : State) : Host.Outcome State Fault Refusal := done (dretExpiry core pos) s

/-! ## Combining (R242, R245) -/

/-- The logit of an expert for a token. -/
def Round.logit (r : Round) (t e : Nat) : Nat := match SMap.find t r.logits with | some (some l) => (l[e]?).getD 0 | _ => 0
/-- The largest of some patterns. -/
def top32 (l : List Nat) : Nat := match l with | [] => 0 | x :: xs => xs.foldl (fun a b => if (f32 a).lt (f32 b) || (f32 a).isNan then b else a) x
/-- The gate weights of a token's placed choices, in rank order, in FP32 (R242). -/
def weights (r : Round) (t : Nat) (cs : List Choice) : List Nat :=
  let ls := cs.map (fun c => r.logit t c.exp)
  let valid := ((List.range r.experts.length).filter (fun e => match r.experts[e]? with | some x => x.valid | none => false)).map (r.logit t)
  let norm (w : List Nat) : List Nat := if bit r.gate 2 then w.map (fun x => div32 x (sum32 w)) else w
  match r.gate % 4 with
  | 0 =>
    let es := ls.map (fun l => Approx.exp32 (sub32 l (top32 ls)))
    es.map (fun e => div32 e (sum32 es))
  | 1 =>
    let m := top32 valid
    let total := sum32 (valid.map (fun l => Approx.exp32 (sub32 l m)))
    norm (ls.map (fun l => div32 (Approx.exp32 (sub32 l m)) total))
  | _ => norm (ls.map (fun l => div32 0x3F800000 (add32 0x3F800000 (Approx.exp32 (l ^^^ 0x80000000)))))

/-- A token's choices in rank order. -/
def tokenChoices (r : Round) (t : Nat) : List Choice := (List.range r.k).flatMap (fun i => r.choices.filter (fun c => c.tok = t && c.idx = i))
/-- Where a choice's result row lies. -/
def resultRow (r : Round) (c : Choice) : Nat :=
  match r.experts[c.exp]? with | some x => (x.retBase + c.slot * r.width * esz r.rfmt) % 2 ^ 41 | none => 0
/-- Element `j` of a result row held as a number, as an FP32 pattern. -/
def resultElem (r : Round) (d j : Nat) : Nat := if r.rfmt = 1 then d / 2 ^ (16 * j) % 2 ^ 16 * 2 ^ 16 else d / 2 ^ (32 * j) % 2 ^ 32
/-- A token's output row, from its result rows and weights. -/
def combineRow (r : Round) (ws rows : List Nat) : List Byte :=
  (List.range r.width).flatMap (fun j =>
    let v := (ws.zip rows).foldl (fun a e => add32 a (mul32 e.1 (resultElem r e.2 j))) 0
    if r.ofmt = 1 then toBytes 2 (Fmt.bf16.encode (f32 v)) else toBytes 4 v)

/-- A token's row is written, once its last choice has returned (R245, R253, R259). -/
def tokenCombine (site h t : Nat) : Upd := read fun s =>
  onSome ((dspOf s site).round h) fun r =>
    let cs := tokenChoices r t
    let n := r.width * esz r.rfmt
    let ready := cs.all (fun c => r.returned.contains c.exp)
    let waits := reachRange s (r.out t) (r.width * esz r.ofmt) = .retry || cs.any (fun c => reachRange s (resultRow r c) n = .retry)
    let rows := cs.map (fun c => devNum s [] (resultRow r c) n)
    let bad := rows.any (·.2)
    let mark : Upd := read fun u => onSome ((dspOf u site).round h) fun r' => seqs [
      setRound site { r' with written := r'.written ++ [t], time := u.now },
      bump (dspB site + R.DSP_CNT_IN) cs.length, dspLed site 0x03 1 cs.length]
    when (dspWorks s site && r.state = 2 && ready && decide (t < r.tokens) && !r.written.contains t && !waits) (seqs [
      each cs (fun c => when (reachRange s (resultRow r c) n = .dead) (deadDpa (resultRow r c) 0 true)),
      if r.bad t && !r.skips t || bad then dspPoison (r.out t) (r.width * esz r.ofmt)
      else dspWrite (r.out t) (combineRow r (weights r t cs) (rows.map (·.1))),
      mark, when bad (dspFault site dPoison)])

/-- TOKEN_COMBINE. -/
def execTokenCombine (site handle tok : Nat) (s : State) : Host.Outcome State Fault Refusal := done (tokenCombine site handle tok) s

/-- A round completes when every output row is written (R246). -/
def roundComplete (site h : Nat) : Upd := read fun s =>
  onSome ((dspOf s site).round h) fun r =>
    let lost := pgState s ⟨.TILE, r.doneCore / 64⟩ = stRETIRED
    let sentAll := (nextExpert r).isNone
    when (dspWorks s site && r.state = 2 && decide (r.written.length = r.tokens) && sentAll) (
      if lost then faultRound site dLost r else when (takesSignal s r.doneCore) (endRound site r))

/-- ROUND_COMPLETE. -/
def execRoundComplete (site handle : Nat) (s : State) : Host.Outcome State Fault Refusal := done (roundComplete site handle) s

/-! ## Retries and timeouts (R248) -/

/-- DSP_RETRY: what a port holds for a tile that answered RETRY_LATER is tried again. -/
def execDspRetry (site : Nat) (s : State) : Host.Outcome State Fault Refusal := done (sitePorts site) s

/-- An access not completed within DSP_TIMEOUT: the round aborts; or the DOPEN at the head of a core's port ends with
status 6, and a DLOGIT there ends its round. -/
def dspExpiry (g h : Nat) (atPort : Bool) : Upd := read fun s =>
  let site := g / 64
  let x := portOf s g
  if atPort then
    onSome x.q.head? fun o => when (s.now ≥ o.time + dspLimit s site && dspTakes s site o.op) (
      let pop : Upd := setPort g { x with q := x.q.drop 1 }
      match o.op with
      | 0x80 => seqs [pop, engResult g o 6 false, dspFault site dCfg, portGo g, wakePort g]
      | 0x81 => when (logitWaits s g o) (seqs [pop, engDone g o,
          onSome ((dspOf s site).round (bits o.b 43 40)) (faultRound site dDma), portGo g, wakePort g])
      | _ => skip)
  else onSome ((dspOf s site).round h) fun r => when (s.now ≥ r.time + dspLimit s site && dspWorks s site && r.state = 2)
    (faultRound site dDma r)

/-- DSP_TIMEOUT_EXPIRY: of handle `handle` at the dispatch unit of the core's site, or of the core's port. -/
def execDspTimeoutExpiry (core handle : Nat) (atPort : Bool) (s : State) : Host.Outcome State Fault Refusal :=
  done (dspExpiry core handle atPort) s

/-! ## Expert prefetch (R255, R256) -/

/-- A prefetch request fetches one line as PREF with KEEP does. -/
def prefetchLine (g a : Nat) : Upd := read fun s =>
  let l := leafOf s g
  let past := pinFull s g
  match l.line a with
  | some x => setLeaf g (l.front { x with st := if x.st = .pinned || !past then .pinned else .plain })
  | none =>
    let m := memRead s (a * 256) 256
    when (!m.2) (allocLine g { addr := a, st := if past then .plain else .pinned, data := m.1 })

/-- A core serves a prefetch request, and the unit learns how many lines are pinned and how many were refused. -/
def prefetchRequest (site i : Nat) : Upd := read fun s =>
  onSome (dspOf s site).pins[i]? fun p =>
    when (p.pinned.isNone && reach s (p.line * 256) ≠ .retry) (seqs [
      each ((List.range p.n).map (· + p.line)) (prefetchLine p.core),
      read fun t =>
        let x := dspOf t site
        let n := ((leafOf t p.core).lines.filter (fun y => decide (p.line ≤ y.addr && y.addr < p.line + p.n) && y.st = .pinned)).length
        seqs [setDsp site { x with pins := x.pins.set i { p with pinned := some n } },
          bump (dspB site + R.DSP_CNT_PF_PIN) n, bump (dspB site + R.DSP_CNT_PF_REFUSED) (p.n - n), dspLed site 0x04 0 n]])

/-- PREFETCH_REQUEST: request `pos` of a site's dispatch unit. -/
def execPrefetchRequest (site pos : Nat) (s : State) : Host.Outcome State Fault Refusal := done (prefetchRequest site pos) s

/-- An unpin request is applied once its prefetch has completed. -/
def unpinRequest (site i : Nat) : Upd := read fun s =>
  onSome (dspOf s site).pins[i]? fun p => onSome p.unpin fun squash => onSome p.pinned fun n =>
    seqs [releasePin site p, when squash (bump (dspB site + R.DSP_CNT_PF_SQUASH) n)]

/-- UNPIN_REQUEST. -/
def execUnpinRequest (site pos : Nat) (s : State) : Host.Outcome State Fault Refusal := done (unpinRequest site pos) s

/-! ## Commands (R263) -/

/-- Page number of a site's DSP page. -/
def dspPage (site : Nat) : Nat := Page.tile .DSP site / 0x1000
/-- ROUND_ABORT. -/
def execRoundAbort (o : Origin) (site arg : Nat) (s : State) : Host.Outcome State Fault Refusal := done (command o (dspPage site) 0x10 arg) s
/-- PIN_RELEASE_ALL. -/
def execPinReleaseAll (o : Origin) (site arg : Nat) (s : State) : Host.Outcome State Fault Refusal := done (command o (dspPage site) 0x11 arg) s
/-- DSP_CLEAR_COUNTS. -/
def execDspClearCounts (o : Origin) (site arg : Nat) (s : State) : Host.Outcome State Fault Refusal := done (command o (dspPage site) 0x12 arg) s

end Sys2Proof.Machine
end

