-- ==== Sys2Proof/Machine/Firmware.lean ====
section
/-! DEFINITION. Sys2Proof/Machine/Firmware.lean: the commands of FWU, BCST and MGT, and the messages of a sap broadcast (R660 to R676,
R684). -/
namespace Sys2Proof.Machine
open Sys2Proof

/-! ## Commands (R684) -/

/-- IMAGE_WRITE. -/
def execImageWrite (o : Origin) (arg : Nat) (s : State) : Host.Outcome State Fault Refusal := done (command o (fwuB / 0x1000) 0x10 arg) s
/-- SVN_COMMIT. -/
def execSvnCommit (o : Origin) (arg : Nat) (s : State) : Host.Outcome State Fault Refusal := done (command o (fwuB / 0x1000) 0x11 arg) s
/-- BCAST_SAP. -/
def execBcastSap (o : Origin) (arg : Nat) (s : State) : Host.Outcome State Fault Refusal := done (command o (fwuB / 0x1000) 0x12 arg) s
/-- BCAST_ABORT. -/
def execBcastAbort (o : Origin) (arg : Nat) (s : State) : Host.Outcome State Fault Refusal := done (command o (fwuB / 0x1000) 0x13 arg) s
/-- FWU_CLEAR_COUNTS. -/
def execFwuClearCounts (o : Origin) (arg : Nat) (s : State) : Host.Outcome State Fault Refusal := done (command o (fwuB / 0x1000) 0x14 arg) s
/-- BCST_CLEAR_COUNTS. -/
def execBcstClearCounts (o : Origin) (site arg : Nat) (s : State) : Host.Outcome State Fault Refusal := done (command o (bcstB site / 0x1000) 0x10 arg) s
/-- MGT_CLEAR_COUNTS. -/
def execMgtClearCounts (o : Origin) (arg : Nat) (s : State) : Host.Outcome State Fault Refusal :=
  done (command o (Page.trunk .MGT / 0x1000) 0x10 arg) s

/-! ## Who hears what (R668, R669) -/

/-- Does the receiver work? -/
def rcvUp (s : State) (site : Nat) : Bool := answers s (bcstR site) && (pgState s (bcstR site) = stRUN || pgState s (bcstR site) = stFAULT)
/-- Are the north links of the sites from row `a` up to row `b` of a column UP? -/
def colUp (s : State) (col a b : Nat) : Bool := (List.range 8).all (fun y => !decide (a ≤ y ∧ y < b) || linkSt s (8 * y + col) 0 = 1)
/-- Does what the trunk injects into the site's column reach the site? -/
def colReach (s : State) (site : Nat) : Bool := linkSt s (64 + site % 8) 0 = 1 && colUp s (site % 8) 0 (site / 8)
/-- Sites of a column whose receivers take part in a reduction, from row `a` up: the retired ones forward (R430). -/
def colFrom (s : State) (col a : Nat) : List Nat :=
  ((List.range 8).filter (fun y => decide (a ≤ y) && !tileDead s (8 * y + col))).map (fun y => 8 * y + col)
/-- The nearest receiver to the north. -/
def northOf (s : State) (site : Nat) : Option Nat := (colFrom s (site % 8) (site / 8 + 1)).head?
/-- The REDUCE that a site has sent in this round. -/
def reduceOf (b : Bcast) (site : Nat) : Option (List Nat × List Nat) := b.sent.lookup site
/-- The REDUCE of the receiver to the north, if it has come. -/
def northMsg (s : State) (b : Bcast) (site : Nat) : Option (List Nat × List Nat) := (northOf s site).bind (fun m =>
  if colUp s (site % 8) (site / 8) (m / 8) then reduceOf b m else none)
/-- What a column has told the trunk in this round. -/
def colMsg (s : State) (b : Bcast) (col : Nat) : Option (List Nat × List Nat) := ((colFrom s col 0).head?).bind (fun m => if colReach s m then reduceOf b m else none)

/-- Sites still taking part: targets neither retired nor fenced. -/
def bcLive (s : State) (b : Bcast) : List Nat := (bcTargets s b).filter (fun x => !b.fenced.contains x)
/-- Chunks that a receiver misses. -/
def missing (s : State) (b : Bcast) (site : Nat) : List Nat := (List.range b.n).filter (fun c => !(rcvOf s site).parts.any (·.1 = c))
/-- A chunk of the image, padded with zeros (R667). -/
def chunkOf (b : Bcast) (c : Nat) : Nat := b.data / 256 ^ (256 * c) % 256 ^ 256

/-- The broadcast in progress, with the state. -/
def onBc (f : State → Bcast → Upd) : Upd := read fun s => onSome s.fwu.bc (f s)

/-! ## Chunks (R667 to R669) -/

/-- Is the chunk on its way to the site: of the initial round, or repaired by unicast? -/
def chunkComes (s : State) (b : Bcast) (site c : Nat) : Bool :=
  decide (c < b.n) && (bcLive s b).contains site && rcvUp s site
    && ((b.phase = 1 && colReach s site) || (b.phase = 2 && b.chunks.contains c && b.sites.contains site))
/-- A receiver takes a chunk; `flip` are the bits that changed on the way. -/
def chunkIn (site c flip : Nat) : Upd := onBc fun s b => when (chunkComes s b site c) (
  let got := chunkOf b c ^^^ flip % 256 ^ 256
  seqs [bump (bcstB site + R.BCST_CNT_RX) 1, when (b.phase = 2) (bump (bcstB site + R.BCST_CNT_REPAIR_RX) 1),
    if crc32c (toBytes 256 got) ≠ crc32c (toBytes 256 (chunkOf b c)) then bump (bcstB site + R.BCST_CNT_CRC) 1
    else if (rcvOf s site).parts.any (·.1 = c) then bump (bcstB site + R.BCST_CNT_DUP) 1
    else modRcv site (fun r => { r with id := b.id, n := b.n, parts := r.parts ++ [(c, got)], phase := b.phase, holds := true })])
/-- CHUNK. -/
def execChunk (site chunk flip : Nat) (s : State) : Host.Outcome State Fault Refusal := done (chunkIn site chunk flip) s

/-! ## Reductions and rounds (R669, R670) -/

/-- A site is fenced for the broadcast: cause 0 chunks missing, 1 denied, 2 no reply (R675, R686). -/
def bcFence (cause n site : Nat) : Upd := onBc fun _ b => seqs [
  modBc (fun b => { b with fenced := b.fenced ++ [site] }), modRcv site (fun r => { r with fenced := true }), setBit64 (fwuB + R.FWU_BC_FENCED_LO) site true,
  evt fwuR 3 0x0903 0 (payload [(24, 1, site), (25, 1, cause), (26, 2, b.id), (28, 2, n)]), raise fwuR 1 0]
/-- A phase begins. -/
def bcPhase (n : Nat) : Upd := read fun s => seqs [modBc (fun b => { b with phase := n, since := s.now, sent := [] }), bcShow n]
/-- Every site still taking part has confirmed: activation, or the end if every target is fenced (R671). -/
def bcDecide : Upd := onBc fun s b =>
  let live := bcLive s b
  when (live.all b.conf.contains) (bcPhase (if live.isEmpty && !(bcTargets s b).isEmpty then 6 else 4))
/-- A round ends: what is missing is sent again, or its sites are fenced, and PREPARE follows. -/
def roundEnd : Upd := onBc fun s b =>
  let live := bcLive s b
  let msgs := (List.range 8).map (fun c => match colMsg s b c with
    | some m => m
    | none => let l := live.filter (· % 8 = c); (if l.isEmpty then [] else List.range b.n, l))
  let sites := live.filter (fun x => msgs.any (·.2.contains x))
  let chunks := (List.range b.n).filter (fun c => msgs.any (·.1.contains c))
  if sites.isEmpty then seqs [bcPhase 3, bcDecide]
  else if b.round < 3 then
    let k := chunks.length * sites.length
    seqs [bcPhase 2, modBc (fun b => { b with round := b.round + 1, chunks := chunks, sites := sites, repaired := b.repaired + k }),
      setFld (fwuB + R.FWU_BC_STATE) 11 8 (b.round + 1), bump (fwuB + R.FWU_CNT_REPAIRS) k]
  else seqs [each sites (bcFence 0 chunks.length), bcPhase 3, bcDecide]
/-- Has every column that holds a target reported? -/
def roundCheck : Upd := onBc fun s b =>
  when ((List.range 8).all (fun c => !(bcLive s b).any (· % 8 = c) || (colMsg s b c).isSome)) roundEnd
/-- A site sends its REDUCE: what it misses, with what came from the north. -/
def sendReduce (site : Nat) (north : List Nat × List Nat) : Upd := seqs [onBc fun s b =>
    let own := if (bcLive s b).contains site then missing s b site else []
    let msg := ((List.range b.n).filter (fun c => own.contains c || north.1.contains c), north.2 ++ if own.isEmpty then [] else [site])
    modBc (fun b => { b with sent := b.sent ++ [(site, msg)] }),
  roundCheck]
/-- May the site send a REDUCE in this round? -/
def mayReduce (s : State) (b : Bcast) (site : Nat) : Bool :=
  (b.phase = 1 || b.phase = 2) && rcvUp s site && !tileDead s site && (reduceOf b site).isNone
/-- REDUCE: sent by `site`, after the one of the north. -/
def execReduce (site : Nat) (s : State) : Host.Outcome State Fault Refusal :=
  done (onBc fun s b => when (mayReduce s b site) (match northOf s site with
    | none => sendReduce site ([], [])
    | some _ => onSome (northMsg s b site) (sendReduce site))) s
/-- REDUCE_TIMEOUT: the trunk takes every target above for missing every chunk. -/
def execReduceTimeout (site : Nat) (s : State) : Host.Outcome State Fault Refusal :=
  done (onBc fun s b =>
    when (mayReduce s b site && (northOf s site).isSome && (northMsg s b site).isNone && decide (s.now ≥ b.since + 20000)) (
      let above := (bcLive s b).filter (fun x => decide (x % 8 = site % 8 ∧ site < x))
      sendReduce site (if above.isEmpty then [] else List.range b.n, above))) s
/-- BROADCAST_ROUND_TIMEOUT: a round, or the wait for replies, ends at FWU_BC_TIMEOUT. -/
def execBroadcastRoundTimeout (s : State) : Host.Outcome State Fault Refusal :=
  done (onBc fun s b => when (s.now ≥ b.since + 1000 * fld s (fwuB + R.FWU_BC_TIMEOUT) 15 0) (
    if b.phase = 1 || b.phase = 2 then roundEnd
    else when (b.phase = 3) (seqs [each ((bcLive s b).filter (fun x => !b.conf.contains x)) (fun x => bcFence 2 (missing s b x).length x), bcDecide]))) s

/-! ## Activation (R671, R674, R675) -/

/-- One bit of a CRC-64/ECMA-182 register: the digest of a sap micro-program (R671). -/
def crc64Bit (c : Nat) : Nat := if bit c 63 then c * 2 % 2 ^ 64 ^^^ 0x42F0E1EBA9EA3693 else c * 2
/-- CRC-64/ECMA-182 of bytes. -/
def crc64 (l : List Byte) : Nat :=
  l.foldl (fun c b => (List.range 8).foldl (fun c _ => crc64Bit c) (c ^^^ b.toNat * 2 ^ 56)) 0
/-- The bytes staged at a receiver. -/
def staged (s : State) (site : Nat) : Nat := (rcvOf s site).parts.foldl (fun n p => n + p.2 * 256 ^ (256 * p.1)) 0
/-- The digest over the words of an image. -/
def bcDigest (b : Bcast) (d : Nat) : Nat := crc64 (toBytes (4 * b.words) d)

/-- PREPARE: a complete receiver checks the digest over its words and answers. -/
def execPrepare (site : Nat) (s : State) : Host.Outcome State Fault Refusal :=
  done (onBc fun s b =>
    when (b.phase = 3 && (bcLive s b).contains site && rcvUp s site && colReach s site && (missing s b site).isEmpty && !b.conf.contains site)
      (modRcv site (fun r => { r with phase := 3, reply := some (bcDigest b (staged s site) = bcDigest b b.data) }))) s
/-- A reply is on its way to the trunk. -/
def replyOf (s : State) (b : Bcast) (site : Nat) : Option Bool := if b.phase = 3 && (bcLive s b).contains site then (rcvOf s site).reply else none
/-- CONFIRM. -/
def execConfirm (site : Nat) (s : State) : Host.Outcome State Fault Refusal :=
  done (onBc fun s b => when (replyOf s b site = some true) (seqs [
    modRcv site (fun r => { r with reply := none }), modBc (fun b => { b with conf := b.conf ++ [site] }), bcDecide])) s
/-- DENY. -/
def execDeny (site : Nat) (s : State) : Host.Outcome State Fault Refusal :=
  done (onBc fun s b => when (replyOf s b site = some false) (seqs [modRcv site (fun r => { r with reply := none }), bcFence 1 0 site, bcDecide])) s

/-- Does the SAP page of a core take a load? -/
def takesLoad (s : State) (g : Nat) : Bool := let st := pgState s (sapR g); st ≠ stOFF && st ≠ stRESET && st ≠ stRETIRED
/-- A receiver enters its loads into the ports of its targeted cores; `bad`: with inverted parity. -/
def enterLoads (b : Bcast) (site : Nat) (bad : Bool) (d : Nat) : Upd := read fun s =>
  let cs := (maskCores b.cores).map (fun c => site * 64 + c)
  let o : EOp := { op := loadOp, th := 0, own := b.id, a := d, b := (b.words - 1) * 2 ^ 20 + b.start * 2 ^ 8 + b.units, d := b2n bad, time := s.now }
  seqs [each (cs.filter (takesLoad s)) (fun g => modSap g (fun x => { x with port := x.port ++ [o] })),
    modBc (fun b => { b with entered := b.entered + cs.length, acted := b.acted ++ [site] })]
/-- ACTIVATE: a confirmed receiver loads its targets, a fenced one loads them with inverted parity; none after a power-fail declaration. -/
def execActivate (site : Nat) (s : State) : Host.Outcome State Fault Refusal :=
  done (onBc fun s b =>
    when (b.phase = 4 && (bcTargets s b).contains site && rcvUp s site && colReach s site && !b.acted.contains site && !pwrBit s 4)
      (seqs [modRcv site (fun r => { r with phase := 4, holds := false, parts := [] , n := 0 }),
        enterLoads b site (b.fenced.contains site) (staged s site)])) s
/-- ABORT, of a BCAST_ABORT in progress: the receiver discards the broadcast. -/
def execBcAbort (site : Nat) (s : State) : Host.Outcome State Fault Refusal :=
  done (read fun s => when ((match SMap.find fwuB s.busy with | some b => b.op = 0x13 | none => false) && (rcvOf s site).holds && rcvUp s site && colReach s site)
    (modRcv site (fun r => { r with parts := [], n := 0, phase := 6, reply := none, holds := false }))) s

/-! ## JTAG (R32) -/

/-- JTAG_TEST_ACCESS reaches boundary scan and the trunk's test controller only: nothing a register or memory shows changes. -/
def execJtagTestAccess (s : State) : Host.Outcome State Fault Refusal := done skip s

end Sys2Proof.Machine
end

