-- ==== Sys2Proof/Machine/HostIf.lean ====
section
/-! DEFINITION. Sys2Proof/Machine/HostIf.lean: the meanings of the host's requests, the link's events, the copy engine, the event
rings' registers and messages, and identity and measurement (R459 to R492). -/
namespace Sys2Proof.Machine
open Sys2Proof

/-- The host, by its PCIe requester ID (R68). -/
def hostOf (rid : Nat) : Origin := { cls := 0, inst := rid }

/-! ## Configuration space (R469, R544) -/

/-- CONFIG_READ. -/
def execConfigRead (co : Nat) (s : State) : Host.Outcome State Fault Refusal :=
  done (read fun s => if !cfgAnswers s then act (.out (.cfgCpl (co / 4 * 4) 0 1)) else hostArrive (.cfgRd (co / 4 * 4))) s
/-- CONFIG_WRITE of the dword at `co` with byte enables. -/
def execConfigWrite (rid co be4 val : Nat) (s : State) : Host.Outcome State Fault Refusal :=
  done (read fun s => if !cfgAnswers s then act (.out (.cfgCpl (co / 4 * 4) 0 1))
    else hostSubmit (.cfg (hostOf rid) (co / 4 * 4) be4 val)) s

/-! ## BAR2 (R465 to R467) -/

/-- The DPA of a BAR2 offset (R465). -/
def winDpa (s : State) (bo : Nat) : Nat := rd64 s (hifB + R.HIF_WIN_BASE_LO) + bo
/-- Does the request lie within BAR2? -/
def inWindow (s : State) (bo n : Nat) : Bool := decide (bo + n ≤ 2 ^ fld s (hifB + R.HIF_WIN_SIZE) 4 0)
/-- BAR2_READ. -/
def execBar2Read (rid bo blen : Nat) (s : State) : Host.Outcome State Fault Refusal :=
  done (read fun s => when (inWindow s bo blen) (seqs [bump (hifB + R.HIF_CNT_BAR2_RD) 1,
    hostArrive (.rd2 (orgWord (hostOf rid)) (winDpa s bo) blen none)])) s
/-- BAR2_WRITE. -/
def execBar2Write (rid bo blen be bytes : Nat) (ep : Bool) (s : State) : Host.Outcome State Fault Refusal :=
  done (read fun s => when (inWindow s bo blen) (seqs [bump (hifB + R.HIF_CNT_BAR2_WR) 1,
    hostArrive (.wr2 (orgWord (hostOf rid)) (winDpa s bo) blen be bytes ep none)])) s

/-- The waiting request at place `i` is tried again, 10 µs after its last try. -/
def bar2Again (i : Nat) : Upd := read fun s =>
  match s.hif.waiting[i]? with
  | some (.rd2 g d n (some (t0, t1))) => when (s.now ≥ t1 + 10000) (
      if reachRange s d n = .retry then seqs [rewait i (.rd2 g d n (some (t0, s.now))), bump (hifB + R.HIF_CNT_RETRY) 1]
      else seqs [unwait i, bar2Reply g d n, serveWaiting i])
  | some (.wr2 g d n be v ep (some (t0, t1))) => when (s.now ≥ t1 + 10000) (
      if reachRange s d n = .retry then seqs [rewait i (.wr2 g d n be v ep (some (t0, s.now))), bump (hifB + R.HIF_CNT_RETRY) 1]
      else seqs [unwait i, bar2Store g d n be v ep, serveWaiting i])
  | _ => skip
/-- BAR2_RETRY. -/
def execBar2Retry (wi : Nat) (s : State) : Host.Outcome State Fault Refusal := done (bar2Again wi) s

/-- HIF_REQ_TIMEOUT has passed for the waiting request at place `i`: a read gets Completer Abort, a write is discarded. -/
def reqTimeout (i : Nat) : Upd := read fun s =>
  let us := fld s (hifB + R.HIF_REQ_TIMEOUT) 15 0
  match s.hif.waiting[i]? with
  | some (.rd2 _ d n (some (t0, _))) => when (s.now ≥ t0 + 1000 * us)
      (seqs [unwait i, act (.out (.bar2Cpl d n 0 2)), raise hifR 1 0, serveWaiting i])
  | some (.wr2 g _ _ _ _ _ (some (t0, _))) => when (s.now ≥ t0 + 1000 * us) (seqs [unwait i, raise hifR 1 g, serveWaiting i])
  | _ => skip
/-- HIF_REQ_TIMEOUT_EXPIRY. -/
def execHifReqTimeoutExpiry (wi : Nat) (s : State) : Host.Outcome State Fault Refusal := done (reqTimeout wi) s

/-! ## BAR4 (R468, R469) -/

/-- The register that a BAR4 offset is an alias of. -/
def doorbell (mo : Nat) : Option Nat :=
  if 0x2000 ≤ mo ∧ mo < 0x2100 then some (evqB + R.ER_CONS ((mo - 0x2000) / 4) + mo % 4)
  else if 0x2100 ≤ mo ∧ mo < 0x2110 then some (hifB + R.CQ_PROD ((mo - 0x2100) / 4) + mo % 4) else none
/-- DOORBELL_WRITE; a write to any other offset is ignored. -/
def execDoorbellWrite (rid mo size val : Nat) (s : State) : Host.Outcome State Fault Refusal :=
  done (onSome (doorbell mo) (fun off => hostSubmit (.reg (hostOf rid) off size val))) s
/-- Does the offset lie in the MSI-X table or the PBA? -/
def inTables (mo : Nat) : Bool := decide (mo < 0x400) || decide (0x1000 ≤ mo ∧ mo < 0x1008)
/-- MSIX_TABLE_WRITE. -/
def execMsixTableWrite (rid mo size val64 : Nat) (s : State) : Host.Outcome State Fault Refusal :=
  done (when (inTables mo) (hostSubmit (.msix (hostOf rid) mo size val64))) s

/-! ## Registers with rows of their own -/

/-- HIF_WIN_BASE_WRITE: a half of the pair. -/
def execHifWinBaseWrite (o : Origin) (hi : Bool) (val : Nat) (s : State) : Host.Outcome State Fault Refusal :=
  done (busWrite o (hifB + if hi then R.HIF_WIN_BASE_HI else R.HIF_WIN_BASE_LO) 4 val) s
/-- CQ_PROD_WRITE. -/
def execCqProdWrite (o : Origin) (cq val : Nat) (s : State) : Host.Outcome State Fault Refusal :=
  done (busWrite o (hifB + R.CQ_PROD cq) 4 val) s
/-- ER_CONS_WRITE. -/
def execErConsWrite (o : Origin) (ring val : Nat) (s : State) : Host.Outcome State Fault Refusal :=
  done (busWrite o (evqB + R.ER_CONS ring) 4 val) s
/-- ER_PROD_WRITE. -/
def execErProdWrite (o : Origin) (ring val : Nat) (s : State) : Host.Outcome State Fault Refusal :=
  done (busWrite o (evqB + R.ER_PROD ring) 4 val) s

/-! ## The link (R459, R462, R463, R483) -/

/-- Bursts of host rings that are outstanding end as by a timeout (R462). -/
def dropBursts : Upd := read fun s =>
  each s.stream (fun e => each (e.2.bursts.filter (fun b => bit (rd s (coreB e.1 + R.RING_CTRL b.ring)) 1)) (fun b => burstFails e.1 b cTimeout))
/-- HOT_RESET: a hot reset, or a link-down (`down`). -/
def execHotReset (down : Bool) (s : State) : Host.Outcome State Fault Refusal :=
  done (read fun s => when (linkUp s) (if down then linkDown dropBursts else seqs [dropOutstanding dropBursts, cfgReset])) s
/-- REFCLK_LOST: the host link stops (R505). -/
def execRefclkLost (s : State) : Host.Outcome State Fault Refusal :=
  done (read fun s => seqs [setFld (clkB + R.CLK_STATUS) 30 30 0, when (linkUp s) (linkDown dropBursts), raise clkR 3 0]) s

/-- Messages that waited for the link are sent (R483). -/
def pbaSend : Upd := read fun s => each s.evq.pba (fun v => when (!bit (msixDw s v 3) 0) (msixSend v))
/-- May the link train: both reset pins high, Xazara running, REFCLK there? (R542 step 5, R505) -/
def mayTrain (s : State) : Bool :=
  s.pins.perstN && s.pins.resetN && bit (rd s (clkB + R.CLK_STATUS)) 30 && decide (fld s (trkB + R.TRK_FW_STATE) 7 0 ≥ 2)
/-- PCIE_LINK_UP: the link trains, or has retrained by LINK_RETRAIN, which it ends. -/
def execPcieLinkUp (rate width : Nat) (fm : Bool) (top : Nat) (s : State) : Host.Outcome State Fault Refusal :=
  done (read fun s => when (linkOk rate width fm top && mayTrain s) (
    match SMap.find hifB s.busy with
    | some b => if b.op = 0x11 then when (decide (rate ≤ b.arg)) (seqs [
          setHifLink rate width fm top true, endBusy evt hifR (if rate < fld s (hifB + R.HIF_LINK) 31 29 then 7 else 1), releaseAll, pbaSend])
        else when (!linkUp s) (seqs [setHifLink rate width fm top false, releaseAll, pbaSend])
    | none => when (!linkUp s) (seqs [setHifLink rate width fm top false, releaseAll, pbaSend]))) s
/-- LINK_UPWARD_RETRAIN: once, when the sites are settled (R463, R560). -/
def execLinkUpwardRetrain (rate width : Nat) (fm : Bool) (s : State) : Host.Outcome State Fault Refusal :=
  done (read fun s =>
    let top := fld s (hifB + R.HIF_LINK) 22 20
    when (linkUp s && bit (rd s (hifB + R.HIF_CTRL)) 0 && sitesSettled s && decide (2 ≤ bootPhase s ∧ bootPhase s ≤ 3)
        && !s.boot.linkUp && linkOk rate width fm top && decide (fld s (hifB + R.HIF_LINK) 31 29 ≤ rate))
      (seqs [setHifLink rate width fm top true, act (.boot { s.boot with linkUp := true }), fullServiceCheck])) s
/-- ECRC_FAILURE (R490). -/
def execEcrcFailure (s : State) : Host.Outcome State Fault Refusal :=
  done (seqs [bump (hifB + R.HIF_CNT_ECRC) 1, raise hifR 6 0]) s

/-! ## The copy engine (R472 to R475, R478) -/

/-- Bytes of a copy descriptor (R473). -/
def cF (d b n : Nat) : Nat := bits d (8 * (b + n) - 1) (8 * b)
def cHost (d : Nat) : Nat := cF d 0 8
def cDpa (d : Nat) : Nat := cF d 8 8
def cLen (d : Nat) : Nat := cF d 16 4
/-- Device to host? -/
def cUp (d : Nat) : Bool := bit d 160
/-- Is every field within its values? (R473, R475) -/
def copyOk (d : Nat) : Bool :=
  cHost d % 32 = 0 && cDpa d % 32 = 0 && cLen d % 32 = 0 && decide (32 ≤ cLen d ∧ cLen d ≤ 16777216)
    && decide (cDpa d + cLen d ≤ 2 ^ 41) && decide (cF d 20 1 < 4) && decide (cF d 21 1 < 64) && decide (cF d 22 2 < 4096)
    && cF d 28 4 = 0

/-- COPY_START: a running queue asks for its next descriptor. -/
def execCopyStart (cq : Nat) (s : State) : Host.Outcome State Fault Refusal :=
  done (read fun s =>
    let c := rd s (hifB + R.CQ_CTRL cq)
    let n := rd s (hifB + R.CQ_CONS cq)
    when (decide (cq < 4) && pgState s hifR = stRUN && bit c 0 && !bit c 1 && (copyOf s cq).isNone && hostOpen s
        && decide (rd s (hifB + R.CQ_PROD cq) ≠ n))
      (setCopy cq (some { q := cq, n := n, since := some s.now }))) s

/-- A copy completes: its status and CQ_CONS, then its signal (R475). -/
def copyEnds (c : Copy) (status : Nat) : Upd := read fun s =>
  let d := c.desc.getD 0
  let sig := bit d 161 && (status = 0 || status = 2 || status = 4)
  let g := bits d 187 176
  let k := bits d 173 168
  seqs [copyReport { c with since := none } status (rd s (hifB + R.CQ_CONS c.q) + 1), when c.desc.isSome (ledAdd 0x22 64 c.q 1 1),
    when (sig && siteEnabled s (g / 64)) (if takesSignal s g then when (!tokOver s g k 1) (addTok g k 1)
      else modHif (fun h => { h with sigs := h.sigs ++ [(g, k)] }))]

/-- The descriptor has come: a malformed one moves no data (R475). -/
def copyFetched (c : Copy) : Upd := read fun s =>
  let d := hostNum s (cqAddr s c.q c.n) 32
  seqs [ledAdd 0x22 64 c.q 0 1,
    if copyOk d then setCopy c.q (some { c with desc := some d, since := if cUp d then none else some s.now })
    else seqs [copyEnds { c with desc := some d } 1, raise hifR 5 0]]

/-- `n` bytes of host data have come: they are written at their slices, poisoned data as poison (R474, R475). -/
def copyIn (c : Copy) (d n : Nat) (ep : Bool) : Upd := read fun s =>
  let a := cDpa d + c.pos
  let m := min n (cLen d - c.pos)
  let l := hostBytes s (cHost d + c.pos) m
  when (decide (n % 32 = 0 ∧ 0 < m) && decide (reachRange s a m ≠ .retry)) (seqs [
    if ep then memPoison a m else memWrite a l,
    reportDead 0 a m false,
    setCopy c.q (some { c with pos := c.pos + m, since := if c.pos + m = cLen d then none else some s.now, pz := c.pz || ep,
                               dead := c.dead || (granules a m).any (fun x => decide (reach s x = .dead)) }),
    when ep (seqs [bump (hifB + R.HIF_CNT_POISON_IN) 1, raise hifR 2 0])])

/-- HOST_READ_COMPLETION: the read of a queue's copy returns; one that comes late is discarded. -/
def execHostReadCompletion (cq blen : Nat) (ep : Bool) (s : State) : Host.Outcome State Fault Refusal :=
  done (read fun s =>
    if s.hif.stale.any (·.1 = cq) then modHif (fun h => { h with stale := h.stale.eraseP (·.1 = cq) })
    else onSome (copyOf s cq) fun c => when c.since.isSome (match c.desc with
      | none => copyFetched c
      | some d => copyIn c d blen ep)) s

/-- The codewords of device data that go to the host, each in a posted write, with EP set where it is poison or dead (R475, R584). -/
def copyOut (d : Nat) : Upd := read fun s =>
  each (List.range (cLen d / 32)) (fun i =>
    let a := cDpa d + 32 * i
    let bad := !byteGood s a
    let l := if bad then List.replicate 32 (0 : Byte) else memBytes s a 32
    seqs [hostPlace (cHost d + 32 * i) l, act (.out (.hostWrite (cHost d + 32 * i) l bad))])

/-- COPY_COMPLETION: the last byte is written, or the last posted write issued. -/
def execCopyCompletion (cq : Nat) (s : State) : Host.Outcome State Fault Refusal :=
  done (read fun s => onSome (copyOf s cq) fun c => onSome c.desc fun d =>
    when (pgState s hifR = stRUN && hostOpen s) (
      if cUp d then
        let dead := (granules (cDpa d) (cLen d)).any (fun x => decide (reach s x = .dead))
        let pz := rangePoison s (cDpa d) (cLen d)
        when (decide (reachRange s (cDpa d) (cLen d) ≠ .retry)) (seqs [copyOut d, reportDead 0 (cDpa d) (cLen d) true,
          copyEnds c (if dead then 4 else if pz then 2 else 0),
          when (dead || pz) (seqs [bump (hifB + R.HIF_CNT_POISON_OUT) 1, raise hifR 3 0])])
      else when (c.pos = cLen d) (copyEnds c (if c.dead then 4 else if c.pz then 2 else 0)))) s

/-- HIF_CPL_TIMEOUT has passed for a copy's read: status 3, and the queue stops. -/
def copyTimeout (cq : Nat) : Upd := read fun s =>
  let ns := fld s (hifB + R.HIF_CPL_TIMEOUT) 5 0 * 1000000
  seqs [modHif (fun h => { h with stale := h.stale.filter (fun x => !(x.1 = cq && s.now ≥ x.2 + ns)) }),
    onSome (copyOf s cq) fun c => onSome c.since fun t => when (s.now ≥ t + ns) (seqs [
      copyEnds { c with since := none } 3, setFld (hifB + R.CQ_CTRL cq) 1 1 1, raise hifR 4 0])]
/-- HIF_CPL_TIMEOUT has passed for a burst of a host ring (R387). -/
def ringTimeout (g n : Nat) : Upd := read fun s =>
  onSome ((streamOf s g).bursts.find? (·.ring = n)) fun b =>
    when (bit (rd s (coreB g + R.RING_CTRL n)) 1 && decide (s.now ≥ b.time + fld s (hifB + R.HIF_CPL_TIMEOUT) 5 0 * 1000000))
      (burstFails g b cTimeout)
/-- HIF_CPL_TIMEOUT_EXPIRY; who asked: 0 the copy queue `inst`, 1 ring `inst % 4` of core `inst / 4`, 2 the journal. -/
def execHifCplTimeoutExpiry (asker inst : Nat) (s : State) : Host.Outcome State Fault Refusal :=
  done (if asker = 0 then copyTimeout inst else if asker = 1 then ringTimeout (inst / 4) (inst % 4)
    else read fun s => when (jnlDrains s && !s.jnl.store.isEmpty) (raise jnlR 0 0)) s

/-! ## Messages (R483) -/

/-- MSIX_MESSAGE: the message of ring `ring` that is due, or whose PBA bit waits. -/
def execMsixMessage (ring : Nat) (s : State) : Host.Outcome State Fault Refusal :=
  done (seqs [msixCheck ring, read fun t => when (t.evq.pba.contains ring && msixEnabled t && !bit (msixDw t ring 3) 0) (msixSend ring)]) s

/-! ## Identity and measurement (R460, R487, R488) -/

/-- HIF_SPDM.state. -/
def spdmState (s : State) : Nat := fld s (hifB + R.HIF_SPDM) 3 0
/-- Send a response. -/
def spdmOut (code param : Nat) (l : List Nat) : Upd := act (.out (.spdm code param l))
/-- An SPDM ERROR. -/
def spdmError (e : Nat) : Upd := spdmOut 0x7F e []
/-- A request that the connection has reached; another is answered with UnexpectedRequest (log 62). -/
def spdmAt (p : Nat → Bool) (u : Upd) : Upd := read fun s => when (cfgAnswers s) (if p (spdmState s) then u else spdmError 4)
/-- The connection moves on. -/
def spdmTo (n : Nat) : Upd := setFld (hifB + R.HIF_SPDM) 3 0 n
/-- A signed answer is counted. -/
def spdmSigned : Upd := bumpFld (hifB + R.HIF_SPDM) 31 16 1
/-- What the certificate chain of slot 0 is, and its digest. -/
def certChain (s : State) : Nat := Config.digest 0 (rd s (Page.trunk .IDN + R.IDN_SERIAL 0)) 0
def certDigest (s : State) : Nat := Config.digest 1 (rd s (Page.trunk .IDN + R.IDN_SERIAL 0)) 0

/-- GET_VERSION: SPDM 1.3. -/
def execGetVersion (s : State) : Host.Outcome State Fault Refusal := done (spdmAt (fun _ => true) (seqs [spdmTo 1, spdmOut 0x04 0 [0x1300]])) s
/-- GET_CAPABILITIES. -/
def execGetCapabilities (s : State) : Host.Outcome State Fault Refusal := done (spdmAt (· = 1) (seqs [spdmTo 2, spdmOut 0x61 0 [4096]])) s
/-- NEGOTIATE_ALGORITHMS: P-384 for signatures, SHA-384 for hashes and measurements. -/
def execNegotiateAlgorithms (s : State) : Host.Outcome State Fault Refusal :=
  done (spdmAt (· = 2) (seqs [spdmTo 3, spdmOut 0x63 0 [0x80, 0x02, 0x04]])) s
/-- GET_DIGESTS: slot 0 only. -/
def execGetDigests (s : State) : Host.Outcome State Fault Refusal :=
  done (read fun s => spdmAt (· ≥ 3) (spdmOut 0x01 1 [certDigest s])) s
/-- GET_CERTIFICATE. -/
def execGetCertificate (cslot : Nat) (s : State) : Host.Outcome State Fault Refusal :=
  done (read fun s => spdmAt (· ≥ 3) (if cslot = 0 then spdmOut 0x02 0 [certChain s] else spdmError 1)) s
/-- CHALLENGE: signed with the device identity key. -/
def execChallenge (cslot nonce : Nat) (s : State) : Host.Outcome State Fault Refusal :=
  done (read fun s => spdmAt (· ≥ 3) (if cslot = 0 then seqs [spdmTo 4, spdmSigned,
    spdmOut 0x03 0 [certDigest s, Config.digest 8 nonce (certDigest s)]] else spdmError 1)) s

/-- The words of a register run as one number. -/
def regsNum (s : State) (off n : Nat) : Nat := (List.range n).foldl (fun x i => x + rd s (off + 4 * i) * 2 ^ (32 * i)) 0
/-- A measurement block (R488). -/
def measurement (s : State) (i : Nat) : Nat :=
  let run := rd s (fwuB + R.FWU_RUNNING)
  let slot := rd s (fwuB + if bit run 0 then R.FWU_SLOTB else R.FWU_SLOTA)
  match i with
  | 1 => Config.digest 2 0 0
  | 2 => Config.digest 3 (run % 2) slot
  | 3 => bits run 31 24
  | 4 => (s.lic.active.map (fun b => ofBytes (sha384 (toBytes b.len b.data)))).getD 0
  | 5 => Config.digest 5 (rd s goodB) (rd s (goodB + 4))
  | _ => regsNum s (Page.trunk .IDN + R.IDN_SERIAL 0) 8
/-- GET_MEASUREMENTS: 0 asks for their number, 255 for all; signed if asked. -/
def execGetMeasurements (mi : Nat) (signed : Bool) (nonce : Nat) (s : State) : Host.Outcome State Fault Refusal :=
  done (read fun s => spdmAt (· ≥ 3) (
    let l := if mi = 0 then [] else if mi = 255 then (List.range 6).map (fun i => measurement s (i + 1)) else [measurement s mi]
    if 6 < mi ∧ mi ≠ 255 then spdmError 1
    else seqs [when signed spdmSigned,
      spdmOut 0x60 (if mi = 0 then 6 else l.length) (l ++ if signed then [Config.digest 9 nonce (l.foldl (fun x y => x * 2 ^ 384 + y) 0)] else [])])) s
/-- SPDM_UNSUPPORTED_REQUEST. -/
def execSpdmUnsupportedRequest (s : State) : Host.Outcome State Fault Refusal := done (spdmAt (fun _ => true) (spdmError 7)) s
/-- DOE_DISCOVERY: object 0 is DOE Discovery, 1 CMA/SPDM; any other index finds none. -/
def execDoeDiscovery (di : Nat) (s : State) : Host.Outcome State Fault Refusal :=
  done (read fun s => when (cfgAnswers s) (act (.out (if di = 0 then .discovery 0 1 0 1 else if di = 1 then .discovery 1 1 1 0 else .discovery di 0xFFFF 0 0)))) s

/-! ## Commands of the HIF page (R489) -/

/-- CQ_RESET. -/
def execCqReset (o : Origin) (arg : Nat) (s : State) : Host.Outcome State Fault Refusal := done (command o (trunkPage .HIF) 0x10 arg) s
/-- LINK_RETRAIN of HIF. -/
def execHifLinkRetrain (o : Origin) (arg : Nat) (s : State) : Host.Outcome State Fault Refusal := done (command o (trunkPage .HIF) 0x11 arg) s
/-- HIF_CLEAR_COUNTS. -/
def execHifClearCounts (o : Origin) (arg : Nat) (s : State) : Host.Outcome State Fault Refusal := done (command o (trunkPage .HIF) 0x12 arg) s

end Sys2Proof.Machine
end

