-- ==== Sys2Proof/Machine/MatVec.lean ====
section
/-! DEFINITION. Sys2Proof/Machine/MatVec.lean: the MV path: its instructions, weight lines, sums and accumulators (R183 to R208,
R223 to R230). -/
namespace Sys2Proof.Machine
open Sys2Proof

/-! ## The instructions (R198) -/

/-- MVMETA: rd is s0; MVZ: rd and ra are s0. -/
def shMvMeta : Shape := ⟨fun w => f1 w ≠ 0, fun w => engReads w false⟩
/-- MVSET, MVRUN and MVST read s[rd]. -/
def shMv : Shape := ⟨fun _ => false, fun w => engReads w true⟩
/-- MVZ. -/
def shMvz : Shape := ⟨fun w => f1 w ≠ 0 || f2 w ≠ 0, fun w => engReads w false⟩

/-- Put an instruction at the end of the MV queue, and start what can start. -/
def mvPush (g : Nat) (o : EOp) : Upd :=
  seqs [read fun s => setMv g { mvOf s g with q := (mvOf s g).q ++ [o] }, mvGo g]
/-- Issue an MV instruction. -/
def mvIssue (g th op w : Nat) (sh : Shape) (rdEa : Bool) : Upd :=
  issue g th w sh (toEngine g th op w 2 rdEa false (fun s => mvRoom s g) (mvPush g))

/-- MVSET. -/
def execMvset (core th w : Nat) (s : State) : Host.Outcome State Fault Refusal := done (mvIssue core th 0x50 w shMv true) s
/-- MVRUN. -/
def execMvrun (core th w : Nat) (s : State) : Host.Outcome State Fault Refusal := done (mvIssue core th 0x51 w shMv true) s
/-- MVST. -/
def execMvst (core th w : Nat) (s : State) : Host.Outcome State Fault Refusal := done (mvIssue core th 0x52 w shMv true) s
/-- MVZ. -/
def execMvz (core th w : Nat) (s : State) : Host.Outcome State Fault Refusal := done (mvIssue core th 0x53 w shMvz false) s
/-- MVMETA. -/
def execMvmeta (core th w : Nat) (s : State) : Host.Outcome State Fault Refusal := done (mvIssue core th 0x54 w shMvMeta false) s

/-! ## Activations (R188, R191, R193) -/

/-- Element `k` of vector `t`, its scale apart, with its poison. -/
def actElem (s : State) (g : Nat) (v : EOp) (t k : Nat) : Num × Bool :=
  let b := elemBits (vwFmt v.b) / 8
  let (d, p) := engNum s g [] ((v.a + t * vwPitch v.b + k * b) % 2 ^ 64) b
  (elemAt (vwFmt v.b) d 0, p)
/-- The scale of vector `t` at index `k`. -/
def actScale (s : State) (g : Nat) (v : EOp) (t k : Nat) : Num × Bool :=
  if !scaled (vwFmt v.b) then (.one, false)
  else
    let (d, p) := engNum s g [] ((v.d + t * vwScalePitch v.b + k / 32) % 2 ^ 64) 1
    (scaleVal (vwFmt v.b) d, p)
/-- Does any element or scale of a run's indices carry poison? The first such index. -/
def actPoison (s : State) (g : Nat) (r : MvRun) : Option Nat :=
  ((List.range (rwCount r.op.b)).map (· + rwFirst r.op.b)).find? (fun k =>
    (List.range (vwCount r.vec.b)).any (fun t => (actElem s g r.vec t k).2 || (actScale s g r.vec t k).2))
/-- Is index `k` zero in every token lane? -/
def indexZero (s : State) (g : Nat) (v : EOp) (k : Nat) : Bool :=
  (List.range (vwCount v.b)).all (fun t => (actElem s g v t k).1.isZero && !(actScale s g v t k).1.isNan)

/-! ## Lines (R184, R186, R191, R223 to R229) -/

/-- The logical indices that stored line `i` covers. -/
def lineIndices (b i : Nat) : List Nat :=
  let (n, m) := nmOf (rwSparse b)
  (List.range m).map (fun j => rwFirst b + i / n * m + j)
/-- Bit `i` of the SW-BLK bitmap: is the line stored? -/
def lineStored (s : State) (g : Nat) (r : MvRun) (i : Nat) : Bool :=
  if bits r.op.b 20 20 = 0 then true
  else bit (engNum s g [] (((r.md.map (·.a)).getD 0 + i / 8) % 2 ^ 64) 1).1 (i % 8)
/-- Is line `i` skipped because its activations are zero? -/
def lineSkipped (s : State) (g : Nat) (r : MvRun) (i : Nat) : Bool :=
  bits r.op.b 8 8 = 1 && fld s (mxuB g + R.MXU_MV_CTRL) 0 0 = 0 && (lineIndices r.op.b i).all (indexZero s g r.vec)
/-- Is line `i` fetched? -/
def lineNeeded (s : State) (g : Nat) (r : MvRun) (i : Nat) : Bool := lineStored s g r i && !lineSkipped s g r i
/-- The 32-line block of line `i` (R194, R223). -/
def blockOf (b i : Nat) : Nat := if rwSparse b ≠ 0 then i / 32 else (rwFirst b + i) / 32 - rwFirst b / 32
/-- The lines of block `n`. -/
def blockLines (b n : Nat) : List Nat := (List.range (mvLines b)).filter (fun i => blockOf b i = n)
/-- Blocks of a run. -/
def blockCount (b : Nat) : Nat := blockOf b (mvLines b - 1) + 1
/-- The address of line `i`: stored lines are packed under a bitmap (R227, R229). -/
def lineAddr (s : State) (g : Nat) (r : MvRun) (i : Nat) : Nat :=
  let at_ := if bits r.op.b 20 20 = 0 then i else ((List.range i).filter (lineStored s g r)).length
  (r.op.a + 256 * at_) % 2 ^ 64
/-- Scale-record lines of a block: one, or two for 4-bit formats. -/
def scaleLinesOf (b n : Nat) : List Nat :=
  if !scaled (rwFmt b) then [] else if rwOuts b = 512 then [2 * n, 2 * n + 1] else [n]
/-- Is the scale record of block `n` fetched? -/
def scaleNeeded (s : State) (g : Nat) (r : MvRun) (n : Nat) : Bool := (blockLines r.op.b n).any (lineNeeded s g r)
/-- The N:M index record of line `i` (R224). -/
def lineIdx (s : State) (g : Nat) (r : MvRun) (i j : Nat) : Nat × Bool :=
  let (n, m) := nmOf (rwSparse r.op.b)
  let w := if m = 4 then 2 else 3
  let size := rwOuts r.op.b * w / 8
  let md := r.md.getD r.op
  let base := md.a + if bits r.op.b 20 20 = 1 then bits md.b 63 32 else 0
  let place := if bits r.op.b 20 20 = 0 then i else ((List.range i).filter (lineStored s g r)).length
  if n = m then (0, false)
  else
    let (d, p) := engNum s g [] ((base + place * size) % 2 ^ 64) size
    (d / 2 ^ (w * j) % 2 ^ w, p)

/-! ## Sums (R194 to R197) -/

/-- The block sum of output `j`, token `t`, scaled; an N:M run's activations keep their own scales inside the sum. -/
def blockSum (s : State) (g : Nat) (r : MvRun) (n j t : Nat) : Num :=
  let b := r.op.b
  let v := r.vec
  let (nn, m) := nmOf (rwSparse b)
  let ls := (blockLines b n).filterMap (fun i => (SMap.find i r.lines).map (fun d => (i, d)))
  let sp := rwSparse b ≠ 0
  let prods := ls.map (fun e =>
    let k := if sp then rwFirst b + e.1 / nn * m + (lineIdx s g r e.1 j).1 else rwFirst b + e.1
    let a := (actElem s g v t k).1
    (if sp then a.mul (actScale s g v t k).1 else a).mul (elemAt (rwFmt b) e.2 j))
  let sum := Num.sum (if elemBits (rwFmt b) = 16 then cut64 prods else prods)
  let rec_ := (scaleLinesOf b n).map (fun l => ((SMap.find l r.scales).getD 0))
  let sw := if scaled (rwFmt b) then scaleVal (rwFmt b) (byteAt ((rec_[j / 256]?).getD 0) (j % 256)) else .one
  let sa := if sp then .one else (actScale s g v t (rwFirst b / 32 * 32 + 32 * n)).1
  if ls.isEmpty then .zero
  else
    let x := sum.mul (sw.mul sa)
    if scaleE4m3 (rwFmt b) || scaleE4m3 (vwFmt v.b) then x.sig 24 else x

/-- The policy of MXU_MV_CTRL.exc. -/
def mvExc (s : State) (g : Nat) : Nat := fld s (mxuB g + R.MXU_MV_CTRL) 2 1

/-- Add block `n` into the bank: the accumulators and the exceptions; with acc = 0 the first block is written. -/
def addBlock (s : State) (g : Nat) (r : MvRun) (n : Nat) (acc : List (Nat × Nat)) : List (Nat × Nat) × Nat :=
  let keys := (List.range (vwCount r.vec.b)).flatMap (fun t => (List.range (rwOuts r.op.b)).map (fun j => (t, j)))
  keys.foldl (fun (x : List (Nat × Nat) × Nat) e =>
    let k := rwBank r.op.b * 4096 + e.1 * 512 + e.2
    let v := blockSum s g r n e.2 e.1
    let p := policy32 (mvExc s g) (if n = 0 ∧ bits r.op.b 0 0 = 0 then v else (f32 (SMap.get 0 k x.1)).add v)
    (SMap.set 0 k p.1 x.1, x.2 + b2n p.2)) (acc, 0)

/-- Is everything that block `n` needs there? -/
def blockReady (s : State) (g : Nat) (r : MvRun) (n : Nat) : Bool :=
  (blockLines r.op.b n).all (fun i => !lineNeeded s g r i || (SMap.find i r.lines).isSome)
    && (!scaleNeeded s g r n || (scaleLinesOf r.op.b n).all (fun l => (SMap.find l r.scales).isSome))

/-- The index a run aborts at. -/
def runIndex (r : MvRun) : Nat := rwFirst r.op.b + 32 * r.done
/-- A run in progress aborts with a fault. -/
def runFault (g n k : Nat) (r : MvRun) : Upd := seqs [mvAbort g n k r.op, mxuFault g n, mvGo g]

/-- Add the blocks that are ready, in order (R194, R197). -/
def foldBlocks (g : Nat) : Nat → Upd
  | 0 => skip
  | fuel + 1 => read fun s =>
    let m := mvOf s g
    onSome m.run fun r =>
      when (decide (r.done < blockCount r.op.b) && blockReady s g r r.done) (
        let (acc, n) := addBlock s g r r.done m.acc
        let skipped := ((blockLines r.op.b r.done).filter (fun i => lineStored s g r i && lineSkipped s g r i)).length
        let idxPoison := rwSparse r.op.b ≠ 0 && r.lines.any (fun e => (lineIdx s g r e.1 0).2)
        if idxPoison then runFault g vPoisonW (runIndex r) r
        else seqs [bump (mxuB g + R.MXU_MV_CNT_EXC) n, bump (mxuB g + R.MXU_MV_CNT_SKIP) skipped,
          if n > 0 && mvExc s g = 2 then runFault g vExc (runIndex r) r
          else seqs [setMv g { m with acc := acc, run := some {
              r with done := r.done + 1, lines := r.lines.filter (fun e => blockOf r.op.b e.1 ≠ r.done),
                     scales := r.scales.filter (fun e => !(scaleLinesOf r.op.b r.done).contains e.1) } },
            foldBlocks g fuel]])

/-- A weight line (or a line of a scale record) returns: from the leaf cache if it hits, else from the slice (R187). -/
def mvArrive (g i : Nat) (scale : Bool) : Upd := read fun s =>
  let m := mvOf s g
  let st := pgState s ⟨.MXU, g⟩
  onSome m.run fun r =>
    let b := r.op.b
    let n := if scale then (if rwOuts b = 512 then i / 2 else i) else blockOf b i
    let have_ := (SMap.find i (if scale then r.scales else r.lines)).isSome
    let wanted := if scale then decide (i < rwScaleLines b) && scaleNeeded s g r n else decide (i < mvLines b) && lineNeeded s g r i
    let flying := ((List.range i).filter (fun k => !scale && blockOf b k ≥ r.done && lineNeeded s g r k && (SMap.find k r.lines).isNone)).length
    let ea := if scale then (r.op.d + 256 * i) % 2 ^ 64 else lineAddr s g r i
    when (wanted && !have_ && decide (r.done ≤ n) && decide (flying < 48) && !clockLost s ⟨.MXU, g⟩
        && (st = stRUN || st = stDRAIN || st = stHALT || st = stFAULT) && !engRetries s ea 256) (
      match actPoison s g r with
      | some k => runFault g vPoisonX k r
      | none =>
        if !ownSlice g ea 256 then runFault g vAddr (runIndex r) r
        else
          let (d, p) := engNum s g (engHits s g ea 256) ea 256
          seqs [engTouch g ea 256, bump (mxuB g + if scale then R.MXU_MV_CNT_SCALE else R.MXU_MV_CNT_LINE) 1,
            if p then runFault g vPoisonW (if scale then runIndex r else rwFirst b + i) r
            else seqs [read fun t => setMv g { mvOf t g with run := some (
                if scale then { r with scales := SMap.put i d r.scales } else { r with lines := SMap.put i d r.lines }) },
              foldBlocks g (blockCount b + 1)]])

/-- MV_LINE_ARRIVAL: weight line `line` of the run, or line `line` of its scale records. -/
def execMvLineArrival (core line : Nat) (scale : Bool) (s : State) : Host.Outcome State Fault Refusal :=
  done (seqs [mvGo core, mvArrive core line scale, attGo core]) s

/-- A run ends once its last block is added; in FAULT it ends as if aborted (R204, R206, R215). -/
def mvRunDone (g : Nat) : Upd := read fun s =>
  let m := mvOf s g
  let st := pgState s ⟨.MXU, g⟩
  onSome m.run fun r =>
    if st = stFAULT then seqs [mvAbort g 0xFF (runIndex r) r.op, mvGo g]
    else when (decide (r.done ≥ blockCount r.op.b) && (st = stRUN || st = stDRAIN || st = stHALT) && !clockLost s ⟨.MXU, g⟩)
      (seqs [setMv g { m with run := none, valid := if bits r.op.b 0 0 = 1 then m.valid else (m.valid ++ [rwBank r.op.b]).eraseDups },
        bump (mxuB g + R.MXU_MV_CNT_RUN) 1, engDone g r.op, mvGo g])

/-- MVRUN_COMPLETE: blocks whose every line is skipped or absent need no arrival. -/
def execMvrunComplete (core : Nat) (s : State) : Host.Outcome State Fault Refusal :=
  done (seqs [mvGo core, read fun s => onSome (mvOf s core).run (fun r => seqs [
    onSome (actPoison s core r) (fun k => runFault core vPoisonX k r), foldBlocks core (blockCount r.op.b + 1)]), mvRunDone core, attGo core]) s

/-- A line has not returned within MXU_MV_TIMEOUT (R208). -/
def mvExpiry (g : Nat) : Upd := read fun s =>
  onSome (mvOf s g).run fun r =>
    when (s.now ≥ r.op.time + fld s (mxuB g + R.MXU_MV_TIMEOUT) 15 0 * 1000 && decide (r.done < blockCount r.op.b))
      (runFault g vTime (runIndex r) r)

/-- MV_LINE_TIMEOUT. -/
def execMvLineTimeout (core : Nat) (s : State) : Host.Outcome State Fault Refusal := done (seqs [mvExpiry core, attGo core]) s

/-! ## MVST and MVZ (R203, R204) -/

/-- Token row `t` of an MVST: its bytes and scale bytes. -/
def mvRowOut (m : Mv) (b t : Nat) : List Byte × List Nat :=
  let c := bits b 19 16
  let outs := bits b 9 0 + 1
  let v (j : Nat) : Num := f32 (SMap.get 0 (bits b 10 10 * 4096 + t * 512 + j) m.acc)
  let blk (k : Nat) : List Nat := ((List.range 32).map (· + 32 * k)).filter (· < outs)
  let scs := (List.range ((outs + 31) / 32)).map (fun k => mxScale c ((blk k).map v))
  let es := (List.range outs).map (fun j => if scaled c then mxElem c ((scs[j / 32]?).getD 0) (v j) else elemEnc c (v j))
  (toBytes (swRow b) (packBits (elemBits c) es), if scaled c then scs else [])

/-- Store token row `t`; a bank without its mark is written as poison, its scale bytes free (R204, R142, log 3). -/
def mvStoreRow (g : Nat) (o : EOp) (t : Nat) : Upd := read fun s =>
  let m := mvOf s g
  let ea := (o.a + t * bits o.b 39 24) % 2 ^ 64
  let sc := (o.d + 16 * t) % 2 ^ 64
  let out := mvRowOut m o.b t
  if m.valid.contains (bits o.b 10 10) then
    seqs [engWrite g ea out.1, when (!out.2.isEmpty) (engWrite g sc (out.2.map (BitVec.ofNat 8)))]
  else seqs [engPoison g ea (swRow o.b),
    when (!out.2.isEmpty) (seqs [engWrite g sc (out.2.map (fun _ => BitVec.ofNat 8 (freeVal s))), act .drawn])]

/-- An MVST or MVZ completes. -/
def mvStoreDone (g : Nat) : Upd := read fun s =>
  let st := pgState s ⟨.MXU, g⟩
  onSome (mvOf s g).store fun o =>
    let bank := bits o.b 10 10
    let toks := List.range (bits o.b 13 11 + 1)
    let retry := o.op = 0x52 && toks.any (fun t => engRetries s ((o.a + t * bits o.b 39 24) % 2 ^ 64) (swRow o.b))
    let stored (k : Nat) : Bool := k / 4096 = bank && (o.op = 0x53 || (k / 512 % 8 ≤ bits o.b 13 11 && k % 512 ≤ bits o.b 9 0))
    when (!retry && (st = stRUN || st = stDRAIN || st = stHALT || st = stFAULT) && !clockLost s ⟨.MXU, g⟩) (seqs [
      when (o.op = 0x52) (each toks (mvStoreRow g o)),
      read fun t =>
        let m := mvOf t g
        let zero := o.op = 0x53 || bits o.b 20 20 = 1
        setMv g { m with store := none, acc := if zero then SMap.dropIf stored m.acc else m.acc,
                         valid := if zero then (m.valid ++ [bank]).eraseDups else m.valid },
      engDone g o, mvGo g])

/-- MVST_COMPLETE. -/
def execMvstComplete (core : Nat) (s : State) : Host.Outcome State Fault Refusal := done (seqs [mvGo core, mvStoreDone core, attGo core]) s

/-! ## Commands (R217) -/

/-- MV_RESET. -/
def execMvReset (o : Origin) (core arg : Nat) (s : State) : Host.Outcome State Fault Refusal :=
  done (command o (Page.core .MXU core / 0x1000) 0x20 arg) s
/-- MV_CLEAR_COUNTS. -/
def execMvClearCounts (o : Origin) (core arg : Nat) (s : State) : Host.Outcome State Fault Refusal :=
  done (command o (Page.core .MXU core / 0x1000) 0x21 arg) s

end Sys2Proof.Machine
end

