-- ==== Sys2Proof/Machine/Sap.lean ====
section
/-! DEFINITION. Sys2Proof/Machine/Sap.lean: the sap instructions of threads, the micro-instructions of the units, and the events of
calls and reductions (R302 to R337). -/
namespace Sys2Proof.Machine
open Sys2Proof

/-! ## Sap instructions of threads (R326) -/

/-- SCALL: form A. -/
def shScall : Shape := ⟨fun _ => false, fun w => engReads w true⟩
/-- SLOAD: rd is s0. -/
def shSload : Shape := ⟨fun w => f1 w ≠ 0, fun w => engReads w false⟩
/-- SABORT: rd and ra are s0. -/
def shSabort : Shape := ⟨fun w => f1 w ≠ 0 || f2 w ≠ 0, fun w => engReads w false⟩
/-- Issue an instruction to the sap port; it follows every earlier memory operation of its thread. -/
def sapIssue (g th op w : Nat) (sh : Shape) (wr : Bool) : Upd :=
  issue g th w sh (fun t => toEngine g th op w 5 false wr (fun s => sapRoom s g)
    (fun o => modSap g (fun x => { x with port := x.port ++ [{ o with after := t.slots.map (fun m => (m.pc, m.time)) }] })) t)

/-- SCALL. -/
def execScall (core th w : Nat) (s : State) : Host.Outcome State Fault Refusal := done (sapIssue core th 0x90 w shScall true) s
/-- SLOAD. -/
def execSload (core th w : Nat) (s : State) : Host.Outcome State Fault Refusal := done (sapIssue core th 0x91 w shSload false) s
/-- SABORT. -/
def execSabort (core th w : Nat) (s : State) : Host.Outcome State Fault Refusal := done (sapIssue core th 0x92 w shSabort false) s
/-- SAP_CALL_START. -/
def execSapCallStart (core : Nat) (s : State) : Host.Outcome State Fault Refusal := done (portStart core) s
/-- SAP_CALL_COMPLETION. -/
def execSapCallCompletion (core : Nat) (s : State) : Host.Outcome State Fault Refusal := done (callEnd core) s

/-! ## Registers of a unit (R302, R319) -/

/-- x[r]. -/
def SapUnit.gx (u : SapUnit) (r : Nat) : Nat := if r = 0 then 0 else SMap.get 0 r u.x
/-- v[r]. -/
def SapUnit.gv (u : SapUnit) (r : Nat) : Nat := SMap.get 0 r u.v
/-- Poison tags. -/
def SapUnit.px (u : SapUnit) (r : Nat) : Bool := u.xpz.contains r
/-- Poison tag of a vector register. -/
def SapUnit.pv (u : SapUnit) (r : Nat) : Bool := u.vpz.contains r
/-- A tag set or cleared. -/
def tagged (l : List Nat) (r : Nat) (pz : Bool) : List Nat := l.filter (· ≠ r) ++ if pz then [r] else []
/-- x[r] := v; x0 discards. -/
def SapUnit.sx (u : SapUnit) (r v : Nat) (pz : Bool) : SapUnit :=
  if r = 0 then u else { u with x := SMap.set 0 r (v % 2 ^ 32) u.x, xpz := tagged u.xpz r pz }
/-- v[r] := v. -/
def SapUnit.sv (u : SapUnit) (r v : Nat) (pz : Bool) : SapUnit := { u with v := SMap.set 0 r (v % 2 ^ 512) u.v, vpz := tagged u.vpz r pz }
/-- The word at the PC. -/
def SapUnit.word (u : SapUnit) : Nat := SMap.get 0 u.pc u.store

/-! ## Issue (R311, R314 to R317) -/

/-- Is a suspension pending on the unit (R316)? -/
def suspPending (s : State) (g k : Nat) : Bool := (unitOf s g k).susp || sapHalting s g || thermHalted s g
/-- May unit `k` issue: U_RUN, its page and clock running, and no suspension that takes effect here? -/
def unitMay (s : State) (g k : Nat) : Bool :=
  let u := unitOf s g k
  let st := pgState s (sapR g)
  u.state = 1 && (st = stRUN || st = stDRAIN) && fld s (Page.trunk .PWR + R.PWR_STATE) 4 4 = 0 && !islandLost s 3 (g / 64) k
    && !((u.edge || u.past) && suspPending s g k)
/-- An atom boundary: every grant is released. -/
def SapUnit.bound (u : SapUnit) : SapUnit := { u with banks := [], edge := true, past := false }
/-- After an instruction: the PC, and the boundary of its ATOM marker. -/
def SapUnit.went (u : SapUnit) (pc : Nat) : SapUnit :=
  let v := { u with pc := pc % 2048, edge := false }
  if sAtom u.word then v.bound else v
/-- After an instruction that does not branch. -/
def SapUnit.next (u : SapUnit) : SapUnit := u.went (u.pc + 1)

/-- A unit issues the micro-instruction `op` if it stands at its PC; a word of inverted parity aborts the call (R336, R675). -/
def micro (g k op : Nat) (body : SapUnit → Nat → Upd) : Upd := read fun s =>
  let u := unitOf s g k
  when (decide (k < 8) && unitMay s g k) (if u.bad.contains u.pc then unitFault g k sParity
    else when (sOp u.word = op && sLegal u.word) (body u u.word))
/-- A micro-instruction that only changes registers. -/
def microReg (g k op : Nat) (f : SapUnit → Nat → SapUnit) : Upd := micro g k op (fun u w => setUnit g k (f u w).next)
/-- x[d] := f of x[a] and an immediate. -/
def microImm (g k op : Nat) (f : Nat → Nat → Nat) : Upd :=
  microReg g k op (fun u w => u.sx (sD w) (f (u.gx (sA w)) w) (u.px (sA w)))
/-- x[d] := f of x[a] and x[b]. -/
def microX (g k op : Nat) (f : Nat → Nat → Nat) : Upd :=
  microReg g k op (fun u w => u.sx (sD w) (f (u.gx (sA w)) (u.gx (sB w))) (u.px (sA w) || u.px (sB w)))
/-- v[d] := f of v[a] and v[b], by type. -/
def microV (g k op : Nat) (f : Nat → Nat → Nat → Nat) : Upd :=
  microReg g k op (fun u w => u.sv (sD w) (f (sT w) (u.gv (sA w)) (u.gv (sB w))) (u.pv (sA w) || u.pv (sB w)))
/-- v[d] := f of v[a] and x[b], by type. -/
def microVS (g k op : Nat) (f : Nat → Nat → Nat → Nat) : Upd :=
  microReg g k op (fun u w => u.sv (sD w) (f (sT w) (u.gv (sA w)) (u.gx (sB w))) (u.pv (sA w) || u.px (sB w)))

/-! ## Control and scalars (R306) -/

/-- SAP_NOP. -/
def execSapNop (core unit : Nat) (s : State) : Host.Outcome State Fault Refusal := done (microReg core unit 0x00 (fun u _ => u)) s

/-- The unit ends its call. -/
def unitEnd (g k : Nat) (u : SapUnit) : Upd := seqs [
  modCall g u.call (fun c => { c with ended := c.ended + 2 ^ k, poisoned := c.poisoned + (if u.met then 2 ^ k else 0) }),
  setReg (sapB g + R.SU_FINFO k) (0xFF * 2 ^ 24), setUnit g k { u.idle with edge := true }]
/-- SAP_END. -/
def execSapEnd (core unit : Nat) (s : State) : Host.Outcome State Fault Refusal := done (micro core unit 0x01 (fun u _ => unitEnd core unit u)) s

/-- SAP_BR. -/
def execSapBr (core unit : Nat) (s : State) : Host.Outcome State Fault Refusal :=
  done (micro core unit 0x02 (fun u w => setUnit core unit (u.went (sTarget w)))) s
/-- A jump on x[a]: a poisoned condition aborts the call (R319). -/
def sapJump (g k op : Nat) (f : SapUnit → Nat → SapUnit) (taken : Nat → Bool) : Upd :=
  micro g k op (fun u w => if u.px (sA w) then unitFault g k sPoison
    else
      let u' := f u w
      setUnit g k (if taken (u'.gx (sA w)) then u'.went (sTarget w) else u'.next))
/-- SAP_LOOP. -/
def execSapLoop (core unit : Nat) (s : State) : Host.Outcome State Fault Refusal :=
  done (micro core unit 0x03 (fun u w => if u.px (sA w) then unitFault core unit sPoison
    else
      let r := (u.gx (sA w) + (2 ^ 32 - 1)) % 2 ^ 32
      let u' := u.sx (sA w) r false
      setUnit core unit (if r ≠ 0 then u'.went (sTarget w) else u'.next))) s
/-- BNZ. -/
def execBnz (core unit : Nat) (s : State) : Host.Outcome State Fault Refusal := done (sapJump core unit 0x04 (fun u _ => u) (fun x => x ≠ 0)) s
/-- BZ. -/
def execBz (core unit : Nat) (s : State) : Host.Outcome State Fault Refusal := done (sapJump core unit 0x05 (fun u _ => u) (fun x => x = 0)) s
/-- ADDI. -/
def execAddi (core unit : Nat) (s : State) : Host.Outcome State Fault Refusal := done (microImm core unit 0x08 (fun x w => wrap 32 (x + sImm w))) s
/-- SAP_ADD. -/
def execSapAdd (core unit : Nat) (s : State) : Host.Outcome State Fault Refusal := done (microX core unit 0x09 (fun x y => x + y)) s
/-- SAP_SUB. -/
def execSapSub (core unit : Nat) (s : State) : Host.Outcome State Fault Refusal := done (microX core unit 0x0A (fun x y => x + (2 ^ 32 - y))) s
/-- SAP_MUL. -/
def execSapMul (core unit : Nat) (s : State) : Host.Outcome State Fault Refusal := done (microX core unit 0x0B (fun x y => x * y)) s
/-- SHLI. -/
def execShli (core unit : Nat) (s : State) : Host.Outcome State Fault Refusal := done (microImm core unit 0x0C (fun x w => x * 2 ^ bits w 4 0)) s
/-- SHRI. -/
def execShri (core unit : Nat) (s : State) : Host.Outcome State Fault Refusal := done (microImm core unit 0x0D (fun x w => x / 2 ^ bits w 4 0)) s
/-- ANDI. -/
def execAndi (core unit : Nat) (s : State) : Host.Outcome State Fault Refusal := done (microImm core unit 0x0E (fun x w => x &&& sUImm w)) s
/-- ORI. -/
def execOri (core unit : Nat) (s : State) : Host.Outcome State Fault Refusal := done (microImm core unit 0x0F (fun x w => x ||| sUImm w)) s
/-- LUI. -/
def execLui (core unit : Nat) (s : State) : Host.Outcome State Fault Refusal :=
  done (microReg core unit 0x10 (fun u w => u.sx (sD w) (sUImm w * 2 ^ 15) false)) s
/-- ARG. -/
def execArg (core unit : Nat) (s : State) : Host.Outcome State Fault Refusal :=
  done (microReg core unit 0x11 (fun u w => u.sx (sD w) ((u.args[sUImm w]?).getD 0) false)) s
/-- The value SYS reads. -/
def sapSys (s : State) (g k : Nat) (u : SapUnit) : Nat → Nat
  | 0 => k
  | 1 => g
  | 2 => g / 64
  | _ => match callOf s g u.call with | some c => bits c.op.b 18 8 | none => 0
/-- SYS. -/
def execSys (core unit : Nat) (s : State) : Host.Outcome State Fault Refusal :=
  done (micro core unit 0x12 (fun u w => read fun t => setUnit core unit (u.sx (sD w) (sapSys t core unit u (sUImm w)) false).next)) s
/-- OFFS. -/
def execOffs (core unit : Nat) (s : State) : Host.Outcome State Fault Refusal :=
  done (microReg core unit 0x13 (fun u w => u.sx (sD w) (offOfCa unit (u.gx (sA w))) (u.px (sA w)))) s
/-- FOP. -/
def execFop (core unit : Nat) (s : State) : Host.Outcome State Fault Refusal :=
  done (microReg core unit 0x14 (fun u w =>
    u.sx (sD w) (fop (sSub w) (u.gx (sA w)) (u.gx (sB w))) (u.px (sA w) || (decide (sSub w < 5) && u.px (sB w))))) s

/-! ## Memory (R312, R313, R318 to R320) -/

/-- What a reading of the codeword at slice offset `off` finds: 0 clean, 1 corrected, 2 poison, 3 uncorrectable. -/
def cwFound (s : State) (g off : Nat) (e1 e2 : List (Nat × Nat)) : Nat :=
  if cwPoison s (dpaOf g off / 32) then 2
  else match decodeFlips (flipsAt e1 off) with
    | .clean => 0
    | .corrected _ => 1
    | .poison => 2
    | .uncorrectable => match decodeFlips (flipsAt e2 off) with
      | .poison => 2
      | .uncorrectable => 3
      | _ => 1
/-- Read and correct codewords in order; what each gives, none for poison. -/
def readCws (g k : Nat) (e1 e2 : List (Nat × Nat)) (go : List (Option (List Byte)) → Upd) : List Nat → List (Option (List Byte)) → Upd
  | [], got => go got
  | o :: os, got => checkCw g k o 2 (orgWord { cls := 4, inst := g, chan := k }) (flipsAt e1 o) (flipsAt e2 o) (fun c => read fun s =>
      readCws g k e1 e2 go os (got ++ [c.map (flipBytes (memBytes s (dpaOf g o) 32))]))
/-- Slots left for the unit in its channel's window (R276 to R278, R312). -/
def slotLeft (s : State) (g k : Nat) : Bool :=
  let a := fld s (slcB g + R.SLC_THROTTLE) 13 0
  let n := if fld s (slcB g + R.CH_STATUS k) 25 25 = 1 then a else a * 240 / 320
  decide ((chanAt s g k).sap < n)

/-- A unit's access at ca: the address and poison checks; then a slot and a grant, taken at an implicit boundary where four are
held; a channel that is held, or a suspension at that boundary, keeps it waiting. `ok` gets the unit and the slice offset. -/
def access (g k al ca : Nat) (pz : Bool) (u : SapUnit) (ok : SapUnit → Nat → Upd) : Upd := read fun s =>
  let off := offOfCa k ca
  if pz then unitFault g k sPoison
  else if ca % al ≠ 0 ∨ ca ≥ 2 ^ 26 then unitFault g k sAddr
  else
    let b := bankOf off
    let fifth := !u.banks.contains b && decide (u.banks.length ≥ 4)
    when (reach s (dpaOf g off) ≠ .retry && slotLeft s g k) (
      if fifth && suspPending s g k then setUnit g k u.bound
      else
        let v := if fifth then u.bound else u
        seqs [modChan g k (fun c => { c with sap := c.sap + 1, rows := (b, rowOf off, s.now) :: c.rows.filter (·.1 ≠ b) }),
          ok { v with banks := if v.banks.contains b then v.banks else v.banks ++ [b] } off])

/-- Count what a unit's reads found; an uncorrectable codeword aborts its call (R318, R319). `cas` are the codewords' addresses. -/
def noteFound (g k : Nat) (found cas : List Nat) : Upd :=
  let bad := ((found.zip cas).filter (·.1 = 3)).map (·.2)
  seqs [bump (sapB g + R.SU_CNT_CORR k) (found.filter (· = 1)).length, bump (sapB g + R.SU_CNT_UNCORR k) bad.length,
    onSome bad.getLast? (fun ca => seqs [setReg (sapB g + R.SU_POISON_CA k) ca, unitFault g k sPoison])]
/-- Bytes of some codewords as a number. -/
def cwNum (l : List (Option (List Byte))) : Nat := ofBytes (l.flatMap (fun c => c.getD (List.replicate 32 0)))
/-- Did one of them hold poison? -/
def cwBad (l : List (Option (List Byte))) : Bool := l.any Option.isNone

/-- LDV at its ca. -/
def ldvRun (g k : Nat) (e1 e2 : List (Nat × Nat)) : Upd := micro g k 0x18 (fun u w =>
  let ca := (u.gx (sA w) + 128 * sUImm w) % 2 ^ 32
  access g k 128 ca (u.px (sA w)) u (fun u' off => read fun s =>
    if reach s (dpaOf g off) = .dead then setUnit g k { ((u'.sv (sD w) 0 true).sv (sD w + 1) 0 true).next with met := true }
    else
      let offs := (List.range 4).map (fun i => off + 32 * i)
      readCws g k e1 e2 (fun l => seqs [
        setUnit g k { ((u'.sv (sD w) (cwNum (l.take 2)) (cwBad (l.take 2))).sv (sD w + 1) (cwNum (l.drop 2)) (cwBad (l.drop 2))).next with met := u.met || cwBad l },
        noteFound g k (offs.map (fun o => cwFound s g o e1 e2)) ((List.range 4).map (fun i => ca + 32 * i))]) offs []))
/-- LDV. -/
def execLdv (core unit : Nat) (e1 e2 : List (Nat × Nat)) (s : State) : Host.Outcome State Fault Refusal := done (ldvRun core unit e1 e2) s

/-- STV at its ca: whole codewords, the poison pattern for a poisoned register. -/
def stvRun (g k : Nat) : Upd := micro g k 0x19 (fun u w =>
  let ca := (u.gx (sA w) + 128 * sUImm w) % 2 ^ 32
  access g k 128 ca (u.px (sA w)) u (fun u' off =>
    let p0 := u.pv (sD w)
    let p1 := u.pv (sD w + 1)
    let n := 2 * b2n p0 + 2 * b2n p1
    let half (i r : Nat) (p : Bool) : Upd := let d := dpaOf g (off + 64 * i); if p then memPoison d 64 else memWrite d (toBytes 64 (u.gv r))
    seqs [half 0 (sD w) p0, half 1 (sD w + 1) p1,
      setUnit g k { u'.next with met := u.met || decide (0 < n), wrote := u.wrote + n },
      when (0 < n) (evt (sapR g) 3 0x0443 0 (payload [(24, 1, k), (28, 4, if p0 then ca else ca + 64), (32, 4, u.wrote + n)]))]))
/-- STV. -/
def execStv (core unit : Nat) (s : State) : Host.Outcome State Fault Refusal := done (stvRun core unit) s

/-- LDB at its ca. -/
def ldbRun (g k : Nat) (e1 e2 : List (Nat × Nat)) : Upd := micro g k 0x1A (fun u w =>
  let ca := wrap 32 (u.gx (sA w) + 4 * sImm w)
  access g k 4 ca (u.px (sA w)) u (fun u' off => read fun s =>
    if reach s (dpaOf g off) = .dead then setUnit g k { (u'.sv (sD w) 0 true).next with met := true }
    else
      let o := off / 32 * 32
      readCws g k e1 e2 (fun l => seqs [
        setUnit g k { (u'.sv (sD w) (packBits 32 (List.replicate 16 (cwNum l / 256 ^ (off % 32) % 2 ^ 32))) (cwBad l)).next with met := u.met || cwBad l },
        noteFound g k [cwFound s g o e1 e2] [ca / 32 * 32]]) [o] []))
/-- LDB. -/
def execLdb (core unit : Nat) (e1 e2 : List (Nat × Nat)) (s : State) : Host.Outcome State Fault Refusal := done (ldbRun core unit e1 e2) s

/-! ## Vectors (R306 to R309) -/

/-- VADD. -/
def execVadd (core unit : Nat) (s : State) : Host.Outcome State Fault Refusal :=
  done (microV core unit 0x20 (fun t => lane2 t Num.add (fun x y => x + y))) s
/-- VSUB. -/
def execVsub (core unit : Nat) (s : State) : Host.Outcome State Fault Refusal :=
  done (microV core unit 0x21 (fun t => lane2 t (fun x y => x.add y.neg) (fun x y => x + (2 ^ 32 - y)))) s
/-- VMUL. -/
def execVmul (core unit : Nat) (s : State) : Host.Outcome State Fault Refusal :=
  done (microV core unit 0x22 (fun t => lane2 t Num.mul (fun x y => x * y))) s
/-- VFMA. -/
def execVfma (core unit : Nat) (s : State) : Host.Outcome State Fault Refusal :=
  done (microReg core unit 0x23 (fun u w => u.sv (sD w) (laneFma (sT w) (u.gv (sA w)) (u.gv (sB w)) (u.gv (sC w)))
    (u.pv (sA w) || u.pv (sB w) || u.pv (sC w)))) s
/-- VMAX. -/
def execVmax (core unit : Nat) (s : State) : Host.Outcome State Fault Refusal := done (microV core unit 0x24 (fun t => lane2 t Num.zmax imax)) s
/-- VMIN. -/
def execVmin (core unit : Nat) (s : State) : Host.Outcome State Fault Refusal := done (microV core unit 0x25 (fun t => lane2 t Num.zmin imin)) s
/-- VMULS. -/
def execVmuls (core unit : Nat) (s : State) : Host.Outcome State Fault Refusal := done (microVS core unit 0x26 (fun t => laneS t Num.mul)) s
/-- VADDS. -/
def execVadds (core unit : Nat) (s : State) : Host.Outcome State Fault Refusal := done (microVS core unit 0x27 (fun t => laneS t Num.add)) s
/-- VACT. -/
def execVact (core unit : Nat) (s : State) : Host.Outcome State Fault Refusal :=
  done (microReg core unit 0x28 (fun u w => u.sv (sD w) (laneAct (sT w) (sSub w) (u.gv (sA w))) (u.pv (sA w)))) s

/-- Registers `r` to `r + 3` of a group. -/
def quad (r : Nat) : List Nat := [r, r + 1, r + 2, r + 3]
/-- VCVT. -/
def vcvt (u : SapUnit) (w : Nat) : SapUnit :=
  let v := u.gv (sA w)
  match sSub w with
  | 0 => u.sv (sD w) (packF 0 (((lanes16 v).take 16).map bf)) (u.pv (sA w))
  | 1 => u.sv (sD w) (packF 0 (((lanes16 v).drop 16).map bf)) (u.pv (sA w))
  | 2 => u.sv (sD w) (packF 1 ((lanes32 v ++ lanes32 (u.gv (sB w))).map f32)) (u.pv (sA w) || u.pv (sB w))
  | 7 =>
    let pz := u.pv (sA w) || u.px (sC w)
    ((quad (sD w)).zip (cvtOpen v (u.gx (sC w)))).foldl (fun u e => u.sv e.1 e.2 pz) u
  | n =>
    let pz := (quad (sA w)).any u.pv
    let r := cvtPack n ((quad (sA w)).flatMap (fun i => (lanes32 (u.gv i)).map f32))
    (u.sv (sD w) r.1 pz).sx (sC w) r.2 pz
/-- VCVT. -/
def execVcvt (core unit : Nat) (s : State) : Host.Outcome State Fault Refusal := done (microReg core unit 0x29 vcvt) s
/-- VINS. -/
def execVins (core unit : Nat) (s : State) : Host.Outcome State Fault Refusal :=
  done (microReg core unit 0x2A (fun u w => u.sv (sD w) (setBits (u.gv (sD w)) (32 * sSub w + 31) (32 * sSub w) (u.gx (sA w)))
    (u.pv (sD w) || u.px (sA w)))) s
/-- VEXT. -/
def execVext (core unit : Nat) (s : State) : Host.Outcome State Fault Refusal :=
  done (microReg core unit 0x2B (fun u w => u.sx (sD w) (u.gv (sA w) / 2 ^ (32 * sSub w)) (u.pv (sA w)))) s
/-- PACC. -/
def execPacc (core unit : Nat) (s : State) : Host.Outcome State Fault Refusal :=
  done (microReg core unit 0x2C (fun u w => u.sx (sD w) (pacc (sSub w) (u.gx (sD w)) (lanesF (sT w) (u.gv (sA w)))) (u.px (sD w) || u.pv (sA w)))) s

/-! ## Reductions (R321 to R324) -/

/-- RSEND sends, and the unit goes on. -/
def rsendGo (g k : Nat) (u : SapUnit) (w : Nat) : Upd := seqs [sendPart g k (sSub w) (u.gx (sA w)) (u.px (sA w)),
  modUnit g k (fun u => { u with state := 1 }.next)]
/-- RSEND: with 4 steps outstanding it waits (R321). -/
def execRsend (core unit : Nat) (s : State) : Host.Outcome State Fault Refusal :=
  done (micro core unit 0x2D (fun u w => if u.sent - u.got ≥ 4 then setUnit core unit { u with state := 3 } else rsendGo core unit u w)) s
/-- RWAIT takes the result of the oldest outstanding step: an atom boundary. -/
def rwaitGo (g k : Nat) (u : SapUnit) (w : Nat) (r : Nat × Nat × Bool) : Upd :=
  setUnit g k { (u.sx (sD w) r.2.1 r.2.2).next.bound with state := 1, got := u.got + 1, back := u.back.filter (·.1 ≠ u.got), met := u.met || r.2.2 }
/-- RWAIT: without the result it waits, holding no grant (R321). -/
def execRwait (core unit : Nat) (s : State) : Host.Outcome State Fault Refusal :=
  done (micro core unit 0x2E (fun u w => match u.back.find? (·.1 = u.got) with
    | some r => rwaitGo core unit u w r
    | none => setUnit core unit { u.bound with state := 3 })) s

/-- The oldest result on its way to a unit arrives; a waiting RWAIT takes the one it awaits, a waiting RSEND goes on. -/
def resultArrives (g k : Nat) : Upd := read fun s =>
  let x := sapOf s g
  onSome (x.back.find? (·.1 = k)) fun r =>
    let u0 := unitOf s g k
    let u := { u0 with back := u0.back ++ [r.2] }
    let w := u.word
    seqs [modSap g (fun y => { y with back := y.back.erase r }),
      when (u0.state ≠ 0) (
        if u0.state = 3 && sOp w = 0x2D then seqs [setUnit g k u, rsendGo g k u w]
        else match (if u0.state = 3 && sOp w = 0x2E then u.back.find? (·.1 = u.got) else none) with
          | some v => rwaitGo g k u w v
          | none => setUnit g k u)]
/-- REDUCTION_RESULT_ARRIVAL. -/
def execReductionResultArrival (core unit : Nat) (s : State) : Host.Outcome State Fault Refusal := done (resultArrives core unit) s
/-- REDUCTION_STEP_COMBINE: of a core's own units, or of the cores of a group it roots. -/
def execReductionStepCombine (core grp : Nat) (root : Bool) (s : State) : Host.Outcome State Fault Refusal :=
  done (if root then combineCores core grp else combineUnits core grp) s
/-- REDUCTION_STEP_TIMEOUT. -/
def execReductionStepTimeout (core grp : Nat) (s : State) : Host.Outcome State Fault Refusal := done (stepTimeout core grp) s

/-! ## What else happens to a unit -/

/-- SAP_ILLEGAL_INSTRUCTION (R310). -/
def execSapIllegalInstruction (core unit : Nat) (s : State) : Host.Outcome State Fault Refusal :=
  done (read fun s => when (decide (unit < 8) && unitMay s core unit && !(unitOf s core unit).bad.contains (unitOf s core unit).pc && !sLegal (unitOf s core unit).word) (unitFault core unit sIllegal)) s

/-- A pending suspension takes effect at an atom boundary or in an atom that has overrun (R316, R317). -/
def suspend (g k : Nat) : Upd := read fun s =>
  let u := unitOf s g k
  when (u.state = 1 && (u.edge || u.past || u.banks.isEmpty) && suspPending s g k) (seqs [
    setUnit g k { u.bound with state := 2 }, bump (sapB g + R.SU_CNT_SUSP k) 1])
/-- SAP_SUSPEND. -/
def execSapSuspend (core unit : Nat) (s : State) : Host.Outcome State Fault Refusal := done (suspend core unit) s

/-- The atom budget of a unit's channel (R315). -/
def atomBudget (s : State) (g k : Nat) : Nat :=
  match fld s (slcB g + R.CH_STATUS k) 27 26 with | 0 => 640 | 1 => 320 | _ => 160
/-- An atom reaches its budget less 64 cycles with no boundary; `age` is its age in cycles (R317). -/
def atomOver (g k age : Nat) : Upd := read fun s =>
  let u := unitOf s g k
  let o := sapB g + R.SU_ATOM k
  when (u.state = 1 && !u.banks.isEmpty && !u.past && decide (age ≥ atomBudget s g k - 64)) (seqs [
    setUnit g k { u with past := true }, bump (sapB g + R.SU_CNT_OVERRUN k) 1,
    when (age > fld s o 31 16) (setFld o 31 16 (min age 0xFFFF)),
    evt (sapR g) 1 0x0441 0 (payload [(24, 1, k), (25, 1, fld s (slcB g + R.CH_STATUS k) 27 26), (26, 2, u.pc), (28, 2, age)])])
/-- SAP_ATOM_OVERRUN. -/
def execSapAtomOverrun (core unit age : Nat) (s : State) : Host.Outcome State Fault Refusal := done (atomOver core unit age) s

/-- The first call that has run for SAP_TIMEOUT aborts. -/
def callTimeout (g : Nat) : Upd := read fun s =>
  onSome ((sapOf s g).calls.find? (fun c => !c.live.isEmpty && decide (s.now ≥ c.time + 1000 * fld s (sapB g + R.SAP_TIMEOUT) 15 0)))
    (fun c => seqs [abortCall evt g c.id sCallTime 0, raise (sapR g) sCallTime 0])
/-- SAP_CALL_TIMEOUT. -/
def execSapCallTimeout (core : Nat) (s : State) : Host.Outcome State Fault Refusal := done (callTimeout core) s

/-! ## Commands and the store (R335) -/

/-- UNIT_CALL. -/
def execUnitCall (o : Origin) (core arg : Nat) (s : State) : Host.Outcome State Fault Refusal := done (command o (sapB core / 0x1000) 0x10 arg) s
/-- UNIT_ABORT. -/
def execUnitAbort (o : Origin) (core arg : Nat) (s : State) : Host.Outcome State Fault Refusal := done (command o (sapB core / 0x1000) 0x11 arg) s
/-- SAP_CLEAR_COUNTS. -/
def execSapClearCounts (o : Origin) (core arg : Nat) (s : State) : Host.Outcome State Fault Refusal :=
  done (command o (sapB core / 0x1000) 0x12 arg) s
/-- SU_PROG_DATA_WRITE: a write of SU_PROG_DATA. -/
def execSuProgDataWrite (o : Origin) (core unit val : Nat) (s : State) : Host.Outcome State Fault Refusal :=
  done (busWrite o (sapB core + R.SU_PROG_DATA unit) 4 val) s

end Sys2Proof.Machine
end

