-- ==== Sys2Proof/Machine/Illegal.lean ====
section
/-! DEFINITION. Sys2Proof/Machine/Illegal.lean: which 64-bit words are illegal instructions of a stage program, and what issuing one does
(R97, R98, R128). -/
namespace Sys2Proof.Machine
open Sys2Proof

/-- What is malformed in an instruction of an opcode; none: the opcode is not assigned. -/
def badOf (op : Nat) : Option (Nat → Bool) :=
  if op = 0x00 ∨ op = 0x09 ∨ op = 0x0B then some shZero.bad
  else if op ≤ 0x05 ∨ op = 0x0A ∨ (0x0C ≤ op ∧ op ≤ 0x0E) then some (fun _ => false)
  else if op ≤ 0x08 then some (shS false).bad
  else if op = 0x10 then some shLd.bad
  else if op = 0x11 then some shSt.bad
  else if op = 0x12 then some shPref.bad
  else if op = 0x13 then some (shL true false).bad
  else if op = 0x14 then some (shL false false).bad
  else if op = 0x15 ∨ op = 0x16 then some (shL false true).bad
  else if op = 0x17 ∨ op = 0x18 then some shX.bad
  else if op = 0x21 then some shHi.bad
  else if 0x20 ≤ op ∧ op ≤ 0x2E then some (fun _ => false)
  else if op = 0x30 ∨ op = 0x33 then some shWld.bad
  else if op = 0x31 ∨ op = 0x34 then some shPass.bad
  else if op = 0x32 then some shAccz.bad
  else if 0x50 ≤ op ∧ op ≤ 0x52 then some shMv.bad
  else if op = 0x53 then some shMvz.bad
  else if op = 0x54 then some shMvMeta.bad
  else if op = 0x60 ∨ op = 0x62 ∨ op = 0x63 then some shAtt.bad
  else if op = 0x61 ∨ (0x64 ≤ op ∧ op ≤ 0x6B) then some shAttRd.bad
  else if op = 0x6C then some shAttNoRa.bad
  else if op = 0x80 ∨ op = 0x83 ∨ op = 0x84 then some shDspRd.bad
  else if op = 0x81 then some shDlogit.bad
  else if op = 0x82 then some shDret.bad
  else if op = 0x90 then some shScall.bad
  else if op = 0x91 then some shSload.bad
  else if op = 0x92 then some shSabort.bad
  else if op = 0xA0 then some shSend.bad
  else if op = 0xA1 then some shBsend.bad
  else if op = 0xA2 then some shBcred.bad
  else none

/-- Is the word illegal whatever the registers hold? -/
def illegalWord (w : Nat) : Bool :=
  fCond w = 3 || (match badOf (bits w 63 56) with | some b => b (w % 2 ^ 56) | none => true)

/-- ILLEGAL_INSTRUCTION: the thread issues an illegal word; a legal word is not this command. -/
def execIllegalInstruction (core th w : Nat) (s : State) : Host.Outcome State Fault Refusal :=
  done (when (illegalWord w) (issue core th (w % 2 ^ 56) ⟨fun _ => true, fun _ => []⟩ (fun _ => skip))) s

end Sys2Proof.Machine
end

