-- ==== Sys2Proof/Machine/Ledgers.lean ====
section
/-! DEFINITION. Sys2Proof/Machine/Ledgers.lean: snapshots and their checks, traps served, and the rows of the fault and ledger pages
(R645, R648, R650 to R658). -/
namespace Sys2Proof.Machine
open Sys2Proof

/-- LDG of a site, or LDGD. -/
def ldgR (n : Nat) : Page.Ref := if n < 64 then ⟨.LDG, n⟩ else ⟨.LDGD, 0⟩
/-- Change the ledger checks of `n`. -/
def modLdg (n : Nat) (f : Ldg → Ldg) : Upd := fun s => [.ldg n (f (ldgOf s n))]

/-- A failed invariant is latched, raised and reported, once while its difference stays (R652). -/
def mismatch (n id i k d : Nat) (x : Ldg) : Upd := read fun s =>
  let pg := Page.base (ldgR n)
  let latched := bit (rd s (pg + R.LDG_MISMATCH)) (id % 32)
  when (!(latched && (x.diffs.lookup (id, i, k)) = some d)) (seqs [
    modLdg n (fun y => { y with diffs := y.diffs.filter (·.1 ≠ (id, i, k)) ++ [((id, i, k), d)], mism := SMap.set 0 id (SMap.get 0 id y.mism + 1) y.mism }),
    setFld (pg + R.LDG_MISMATCH) (id % 32) (id % 32) 1, bump (pg + R.LDG_CNT_MISMATCH) 1, raise (ldgR n) 0 0,
    evt (ldgR n) 0 0x0210 0 (payload [(24, 1, id), (25, 1, k), (26, 2, i), (28, 1, if n < 64 then n else 0xFF), (32, 4, d), (36, 4, snapTerm x id i 0)])])

/-- Is a link's ledger checked: only while the link is UP (R651)? -/
def credChecked (s : State) (n id i : Nat) : Bool := (id ≠ 0 && id ≠ 0x25) || (let c := credNode n id i; linkSt s c.1 c.2.1 = 1)
/-- Check every invariant of a ledger's snapshot. -/
def checkLedger (n id : Nat) : Upd := read fun s =>
  let x := ldgOf s n
  each ((List.range (ldgCount id)).filter (credChecked s n id)) (fun i => each [0, 1] (fun k =>
    let d := ldgDiff (openRefusals s) id k (snapTerm x id i)
    when (d ≠ 0) (mismatch n id i k d (ldgOf s n))))

/-- The millisecond's snapshot of a page, but for the ids that `late` names with it, and its checks (R650, R652). -/
def snapshot (late : List (Nat × Nat)) (n : Nat) : Upd := read fun s => when (ldgRuns s n) (
  let there (id : Nat) : Bool := ldgOpen s n id && !late.contains (n, id)
  seqs [modLdg n (fun x => { x with snap := takeSnap s n there, late := (ldgIds n).filter (fun id => late.contains (n, id)) }),
    setReg64 (Page.base (ldgR n) + R.LDG_SNAP_T_LO) (s.now / 1000000 * 1000000),
    each ((ldgIds n).filter there) (checkLedger n)])

/-- LEDGER_SNAPSHOT; `late` names the ledgers (page, id) whose units do not deliver. -/
def execLedgerSnapshot (late : List (Nat × Nat)) (s : State) : Host.Outcome State Fault Refusal :=
  done (each (List.range 65) (snapshot late)) s
/-- LEDGER_SNAP_TIMEOUT: 100 µs after its millisecond the snapshot of ledger `id` has not come. -/
def execLedgerSnapTimeout (lp lid : Nat) (s : State) : Host.Outcome State Fault Refusal :=
  done (read fun s => when ((ldgOf s lp).late.contains lid && decide (s.now ≥ rd64 s (Page.base (ldgR lp) + R.LDG_SNAP_T_LO) + 100000))
    (seqs [modLdg lp (fun x => { x with late := x.late.filter (· ≠ lid) }), raise (ldgR lp) 2 0])) s

/-- TRAP_SERVICE: Xazara serves the oldest trap entry it has not served (R648). -/
def execTrapService (s : State) : Host.Outcome State Fault Refusal :=
  done (read fun s => when (fld s (trkB + R.TRK_FW_STATE) 7 0 = 2) (onSome s.flt.unserved.head? fun e =>
    let w := SMap.get [] e s.flt.traps
    let f := w.getD 0 0
    seqs [act (.flt { s.flt with unserved := s.flt.unserved.drop 1 }),
      evt ⟨.DFLT, 0⟩ 0 0x0201 0 (payload [(24, 1, e), (25, 1, bits f 20 16), (26, 2, bits f 15 0), (28, 8, w.getD 1 0 + w.getD 2 0 * 2 ^ 32)])])) s

/-- The collector of a site, or DFLT. -/
def collectorR (n : Nat) : Page.Ref := if n < 64 then ⟨.TFLT, n⟩ else ⟨.DFLT, 0⟩
/-- FIRST_FAULT_CLEAR. -/
def execFirstFaultClear (o : Origin) (lp : Nat) (s : State) : Host.Outcome State Fault Refusal :=
  done (busWrite o (Page.base (collectorR lp) + R.TFLT_FIRST) 4 (2 ^ 31)) s
/-- TRAP_CLEAR. -/
def execTrapClear (o : Origin) (arg : Nat) (s : State) : Host.Outcome State Fault Refusal := done (command o (trunkPage .DFLT) 0x10 arg) s
/-- LDG_CLEAR_COUNTS of a site's LDG, or of LDGD. -/
def execLdgClearCounts (o : Origin) (lp arg : Nat) (s : State) : Host.Outcome State Fault Refusal :=
  done (command o (pageNo (ldgR lp)) 0x10 arg) s

end Sys2Proof.Machine
end

