-- ==== Sys2Proof/Machine/Manage.lean ====
section
/-! DEFINITION. Sys2Proof/Machine/Manage.lean: the management endpoint: MCTP control messages, PLDM, vendor-defined register access, and
the bus timeout (R677 to R685). Codes that the spec leaves to the DMTF specifications it names are those of the standards (log 68). -/
namespace Sys2Proof.Machine
open Sys2Proof

abbrev mgtB : Nat := Page.trunk .MGT
abbrev mgtR : Page.Ref := ⟨.MGT, 0⟩

/-! ## Messages (R677) -/

/-- Does the endpoint hear a binding (0 SMBus, 1 I3C): it runs and the binding is enabled? In recovery service it runs though its page
cannot answer (R546). -/
def mgtHears (s : State) (bnd : Nat) : Bool :=
  let fw := fld s (trkB + R.TRK_FW_STATE) 7 0
  decide (bnd < 2) && bit (rd s (mgtB + R.MGT_CTRL)) bnd && ((fw = 2 && pgState s mgtR = stRUN) || fw = 3)
/-- A message that is heard is counted. -/
def mgtMsg (bnd : Nat) (u : Upd) : Upd := read fun s => when (mgtHears s bnd) (seqs [bump (mgtB + R.MGT_CNT_RX) 1, u])
/-- Send a message. -/
def mgtSend (o : Out) : Upd := seqs [bump (mgtB + R.MGT_CNT_TX) 1, act (.out o)]
/-- Answer a PLDM command. -/
def pldm (bnd typ cmd cc : Nat) (l : List Nat) : Upd := mgtSend (.pldm bnd typ cmd cc l)
/-- Answer one that is wrong: it counts as bad. -/
def pldmBad (bnd typ cmd cc : Nat) : Upd := seqs [bump (mgtB + R.MGT_CNT_BAD) 1, pldm bnd typ cmd cc []]
/-- Change the endpoint. -/
def modMgt (f : Mgt → Mgt) : Upd := read fun s => act (.mgt (f s.mgt))

/-- The endpoint ID on a binding. -/
def eidOf (s : State) (bnd : Nat) : Nat := bits (rd s (mgtB + R.MGT_EID)) (8 * bnd + 7) (8 * bnd)
/-- The origin of what a binding asks for (R68). -/
def bmc (s : State) (bnd : Nat) : Origin := { cls := 1, inst := bnd * 256 + eidOf s bnd }

/-- MCTP control: 1 Set Endpoint ID, 2 Get Endpoint ID, 4 Get MCTP Version Support, 5 Get Message Type Support, 6 Get Vendor Defined
Message Support; `mcd` is the endpoint ID of a Set, or the message type of 4. -/
def mctpControl (bnd mc mcd : Nat) : Upd := read fun s =>
  let ans (cc : Nat) (l : List Nat) : Upd := seqs [when (cc ≠ 0) (bump (mgtB + R.MGT_CNT_BAD) 1), mgtSend (.mctp bnd mc cc l)]
  match mc with
  | 1 => if mcd = 0 ∨ 255 ≤ mcd then ans 2 [] else seqs [setFld (mgtB + R.MGT_EID) (8 * bnd + 7) (8 * bnd) mcd, ans 0 [mcd]]
  | 2 => ans 0 [eidOf s bnd]
  | 4 => if mcd = 0 ∨ mcd = 1 ∨ mcd = 0x7F ∨ mcd = 0xFF then ans 0 [0xF1F3F100] else ans 0x80 []
  | 5 => ans 0 [0, 1, 0x7F]
  | 6 => ans 0 [1, rd s (mgtB + R.MGT_VDM_ID)]
  | _ => ans 5 []
/-- MCTP_CONTROL. -/
def execMctpControl (bnd mc mcd : Nat) (s : State) : Host.Outcome State Fault Refusal := done (mgtMsg bnd (mctpControl bnd mc mcd)) s

/-! ## PLDM base (R678) -/

/-- GET_TID. -/
def execGetTid (bnd : Nat) (s : State) : Host.Outcome State Fault Refusal := done (mgtMsg bnd (read fun s => pldm bnd 0 2 0 [s.mgt.tid])) s
/-- SET_TID. -/
def execSetTid (bnd tid : Nat) (s : State) : Host.Outcome State Fault Refusal :=
  done (mgtMsg bnd (if tid = 0 ∨ 255 ≤ tid then pldmBad bnd 0 1 2 else seqs [modMgt (fun m => { m with tid := tid }), pldm bnd 0 1 0 []])) s
/-- The specification version of a supported type (R678). -/
def pldmVersion (typ : Nat) : Option Nat :=
  match typ with | 0 => some 0xF1F1F000 | 2 => some 0xF1F2F000 | 4 => some 0xF1F0F000 | 5 => some 0xF1F1F000 | _ => none
/-- GET_PLDM_VERSION. -/
def execGetPldmVersion (bnd typ : Nat) (s : State) : Host.Outcome State Fault Refusal :=
  done (mgtMsg bnd (match pldmVersion typ with | some v => pldm bnd 0 3 0 [v] | none => pldmBad bnd 0 3 0x83)) s
/-- GET_PLDM_TYPES. -/
def execGetPldmTypes (bnd : Nat) (s : State) : Host.Outcome State Fault Refusal := done (mgtMsg bnd (pldm bnd 0 4 0 [0, 2, 4, 5])) s
/-- The commands of a supported type, by their codes (R678). -/
def pldmCommands (typ : Nat) : Option (List Nat) :=
  match typ with
  | 0 => some [1, 2, 3, 4, 5]
  | 2 => some [0x04, 0x0B, 0x0D, 0x11, 0x21, 0x31, 0x32, 0x50, 0x51]
  | 4 => some [1, 2]
  | 5 => some [0x01, 0x02, 0x10, 0x13, 0x14, 0x15, 0x16, 0x17, 0x18, 0x1A, 0x1B, 0x1C, 0x1D]
  | _ => none
/-- GET_PLDM_COMMANDS. -/
def execGetPldmCommands (bnd typ : Nat) (s : State) : Host.Outcome State Fault Refusal :=
  done (mgtMsg bnd (match pldmCommands typ with | some l => pldm bnd 0 5 0 l | none => pldmBad bnd 0 5 0x83)) s
/-- PLDM_UNSUPPORTED: a command that no supported type lists. -/
def execPldmUnsupported (bnd typ pcmd : Nat) (s : State) : Host.Outcome State Fault Refusal :=
  done (mgtMsg bnd (when (!((pldmCommands typ).getD []).contains pcmd) (pldmBad bnd typ pcmd 5))) s

/-! ## Monitoring and control (R679) -/

/-- The sites good at test. -/
def goodSites (s : State) : List Nat := (List.range 64).filter (getBit64 s goodB)
/-- The higher of two 16-bit two's complement readings. -/
def hotter (a b : Nat) : Nat := if sext 16 b < sext 16 a then a else b
/-- A numeric sensor's reading; a site's sensor gives its hottest DRAM reading above its hottest logic reading. -/
def sensorRead (s : State) (sid : Nat) : Option Nat :=
  let f (o hi lo : Nat) : Option Nat := some (bits (readReg s o) hi lo)
  match sid with
  | 1 => f (thmB + R.THM_HOT) 31 16 | 2 => f (thmB + R.THM_HOT) 15 0
  | 3 => f (thmB + R.THM_TH) 15 0 | 4 => f (thmB + R.THM_TH) 31 16
  | 5 => f (thmB + R.THM_FLOW) 29 16
  | 6 => f (pwrB + R.PWR_POWER) 15 0 | 7 => f (pwrB + R.PWR_VBUS) 15 0
  | 8 => f (pwrB + R.PWR_IIN) 15 0 | 9 => f (pwrB + R.PWR_IIN) 31 16
  | _ =>
    let x := sid - 100
    if 100 ≤ sid ∧ (goodSites s).contains x then
      let q (i : Nat) : Nat := readReg s (tthB x + R.TTHM_Q i)
      let top (hi lo : Nat) : Nat := (List.range 3).foldl (fun m i => hotter m (bits (q (i + 1)) hi lo)) (bits (q 0) hi lo)
      some (top 31 16 * 65536 + top 15 0)
    else none
/-- GET_SENSOR_READING. -/
def execGetSensorReading (bnd sid : Nat) (s : State) : Host.Outcome State Fault Refusal :=
  done (mgtMsg bnd (read fun s => match sensorRead s sid with | some v => pldm bnd 2 0x11 0 [v] | none => pldmBad bnd 2 0x11 0x80)) s
/-- GET_STATE_SENSOR_READINGS. -/
def execGetStateSensorReadings (bnd sid : Nat) (s : State) : Host.Outcome State Fault Refusal :=
  done (mgtMsg bnd (read fun s => if sid = 10 then pldm bnd 2 0x21 0 [coolState s] else if sid = 11 then pldm bnd 2 0x21 0 [serviceState s] else pldmBad bnd 2 0x21 0x80)) s
/-- SET_NUMERIC_EFFECTER_VALUE: a register write with origin class 1. -/
def execSetNumericEffecterValue (bnd sid val : Nat) (s : State) : Host.Outcome State Fault Refusal :=
  done (mgtMsg bnd (read fun s => if sid ≠ 200 then pldmBad bnd 2 0x31 0x80
    else seqs [busWrite (bmc s bnd) (pwrB + R.PWR_CAP) 4 val,
      if writeRefused s (bmc s bnd) (pwrB + R.PWR_CAP) val then pldmBad bnd 2 0x31 2 else pldm bnd 2 0x31 0 []])) s
/-- GET_NUMERIC_EFFECTER_VALUE. -/
def execGetNumericEffecterValue (bnd sid : Nat) (s : State) : Host.Outcome State Fault Refusal :=
  done (mgtMsg bnd (read fun s => if sid = 200 then pldm bnd 2 0x32 0 [capW s] else pldmBad bnd 2 0x32 0x80)) s

/-- The PDR repository: id, kind (0 numeric, 1 state, 2 effecter) and unit (0 none, 1 0.25 °C, 2 0.1 L/min, 3 W, 4 mV, 5 0.1 A). -/
def pdrs (s : State) : List (Nat × Nat × Nat) :=
  [(1, 0, 1), (2, 0, 1), (3, 0, 1), (4, 0, 1), (5, 0, 2), (6, 0, 3), (7, 0, 4), (8, 0, 5), (9, 0, 5), (10, 1, 0), (11, 1, 0)]
    ++ (goodSites s).map (fun x => (100 + x, 0, 1)) ++ [(200, 2, 3)]
/-- GET_PDR_REPOSITORY_INFO: how many records there are. -/
def execGetPdrRepositoryInfo (bnd : Nat) (s : State) : Host.Outcome State Fault Refusal :=
  done (mgtMsg bnd (read fun s => pldm bnd 2 0x50 0 [(pdrs s).length])) s
/-- GET_PDR by record handle, from 1; 0 is the first. Answers the next handle and the record. -/
def execGetPdr (bnd hdl : Nat) (s : State) : Host.Outcome State Fault Refusal :=
  done (mgtMsg bnd (read fun s =>
    let h := max hdl 1
    match (pdrs s)[h - 1]? with
    | some r => pldm bnd 2 0x51 0 [if h < (pdrs s).length then h + 1 else 0, r.1, r.2.1, r.2.2]
    | none => pldmBad bnd 2 0x51 0x82)) s
/-- POLL_FOR_PLATFORM_EVENT_MESSAGE: `ack` names the event acknowledged, 0 none; answers the oldest event. -/
def execPollForPlatformEventMessage (bnd ack : Nat) (s : State) : Host.Outcome State Fault Refusal :=
  done (mgtMsg bnd (seqs [modMgt (fun m => { m with events := m.events.filter (fun e => !(ack ≠ 0 && e.1 = ack)) }),
    read fun t => pldm bnd 2 0x0B 0 (match t.mgt.events with | e :: _ => [e.1, e.2.1, e.2.2.1, e.2.2.2] | [] => [0])])) s
/-- EVENT_MESSAGE_BUFFER_SIZE: the terminus offers the baseline transmission unit. -/
def execEventMessageBufferSize (bnd : Nat) (s : State) : Host.Outcome State Fault Refusal := done (mgtMsg bnd (pldm bnd 2 0x0D 0 [64])) s
/-- SET_EVENT_RECEIVER. -/
def execSetEventReceiver (bnd eid : Nat) (s : State) : Host.Outcome State Fault Refusal :=
  done (mgtMsg bnd (seqs [modMgt (fun m => { m with receiver := if eid = 0 then none else some (bnd, eid) }), pldm bnd 2 0x04 0 []])) s

/-! ## FRU (R680) -/

/-- Registers of IDN. -/
def idnWords (s : State) (o n : Nat) : List Nat := (List.range n).map (fun i => rd s (Page.trunk .IDN + o + 4 * i))
/-- The OEM record: panel lot and number, the die records in site order, the trunk's last. -/
def oemRecord (s : State) : List Nat :=
  idnWords s (R.IDN_PANEL_LOT 0) 2 ++ idnWords s R.IDN_PANEL 1
    ++ (List.range 64).flatMap (fun x => (List.range 40).map (fun i => rd s (Page.tile .TILE x + R.TILE_DIE i))) ++ idnWords s (R.IDN_TRUNK_DIE 0) 4
/-- The General record: serial number, "Igeovel Devices", the ordering number's tiles, date of manufacture. -/
def generalRecord (s : State) : List Nat :=
  idnWords s (R.IDN_SERIAL 0) 4 ++ [73, 103, 101, 111, 118, 101, 108, 32, 68, 101, 118, 105, 99, 101, 115]
    ++ [match s.lic.active with | some a => a.tiles | none => 0] ++ idnWords s R.IDN_MFG_DATE 1
/-- GET_FRU_RECORD_TABLE_METADATA: two records, 641 die records in the OEM one. -/
def execGetFruRecordTableMetadata (bnd : Nat) (s : State) : Host.Outcome State Fault Refusal :=
  done (mgtMsg bnd (pldm bnd 4 1 0 [2, 641])) s
/-- GET_FRU_RECORD_TABLE. -/
def execGetFruRecordTable (bnd : Nat) (s : State) : Host.Outcome State Fault Refusal :=
  done (mgtMsg bnd (read fun s => pldm bnd 4 2 0 (generalRecord s ++ oemRecord s))) s

/-! ## Firmware update (R681) -/

/-- Change the update; the agent's request restarts its 120 s. -/
def modUpd (bnd : Nat) (f : Update → Update) : Upd := read fun s => modMgt (fun m => { m with upd := { f m.upd with bnd := bnd, last := s.now } })
/-- The update takes a state. -/
def updTo (bnd n : Nat) (f : Update → Update) : Upd := modUpd bnd (fun u => { f u with state := n, prev := u.state })
/-- A PLDM firmware update command in state `st`: outside update mode, or in another state, it is refused. -/
def updIn (bnd cmd : Nat) (ok : Update → Bool) (u : Upd) : Upd := mgtMsg bnd (read fun s =>
  if s.mgt.upd.state = 0 then pldmBad bnd 5 cmd 0x80
  else if !ok s.mgt.upd then seqs [modUpd bnd id, pldmBad bnd 5 cmd 0x84] else u)
/-- The two components. -/
def isComp (c : Nat) : Bool := c = 1 || c = 2
/-- Is IMAGE_WRITE BUSY? -/
def imgBusy (s : State) : Bool := match SMap.find fwuB s.busy with | some b => b.op = 0x10 | none => false

/-- QUERY_DEVICE_IDENTIFIERS: the IANA enterprise number. -/
def execQueryDeviceIdentifiers (bnd : Nat) (s : State) : Host.Outcome State Fault Refusal :=
  done (mgtMsg bnd (read fun s => pldm bnd 5 1 0 [rd s (mgtB + R.MGT_VDM_ID)])) s
/-- GET_FIRMWARE_PARAMETERS: classifier, identifier, active and pending version of each component. -/
def execGetFirmwareParameters (bnd : Nat) (s : State) : Host.Outcome State Fault Refusal :=
  done (mgtMsg bnd (read fun s =>
    let i := idleSlot s
    let lic (b : Option Blob) : Nat := match b with | some x => x.counter | none => 0
    pldm bnd 5 2 0 [0xFFFF, 1, runVersion s, if bit (rd s (slotReg i)) 31 then rd s (slotVer i) else 0,
      0xFFFF, 2, lic s.lic.active, lic s.lic.pending])) s
/-- REQUEST_UPDATE. -/
def execRequestUpdate (bnd : Nat) (s : State) : Host.Outcome State Fault Refusal :=
  done (mgtMsg bnd (read fun s => if s.mgt.upd.state ≠ 0 || imgBusy s then pldmBad bnd 5 0x10 0x81
    else seqs [updTo bnd 1 (fun _ => {}), pldm bnd 5 0x10 0 []])) s
/-- PASS_COMPONENT_TABLE: answers whether the component may be updated; the last one ends the table. -/
def execPassComponentTable (bnd comp : Nat) (last : Bool) (s : State) : Host.Outcome State Fault Refusal :=
  done (updIn bnd 0x13 (fun u => u.state = 1) (seqs [if last then updTo bnd 2 id else modUpd bnd id, pldm bnd 5 0x13 0 [b2n (!isComp comp)]])) s

/-- The LQ1 asks for the next bytes: at most 1,024. -/
def askData : Upd := read fun s => let u := s.mgt.upd; mgtSend (.pldmReq u.bnd 5 0x15 [u.pos, min 1024 (u.size - u.pos)])
/-- UPDATE_COMPONENT. -/
def execUpdateComponent (bnd comp fsz : Nat) (s : State) : Host.Outcome State Fault Refusal :=
  done (updIn bnd 0x14 (fun u => u.state = 2) (if !isComp comp || fsz = 0 || decide (16777216 < fsz) then seqs [modUpd bnd id, pldm bnd 5 0x14 0 [1]]
    else seqs [updTo bnd 3 (fun u => { u with comp := comp, size := fsz, pos := 0, data := 0 }), pldm bnd 5 0x14 0 [0], askData])) s

/-- A component is applied: the image as IMAGE_WRITE, the licence by staging and LIC_INSTALL; whether it verified goes to the agent. -/
def applyComp : Upd := read fun s =>
  let u := s.mgt.upd
  let o := bmc s u.bnd
  let say (cmd r : Nat) : Upd := mgtSend (.pldmReq u.bnd 5 cmd [r])
  let why := if u.comp = 1 then imgReason s u.size u.data else b2n (decide (1024 < u.size))
  seqs [say 0x16 0, say 0x17 why, when (why = 0) (seqs [
    if u.comp = 1 then seqs [imgBegin (idleSlot s), imgEnd { slot := idleSlot s, svn := imgF u.data 12 4, ver := imgF u.data 16 4, why := 0 }]
    else seqs [each (List.range ((u.size + 3) / 4)) (fun i => busWrite o (licB + R.LIC_STAGE i) 4 (u.data / 2 ^ (32 * i) % 2 ^ 32)),
      busWrite o (licB + R.LIC_STAGE_LEN) 4 u.size, command o (licB / 0x1000) 0x10 0],
    say 0x18 0])]
/-- REQUEST_FIRMWARE_DATA: the agent's response, with `blen` bytes of the component. -/
def execRequestFirmwareData (bnd blen bytes : Nat) (s : State) : Host.Outcome State Fault Refusal :=
  done (mgtMsg bnd (read fun s =>
    let u := s.mgt.upd
    if u.state ≠ 3 ∨ blen ≠ min 1024 (u.size - u.pos) then bump (mgtB + R.MGT_CNT_BAD) 1
    else seqs [modUpd bnd (fun u => { u with pos := u.pos + blen, data := u.data + bytes % 256 ^ blen * 256 ^ u.pos }),
      if u.pos + blen < u.size then askData else seqs [applyComp, updTo bnd 2 (fun u => { u with data := 0 })]])) s
/-- ACTIVATE_FIRMWARE: a pending activation; a self-contained one is not supported. -/
def execActivateFirmware (bnd : Nat) (self : Bool) (s : State) : Host.Outcome State Fault Refusal :=
  done (updIn bnd 0x1A (fun u => u.state = 2) (if self then seqs [modUpd bnd id, pldmBad bnd 5 0x1A 0x8C] else seqs [updTo bnd 0 id, pldm bnd 5 0x1A 0 [0]])) s
/-- GET_STATUS: the update's state and the one before. -/
def execGetStatus (bnd : Nat) (s : State) : Host.Outcome State Fault Refusal :=
  done (mgtMsg bnd (read fun s => seqs [when (s.mgt.upd.state ≠ 0) (modUpd bnd id), pldm bnd 5 0x1B 0 [s.mgt.upd.state, s.mgt.upd.prev]])) s
/-- CANCEL_UPDATE_COMPONENT. -/
def execCancelUpdateComponent (bnd : Nat) (s : State) : Host.Outcome State Fault Refusal :=
  done (updIn bnd 0x1C (fun u => u.state = 3) (seqs [updTo bnd 2 (fun u => { u with data := 0 }), pldm bnd 5 0x1C 0 []])) s
/-- CANCEL_UPDATE. -/
def execCancelUpdate (bnd : Nat) (s : State) : Host.Outcome State Fault Refusal :=
  done (updIn bnd 0x1D (fun _ => true) (seqs [updTo bnd 0 (fun u => { u with data := 0 }), pldm bnd 5 0x1D 0 []])) s
/-- PLDM_UPDATE_TIMEOUT. -/
def execPldmUpdateTimeout (s : State) : Host.Outcome State Fault Refusal :=
  done (read fun s => let u := s.mgt.upd
    when (u.state ≠ 0 && decide (s.now ≥ u.last + 120000000000)) (modMgt (fun m => { m with upd := { m.upd with state := 0, prev := u.state, data := 0 } }))) s

/-! ## Vendor-defined register access (R682) -/

/-- A request: enterprise number, count byte, bytes 6 and 7, offset. Another enterprise's is dropped. -/
def vdmMsg (bnd cmd iana cnt rsv off : Nat) (u : Upd) : Upd := mgtMsg bnd (read fun s =>
  if iana ≠ rd s (mgtB + R.MGT_VDM_ID) then bump (mgtB + R.MGT_CNT_BAD) 1
  else if 15 < cnt ∨ rsv ≠ 0 ∨ off % 4 ≠ 0 then seqs [bump (mgtB + R.MGT_CNT_BAD) 1, mgtSend (.vdm bnd cmd 3 0 off [])] else u)
/-- VDM_REG_RD. -/
def execVdmRegRd (bnd iana cnt rsv off : Nat) (s : State) : Host.Outcome State Fault Refusal :=
  done (vdmMsg bnd 1 iana cnt rsv off (read fun s => seqs [bump (mgtB + R.MGT_CNT_VDM_RD) 1,
    readRegs (bmc s bnd) off (cnt + 1) [] (fun l => mgtSend (.vdm bnd 1 0 l.length off l))])) s
/-- Write registers in order up to one that is refused; `go` gets the status and how many were done. -/
def vdmWrites (o : Origin) (go : Nat → Nat → Upd) : Nat → List (Nat × Nat) → Upd
  | n, [] => go 0 n
  | n, x :: xs => read fun s => seqs [busWrite o x.1 4 x.2, if writeRefused s o x.1 x.2 then go 1 n else vdmWrites o go (n + 1) xs]
/-- VDM_REG_WR: only while wr_in is 1. -/
def execVdmRegWr (bnd iana cnt rsv off bytes : Nat) (s : State) : Host.Outcome State Fault Refusal :=
  done (vdmMsg bnd 2 iana cnt rsv off (read fun s => seqs [bump (mgtB + R.MGT_CNT_VDM_WR) 1,
    if fld s (mgtB + R.MGT_CTRL) 2 2 = 0 then mgtSend (.vdm bnd 2 2 0 off [])
    else vdmWrites (bmc s bnd) (fun st n => mgtSend (.vdm bnd 2 st n off [])) 0
      ((List.range (cnt + 1)).map (fun i => (off + 4 * i, bytes / 2 ^ (32 * i) % 2 ^ 32)))])) s

/-- MGT_BUS_TIMEOUT: a binding whose data or clock was held low for 35 ms is reset (R685). -/
def execMgtBusTimeout (bnd : Nat) (clock : Bool) (s : State) : Host.Outcome State Fault Refusal :=
  done (read fun s => when (mgtHears s bnd) (seqs [raise mgtR 0 0, evt mgtR 0 0x0904 0 (payload [(24, 1, bnd), (25, 1, b2n clock)])])) s

end Sys2Proof.Machine
end

