-- ==== Sys2Proof/Machine/Repair.lean ====
section
/-! DEFINITION. Sys2Proof/Machine/Repair.lean: the commands of scrubbing and repair (R588 to R607). -/
namespace Sys2Proof.Machine
open Sys2Proof

/-! ## Scrubbing (R588 to R590) -/

/-- Does the scrubber of a channel pause? -/
def scrubPaused (s : State) (g k : Nat) : Bool :=
  let st := pgState s (slcR g)
  st = stOFF || st = stFAULT || st = stRETIRED || !chServes s g k || (chanAt s g k).hold.isSome || (chanAt s g k).queue.any (·.scrub)

/-- A lap ends: the tracker clears, the free spares that failed their test (`bad`, as bank * 3 + spare) are marked, and a
slow lap is reported (R586, R589). -/
def lapEnds (g k : Nat) (bad : List Nat) : Upd := read fun s =>
  let c := chanAt s g k
  let secs := (s.now - c.lapAt) / 1000000000
  let new := bad.filter (fun x => decide (x < 48) && !c.bad.contains x && !c.rmap.any (fun e => bits e.2 27 24 * 3 + bits e.2 11 10 = x))
  seqs [setChan g k { c with track := [], lap := secs, lapAt := s.now, bad := c.bad ++ new.eraseDups },
    when (secs > 3600 * fld s (fusB + R.FUS_LAP_LIMIT) 13 0) (seqs [raise fusR 4 0,
      evt fusR 3 0x0483 0 (eccPl g k [(28, 4, secs), (32, 4, fld s (fusB + R.FUS_LAP_LIMIT) 13 0)])])]

/-- The next granule is read in class 3; at the top of the channel the lap ends. -/
def scrub (g k : Nat) (e1 e2 : List (Nat × Nat)) (bad : List Nat) : Upd := read fun s =>
  let c := chanAt s g k
  when (!scrubPaused s g k && decide (c.queue.length < 128)) (
    let off := offOfCa k c.ca
    let r : Req := { cls := 3, off := off, n := 256, scrub := true, time := s.now, e1 := e1, e2 := e2 }
    let next := (c.ca + 256) % 2 ^ 26
    seqs [setChan g k { c with queue := c.queue ++ [{ r with left := r.cost }], ca := next }, when (next = 0) (lapEnds g k bad)])

/-- SCRUB_GRANULE. -/
def execScrubGranule (core chan : Nat) (e1 e2 : List (Nat × Nat)) (bad : List Nat) (s : State) : Host.Outcome State Fault Refusal :=
  done (scrub core chan e1 e2 bad) s

/-- The oldest trigger of a channel is met, or the channel's repair is exhausted (R595, R597). -/
def remapNext (g k : Nat) (e1 e2 : List (Nat × Nat)) : Upd := read fun s =>
  let c := chanAt s g k
  onSome c.waiting.head? fun w => when (c.hold.isNone && chState s g k ≠ 6) (match remapPlan c w.1 w.2 with
    | some p => seqs [modChan g k (fun c => { c with waiting := c.waiting.drop 1 }), copySpare g k w.1 w.2 e1 e2, remapRow g k w.1 w.2 p]
    | none => seqs [modChan g k (fun c => { c with waiting := c.waiting.drop 1 }), raise fusR 1 0, chanFails false g k])

/-- ROW_REMAP. -/
def execRowRemap (core chan : Nat) (e1 e2 : List (Nat × Nat)) (s : State) : Host.Outcome State Fault Refusal := done (remapNext core chan e1 e2) s

/-! ## Retirement (R599 to R601) -/

/-- Step 1: the site is fenced, and the waits commands of its pages end ABORTED. -/
def retireBegin (site cause : Nat) : Upd := read fun s => seqs [
  fenceSite site, each (s.busy.filter (fun e => onPages (fun r => !Page.isTrunk r.t && Page.siteOf r = site) e.1)) (fun e => onSome (Page.ofOff e.1) (fun r => endBusy evt r 6)),
  act (.fus { s.fus with retire := s.fus.retire.filter (·.1 ≠ site), now := some (site, cause, 1) })]
/-- Step 2: its domains go off, and its blocks enter RETIRED. -/
def retireOff (site cause : Nat) : Upd := read fun s =>
  let old := pgState s ⟨.TILE, site⟩
  seqs [reconciled evt site 0x01 2 0 (ledTerm s site 0x01 0 0) 0, reconciled evt site 0x02 2 0 (ledTerm s site 0x02 0 0) 0,
    memoryOffBy true site, each [PType.TILE, .TTHM] (fun t => blockOff true ⟨t, site⟩),
    read fun t => act (.ldg site { ldgOf t site with snap := takeSnap t site (fun _ => true) }),
    read fun t => act (.fus { t.fus with now := some (site, cause, 2 + 16 * old) })]
/-- Step 3: the fuse is burned and journaled, and the fence lifted. -/
def retireFuse (site cause n : Nat) : Upd := read fun s => seqs [
  setBit64 retiredB site true, setBit64 enabledB site false, hwEntry 4 (Page.tile .TILE site + R.PG_STATE) (n / 16) 7 1,
  setBit64 (Page.trunk .CLK + R.CLK_FENCED_LO) site false, setFld (fusB + R.FUS_COPPICE) 7 0 site,
  act (.fus { s.fus with now := some (site, cause, 3) }), raise fusR 2 0, waveReport]
/-- Steps 4 and 5: ECC_TILE_RETIRED from the LPT, and coppice where it is automatic. -/
def retireReport (site cause : Nat) : Upd := read fun s =>
  let a := lptAffected s site
  let why := if islandLost s 1 site 0 then 3 else cause
  let auto := fld s (fusB + R.FUS_CTRL) 0 0 = 1
  seqs [evt fusR 4 0x0484 0 (payload [(24, 1, site), (25, 1, 0xFF), (26, 1, 0xFF), (27, 1, why), (28, 8, a.1), (36, 2, a.2.1), (38, 2, a.2.2.1), (40, 2, a.2.2.2)]),
    when (match SMap.find fusB s.busy with | some b => b.op = 0x10 && b.arg % 64 = site | none => false) (endBusy evt fusR 1),
    act (.fus { s.fus with now := none, waiting := if auto then s.fus.waiting ++ [(site, none)] else s.fus.waiting }),
    when (!auto) (coppiceEvent 0xFF 3 site)]

/-- The retirement in progress goes one step on, or the lowest site that waits begins; `ok` is false where its fuse does not
burn. -/
def retireStep (ok : Bool) : Upd := read fun s =>
  match s.fus.now with
  | none => onSome s.fus.retire.head? (fun e => retireBegin e.1 e.2)
  | some (site, cause, n) =>
    if n % 16 = 1 then retireOff site cause
    else if n % 16 = 2 then (if ok then retireFuse site cause n else raise fusR 3 0)
    else retireReport site cause

/-- TILE_RETIREMENT. -/
def execTileRetirement (ok : Bool) (s : State) : Host.Outcome State Fault Refusal := done (retireStep ok) s

/-- The oldest promotion asked for; during bring-up it waits for the last wave. -/
def promoteNext : Upd := read fun s => onSome s.fus.waiting.head? fun w =>
  when (s.boot.waves.all (fun l => l.all (fun x => bootSettled s x || s.boot.alone.contains x))) (seqs [
    act (.fus { s.fus with waiting := s.fus.waiting.drop 1 }), coppice w.1 w.2])
/-- COPPICE_PROMOTION. -/
def execCoppicePromotion (s : State) : Host.Outcome State Fault Refusal := done promoteNext s

/-! ## Commands (R605) -/

/-- RETIRE. -/
def execRetire (o : Origin) (arg : Nat) (s : State) : Host.Outcome State Fault Refusal := done (command o (fusB / 0x1000) 0x10 arg) s
/-- COPPICE. -/
def execCoppice (o : Origin) (arg : Nat) (s : State) : Host.Outcome State Fault Refusal := done (command o (fusB / 0x1000) 0x11 arg) s
/-- REMAP_ROW. -/
def execRemapRow (o : Origin) (arg : Nat) (s : State) : Host.Outcome State Fault Refusal := done (command o (fusB / 0x1000) 0x12 arg) s
/-- STEER_WIRE. -/
def execSteerWire (o : Origin) (arg : Nat) (s : State) : Host.Outcome State Fault Refusal := done (command o (fusB / 0x1000) 0x13 arg) s
/-- FUS_CLEAR_COUNTS. -/
def execFusClearCounts (o : Origin) (arg : Nat) (s : State) : Host.Outcome State Fault Refusal := done (command o (fusB / 0x1000) 0x14 arg) s

end Sys2Proof.Machine
end

