-- ==== Sys2Proof/Machine/Dispatch.lean ====
section
/-! DEFINITION. Sys2Proof/Machine/Dispatch.lean: one arm per command: its meaning, or its rejection by name. -/
namespace Sys2Proof.Machine
open Sys2Proof

def exec (i : Instr) (s : State) : Host.Outcome State Fault Refusal :=
  match i with
  | .registerWrite o off size val => Sys2Proof.Machine.execRegisterWrite o off size val s
  | .misalignedRead o off size => Sys2Proof.Machine.execMisalignedRead o off size s
  | .pairLoRead o off => Sys2Proof.Machine.execPairLoRead o off s
  | .pairLoWrite o off val => Sys2Proof.Machine.execPairLoWrite o off val s
  | .pairHiWrite o off val => Sys2Proof.Machine.execPairHiWrite o off val s
  | .pairStageExpiry o off => Sys2Proof.Machine.execPairStageExpiry o off s
  | .rcFieldRead o off => Sys2Proof.Machine.execRcFieldRead o off s
  | .reset o page arg => Sys2Proof.Machine.execReset o page arg s
  | .start o page arg => Sys2Proof.Machine.execStart o page arg s
  | .drain o page arg => Sys2Proof.Machine.execDrain o page arg s
  | .halt o page arg => Sys2Proof.Machine.execHalt o page arg s
  | .resume o page arg => Sys2Proof.Machine.execResume o page arg s
  | .clearFault o page arg => Sys2Proof.Machine.execClearFault o page arg s
  | .commandCompletion page ok => Sys2Proof.Machine.execCommandCompletion page ok s
  | .coalesceWindowExpiry o off => Sys2Proof.Machine.execCoalesceWindowExpiry o off s
  | .jnlRingBurst n ok => Sys2Proof.Machine.execJnlRingBurst n ok s
  | .jnlConsPoll ok => Sys2Proof.Machine.execJnlConsPoll ok s
  | .jnlHeldWriteApply => Sys2Proof.Machine.execJnlHeldWriteApply s
  | .jnlHoldLimitExpiry => Sys2Proof.Machine.execJnlHoldLimitExpiry s
  | .jnlRefusalEnd => Sys2Proof.Machine.execJnlRefusalEnd s
  | .flushWindows o arg => Sys2Proof.Machine.execFlushWindows o arg s
  | .jnlClearCounts o arg => Sys2Proof.Machine.execJnlClearCounts o arg s
  | .chipReset o arg => Sys2Proof.Machine.execChipReset o arg s
  | .trkFwStopped => Sys2Proof.Machine.execTrkFwStopped s
  | .nop core th w => Sys2Proof.Machine.execNop core th w s
  | .endI core th w => Sys2Proof.Machine.execEnd core th w s
  | .br core th w => Sys2Proof.Machine.execBr core th w s
  | .jr core th w => Sys2Proof.Machine.execJr core th w s
  | .call core th w => Sys2Proof.Machine.execCall core th w s
  | .loop core th w => Sys2Proof.Machine.execLoop core th w s
  | .waittok core th w => Sys2Proof.Machine.execWaittok core th w s
  | .sigtok core th w => Sys2Proof.Machine.execSigtok core th w s
  | .barrier core th w => Sys2Proof.Machine.execBarrier core th w s
  | .fence core th w => Sys2Proof.Machine.execFence core th w s
  | .drainInstruction core th w => Sys2Proof.Machine.execDrainInstruction core th w s
  | .yield core th w => Sys2Proof.Machine.execYield core th w s
  | .trap core th w => Sys2Proof.Machine.execTrap core th w s
  | .rdsys core th w => Sys2Proof.Machine.execRdsys core th w s
  | .waiteng core th w => Sys2Proof.Machine.execWaiteng core th w s
  | .ld core th w => Sys2Proof.Machine.execLd core th w s
  | .st core th w => Sys2Proof.Machine.execSt core th w s
  | .pref core th w => Sys2Proof.Machine.execPref core th w s
  | .copy core th w => Sys2Proof.Machine.execCopy core th w s
  | .fill core th w => Sys2Proof.Machine.execFill core th w s
  | .unpin core th w => Sys2Proof.Machine.execUnpin core th w s
  | .cinv core th w => Sys2Proof.Machine.execCinv core th w s
  | .aadd core th w => Sys2Proof.Machine.execAadd core th w s
  | .acas core th w => Sys2Proof.Machine.execAcas core th w s
  | .movi core th w => Sys2Proof.Machine.execMovi core th w s
  | .movhi core th w => Sys2Proof.Machine.execMovhi core th w s
  | .add core th w => Sys2Proof.Machine.execAdd core th w s
  | .sub core th w => Sys2Proof.Machine.execSub core th w s
  | .mul core th w => Sys2Proof.Machine.execMul core th w s
  | .andI core th w => Sys2Proof.Machine.execAnd core th w s
  | .orI core th w => Sys2Proof.Machine.execOr core th w s
  | .xorI core th w => Sys2Proof.Machine.execXor core th w s
  | .shl core th w => Sys2Proof.Machine.execShl core th w s
  | .shr core th w => Sys2Proof.Machine.execShr core th w s
  | .sar core th w => Sys2Proof.Machine.execSar core th w s
  | .slt core th w => Sys2Proof.Machine.execSlt core th w s
  | .sltu core th w => Sys2Proof.Machine.execSltu core th w s
  | .seq core th w => Sys2Proof.Machine.execSeq core th w s
  | .minu core th w => Sys2Proof.Machine.execMinu core th w s
  | .illegalInstruction core th w => Sys2Proof.Machine.execIllegalInstruction core th w s
  | .memoryOpCompletion core th slot => Sys2Proof.Machine.execMemoryOpCompletion core th slot s
  | .leafFillArrival core line => Sys2Proof.Machine.execLeafFillArrival core line s
  | .coreMemTimeoutExpiry core who k => Sys2Proof.Machine.execCoreMemTimeoutExpiry core who k s
  | .readRetry core th slot => Sys2Proof.Machine.execReadRetry core th slot s
  | .tokenSignalArrival core who k => Sys2Proof.Machine.execTokenSignalArrival core who k s
  | .runaheadPrefetch core th w => Sys2Proof.Machine.execRunaheadPrefetch core th w s
  | .killThread o core arg => Sys2Proof.Machine.execKillThread o core arg s
  | .leafFlush o core arg => Sys2Proof.Machine.execLeafFlush o core arg s
  | .coreClearCounts o core arg => Sys2Proof.Machine.execCoreClearCounts o core arg s
  | .coreLeafSplitWrite o core val => Sys2Proof.Machine.execCoreLeafSplitWrite o core val s
  | .coreRunaheadWrite o core val => Sys2Proof.Machine.execCoreRunaheadWrite o core val s
  | .ringProdWrite o core ring val => Sys2Proof.Machine.execRingProdWrite o core ring val s
  | .coreTokWrite o core tk val => Sys2Proof.Machine.execCoreTokWrite o core tk val s
  | .wld core th w => Sys2Proof.Machine.execWld core th w s
  | .pass core th w => Sys2Proof.Machine.execPass core th w s
  | .accz core th w => Sys2Proof.Machine.execAccz core th w s
  | .accld core th w => Sys2Proof.Machine.execAccld core th w s
  | .accst core th w => Sys2Proof.Machine.execAccst core th w s
  | .arrInstructionStart core half pos => Sys2Proof.Machine.execArrInstructionStart core half pos s
  | .wldComplete core => Sys2Proof.Machine.execWldComplete core s
  | .passComplete core half => Sys2Proof.Machine.execPassComplete core half s
  | .mxuFeedTimeoutExpiry core half => Sys2Proof.Machine.execMxuFeedTimeoutExpiry core half s
  | .arrHalfReset o core arg => Sys2Proof.Machine.execArrHalfReset o core arg s
  | .arrClearCounts o core arg => Sys2Proof.Machine.execArrClearCounts o core arg s
  | .mvset core th w => Sys2Proof.Machine.execMvset core th w s
  | .mvrun core th w => Sys2Proof.Machine.execMvrun core th w s
  | .mvst core th w => Sys2Proof.Machine.execMvst core th w s
  | .mvz core th w => Sys2Proof.Machine.execMvz core th w s
  | .mvmeta core th w => Sys2Proof.Machine.execMvmeta core th w s
  | .mvLineArrival core line scale => Sys2Proof.Machine.execMvLineArrival core line scale s
  | .mvrunComplete core => Sys2Proof.Machine.execMvrunComplete core s
  | .mvLineTimeout core => Sys2Proof.Machine.execMvLineTimeout core s
  | .mvReset o core arg => Sys2Proof.Machine.execMvReset o core arg s
  | .mvClearCounts o core arg => Sys2Proof.Machine.execMvClearCounts o core arg s
  | .dopen core th w => Sys2Proof.Machine.execDopen core th w s
  | .dlogit core th w => Sys2Proof.Machine.execDlogit core th w s
  | .dret core th w => Sys2Proof.Machine.execDret core th w s
  | .dskip core th w => Sys2Proof.Machine.execDskip core th w s
  | .bmscan core th w => Sys2Proof.Machine.execBmscan core th w s
  | .placement site handle => Sys2Proof.Machine.execPlacement site handle s
  | .expertBatchSend site handle => Sys2Proof.Machine.execExpertBatchSend site handle s
  | .dretArrival core pos => Sys2Proof.Machine.execDretArrival core pos s
  | .tokenCombine site handle tok => Sys2Proof.Machine.execTokenCombine site handle tok s
  | .roundComplete site handle => Sys2Proof.Machine.execRoundComplete site handle s
  | .roundAbort o site arg => Sys2Proof.Machine.execRoundAbort o site arg s
  | .dspRetry site => Sys2Proof.Machine.execDspRetry site s
  | .dspTimeoutExpiry core handle atPort => Sys2Proof.Machine.execDspTimeoutExpiry core handle atPort s
  | .prefetchRequest site pos => Sys2Proof.Machine.execPrefetchRequest site pos s
  | .unpinRequest site pos => Sys2Proof.Machine.execUnpinRequest site pos s
  | .pinReleaseAll o site arg => Sys2Proof.Machine.execPinReleaseAll o site arg s
  | .dspClearCounts o site arg => Sys2Proof.Machine.execDspClearCounts o site arg s
  | .sliceRequest o core so n src wr dat e1 e2 => Sys2Proof.Machine.execSliceRequest o core so n src wr dat e1 e2 s
  | .deadDpaAccess o dpa isRead => Sys2Proof.Machine.execDeadDpaAccess o dpa isRead s
  | .slcDeadDpaWindow site => Sys2Proof.Machine.execSlcDeadDpaWindow site s
  | .schedulerWindow core => Sys2Proof.Machine.execSchedulerWindow core s
  | .requestAged core chan => Sys2Proof.Machine.execRequestAged core chan s
  | .rowCloseTimeout core chan bank => Sys2Proof.Machine.execRowCloseTimeout core chan bank s
  | .throttleBandRelease core => Sys2Proof.Machine.execThrottleBandRelease core s
  | .refreshDue core chan late => Sys2Proof.Machine.execRefreshDue core chan late s
  | .refreshBandRelease core chan => Sys2Proof.Machine.execRefreshBandRelease core chan s
  | .laneGroupRetrain core chan wire eye => Sys2Proof.Machine.execLaneGroupRetrain core chan wire eye s
  | .retrainPeriodExpiry core chan => Sys2Proof.Machine.execRetrainPeriodExpiry core chan s
  | .fullChannelRetrain core chan ok => Sys2Proof.Machine.execFullChannelRetrain core chan ok s
  | .holdTimeout core chan => Sys2Proof.Machine.execHoldTimeout core chan s
  | .pollardValidation site bad t => Sys2Proof.Machine.execPollardValidation site bad t s
  | .slcSidebandLost core chan => Sys2Proof.Machine.execSlcSidebandLost core chan s
  | .retrain o core arg => Sys2Proof.Machine.execRetrain o core arg s
  | .slcClearCounts o core arg => Sys2Proof.Machine.execSlcClearCounts o core arg s
  | .scall core th w => Sys2Proof.Machine.execScall core th w s
  | .sload core th w => Sys2Proof.Machine.execSload core th w s
  | .sabort core th w => Sys2Proof.Machine.execSabort core th w s
  | .sapCallStart core => Sys2Proof.Machine.execSapCallStart core s
  | .sapCallCompletion core => Sys2Proof.Machine.execSapCallCompletion core s
  | .sapNop core unit => Sys2Proof.Machine.execSapNop core unit s
  | .sapEnd core unit => Sys2Proof.Machine.execSapEnd core unit s
  | .sapBr core unit => Sys2Proof.Machine.execSapBr core unit s
  | .sapLoop core unit => Sys2Proof.Machine.execSapLoop core unit s
  | .bnz core unit => Sys2Proof.Machine.execBnz core unit s
  | .bz core unit => Sys2Proof.Machine.execBz core unit s
  | .addi core unit => Sys2Proof.Machine.execAddi core unit s
  | .sapAdd core unit => Sys2Proof.Machine.execSapAdd core unit s
  | .sapSub core unit => Sys2Proof.Machine.execSapSub core unit s
  | .sapMul core unit => Sys2Proof.Machine.execSapMul core unit s
  | .shli core unit => Sys2Proof.Machine.execShli core unit s
  | .shri core unit => Sys2Proof.Machine.execShri core unit s
  | .andi core unit => Sys2Proof.Machine.execAndi core unit s
  | .ori core unit => Sys2Proof.Machine.execOri core unit s
  | .lui core unit => Sys2Proof.Machine.execLui core unit s
  | .arg core unit => Sys2Proof.Machine.execArg core unit s
  | .sys core unit => Sys2Proof.Machine.execSys core unit s
  | .offs core unit => Sys2Proof.Machine.execOffs core unit s
  | .fop core unit => Sys2Proof.Machine.execFop core unit s
  | .ldv core unit e1 e2 => Sys2Proof.Machine.execLdv core unit e1 e2 s
  | .stv core unit => Sys2Proof.Machine.execStv core unit s
  | .ldb core unit e1 e2 => Sys2Proof.Machine.execLdb core unit e1 e2 s
  | .vadd core unit => Sys2Proof.Machine.execVadd core unit s
  | .vsub core unit => Sys2Proof.Machine.execVsub core unit s
  | .vmul core unit => Sys2Proof.Machine.execVmul core unit s
  | .vfma core unit => Sys2Proof.Machine.execVfma core unit s
  | .vmax core unit => Sys2Proof.Machine.execVmax core unit s
  | .vmin core unit => Sys2Proof.Machine.execVmin core unit s
  | .vmuls core unit => Sys2Proof.Machine.execVmuls core unit s
  | .vadds core unit => Sys2Proof.Machine.execVadds core unit s
  | .vact core unit => Sys2Proof.Machine.execVact core unit s
  | .vcvt core unit => Sys2Proof.Machine.execVcvt core unit s
  | .vins core unit => Sys2Proof.Machine.execVins core unit s
  | .vext core unit => Sys2Proof.Machine.execVext core unit s
  | .pacc core unit => Sys2Proof.Machine.execPacc core unit s
  | .rsend core unit => Sys2Proof.Machine.execRsend core unit s
  | .rwait core unit => Sys2Proof.Machine.execRwait core unit s
  | .sapIllegalInstruction core unit => Sys2Proof.Machine.execSapIllegalInstruction core unit s
  | .sapSuspend core unit => Sys2Proof.Machine.execSapSuspend core unit s
  | .sapAtomOverrun core unit age => Sys2Proof.Machine.execSapAtomOverrun core unit age s
  | .reductionStepCombine core grp root => Sys2Proof.Machine.execReductionStepCombine core grp root s
  | .reductionResultArrival core unit => Sys2Proof.Machine.execReductionResultArrival core unit s
  | .reductionStepTimeout core grp => Sys2Proof.Machine.execReductionStepTimeout core grp s
  | .sapCallTimeout core => Sys2Proof.Machine.execSapCallTimeout core s
  | .unitCall o core arg => Sys2Proof.Machine.execUnitCall o core arg s
  | .unitAbort o core arg => Sys2Proof.Machine.execUnitAbort o core arg s
  | .sapClearCounts o core arg => Sys2Proof.Machine.execSapClearCounts o core arg s
  | .suProgDataWrite o core unit val => Sys2Proof.Machine.execSuProgDataWrite o core unit val s
  | .atq core th w => Sys2Proof.Machine.execAtq core th w s
  | .atblk core th w => Sys2Proof.Machine.execAtblk core th w s
  | .atend core th w => Sys2Proof.Machine.execAtend core th w s
  | .atmerge core th w => Sys2Proof.Machine.execAtmerge core th w s
  | .attReadTimeout core => Sys2Proof.Machine.execAttReadTimeout core s
  | .kvappend core th w => Sys2Proof.Machine.execKvappend core th w s
  | .kvcommit core th w => Sys2Proof.Machine.execKvcommit core th w s
  | .kvrollback core th w => Sys2Proof.Machine.execKvrollback core th w s
  | .kvref core th w => Sys2Proof.Machine.execKvref core th w s
  | .kvrelease core th w => Sys2Proof.Machine.execKvrelease core th w s
  | .kvfork core th w => Sys2Proof.Machine.execKvfork core th w s
  | .pfxfind core th w => Sys2Proof.Machine.execPfxfind core th w s
  | .pfxinsert core th w => Sys2Proof.Machine.execPfxinsert core th w s
  | .pfxrelease core th w => Sys2Proof.Machine.execPfxrelease core th w s
  | .pfxEvict site => Sys2Proof.Machine.execPfxEvict site s
  | .kvmReadTimeout core => Sys2Proof.Machine.execKvmReadTimeout core s
  | .pfxReadTimeout core => Sys2Proof.Machine.execPfxReadTimeout core s
  | .attReset o core arg => Sys2Proof.Machine.execAttReset o core arg s
  | .attClearCounts o core arg => Sys2Proof.Machine.execAttClearCounts o core arg s
  | .kvmBuild o site arg => Sys2Proof.Machine.execKvmBuild o site arg s
  | .kvmClearCounts o site arg => Sys2Proof.Machine.execKvmClearCounts o site arg s
  | .pfxBuild o site arg => Sys2Proof.Machine.execPfxBuild o site arg s
  | .pfxFlush o site arg => Sys2Proof.Machine.execPfxFlush o site arg s
  | .pfxClearCounts o site arg => Sys2Proof.Machine.execPfxClearCounts o site arg s
  | .pfxKeyWrite o site n val => Sys2Proof.Machine.execPfxKeyWrite o site n val s
  | .ringFetchBurst core ring => Sys2Proof.Machine.execRingFetchBurst core ring s
  | .ringBurstArrival core ring ok => Sys2Proof.Machine.execRingBurstArrival core ring ok s
  | .stageDesc core ring => Sys2Proof.Machine.execStage core ring s
  | .chain core ring => Sys2Proof.Machine.execChain core ring s
  | .wpre core ring => Sys2Proof.Machine.execWpre core ring s
  | .wpreCompletion core ring seq ok => Sys2Proof.Machine.execWpreCompletion core ring seq ok s
  | .nopDescriptor core ring => Sys2Proof.Machine.execNopDescriptor core ring s
  | .drainDescriptor core ring => Sys2Proof.Machine.execDrainDescriptor core ring s
  | .descriptorCompletion core ring seq => Sys2Proof.Machine.execDescriptorCompletion core ring seq s
  | .layerBarrierComplete core => Sys2Proof.Machine.execLayerBarrierComplete core s
  | .packetRoute pos bad => Sys2Proof.Machine.execPacketRoute pos bad s
  | .rdReq pos => Sys2Proof.Machine.execRdReq pos s
  | .wrReq pos => Sys2Proof.Machine.execWrReq pos s
  | .atomic pos => Sys2Proof.Machine.execAtomic pos s
  | .sigtokPacket pos => Sys2Proof.Machine.execSigtokPacket pos s
  | .regReq pos => Sys2Proof.Machine.execRegReq pos s
  | .rsp pos => Sys2Proof.Machine.execRsp pos s
  | .bulk pos => Sys2Proof.Machine.execBulk pos s
  | .mgmt pos => Sys2Proof.Machine.execMgmt pos s
  | .creditReturn node link vc cls => Sys2Proof.Machine.execCreditReturn node link vc cls s
  | .linkHeartbeatTimeout node link cut => Sys2Proof.Machine.execLinkHeartbeatTimeout node link cut s
  | .expressProbe site peer ok => Sys2Proof.Machine.execExpressProbe site peer ok s
  | .reconStart node link => Sys2Proof.Machine.execReconStart node link s
  | .reconOffer node link => Sys2Proof.Machine.execReconOffer node link s
  | .reconTimeout node link => Sys2Proof.Machine.execReconTimeout node link s
  | .detourRewrite site => Sys2Proof.Machine.execDetourRewrite site s
  | .flitReceive port flit corr unc => Sys2Proof.Machine.execFlitReceive port flit corr unc s
  | .flitSendTimer port => Sys2Proof.Machine.execFlitSendTimer port s
  | .flitGapTimeout port lanes => Sys2Proof.Machine.execFlitGapTimeout port lanes s
  | .boughReconOffer port => Sys2Proof.Machine.execBoughReconOffer port s
  | .boughReconConfirm port => Sys2Proof.Machine.execBoughReconConfirm port s
  | .hello port => Sys2Proof.Machine.execHello port s
  | .boughStartTimeout port => Sys2Proof.Machine.execBoughStartTimeout port s
  | .activationFrame port => Sys2Proof.Machine.execActivationFrame port s
  | .regRd port => Sys2Proof.Machine.execRegRd port s
  | .regWr port => Sys2Proof.Machine.execRegWr port s
  | .regRsp port => Sys2Proof.Machine.execRegRsp port s
  | .frameCredit port => Sys2Proof.Machine.execFrameCredit port s
  | .bghOptWarn port lane tx rx => Sys2Proof.Machine.execBghOptWarn port lane tx rx s
  | .send core th w => Sys2Proof.Machine.execSend core th w s
  | .sendRetry core => Sys2Proof.Machine.execSendRetry core s
  | .bsend core th w => Sys2Proof.Machine.execBsend core th w s
  | .bcred core th w => Sys2Proof.Machine.execBcred core th w s
  | .linkRecon o site arg => Sys2Proof.Machine.execLinkRecon o site arg s
  | .rtrClearCounts o site arg => Sys2Proof.Machine.execRtrClearCounts o site arg s
  | .peerRecon o site arg => Sys2Proof.Machine.execPeerRecon o site arg s
  | .xprClearCounts o site arg => Sys2Proof.Machine.execXprClearCounts o site arg s
  | .linkRetrain o port arg => Sys2Proof.Machine.execLinkRetrain o port arg s
  | .bghClearCounts o port arg => Sys2Proof.Machine.execBghClearCounts o port arg s
  | .remote o port arg => Sys2Proof.Machine.execRemote o port arg s
  | .remoteTimeout port => Sys2Proof.Machine.execRemoteTimeout port s
  | .configRead co => Sys2Proof.Machine.execConfigRead co s
  | .configWrite rid co be4 val => Sys2Proof.Machine.execConfigWrite rid co be4 val s
  | .bar2Read rid bo blen => Sys2Proof.Machine.execBar2Read rid bo blen s
  | .bar2Write rid bo blen be bytes ep => Sys2Proof.Machine.execBar2Write rid bo blen be bytes ep s
  | .bar2Retry wi => Sys2Proof.Machine.execBar2Retry wi s
  | .hifReqTimeoutExpiry wi => Sys2Proof.Machine.execHifReqTimeoutExpiry wi s
  | .doorbellWrite rid mo size val => Sys2Proof.Machine.execDoorbellWrite rid mo size val s
  | .msixTableWrite rid mo size val64 => Sys2Proof.Machine.execMsixTableWrite rid mo size val64 s
  | .hifWinBaseWrite o hi val => Sys2Proof.Machine.execHifWinBaseWrite o hi val s
  | .hotReset down => Sys2Proof.Machine.execHotReset down s
  | .linkUpwardRetrain rate width fm => Sys2Proof.Machine.execLinkUpwardRetrain rate width fm s
  | .cqProdWrite o cq val => Sys2Proof.Machine.execCqProdWrite o cq val s
  | .copyStart cq => Sys2Proof.Machine.execCopyStart cq s
  | .copyCompletion cq => Sys2Proof.Machine.execCopyCompletion cq s
  | .hostReadCompletion cq blen ep => Sys2Proof.Machine.execHostReadCompletion cq blen ep s
  | .hifCplTimeoutExpiry asker inst => Sys2Proof.Machine.execHifCplTimeoutExpiry asker inst s
  | .erConsWrite o ring val => Sys2Proof.Machine.execErConsWrite o ring val s
  | .erProdWrite o ring val => Sys2Proof.Machine.execErProdWrite o ring val s
  | .msixMessage ring => Sys2Proof.Machine.execMsixMessage ring s
  | .getVersion => Sys2Proof.Machine.execGetVersion s
  | .getCapabilities => Sys2Proof.Machine.execGetCapabilities s
  | .negotiateAlgorithms => Sys2Proof.Machine.execNegotiateAlgorithms s
  | .getDigests => Sys2Proof.Machine.execGetDigests s
  | .getCertificate cslot => Sys2Proof.Machine.execGetCertificate cslot s
  | .challenge cslot nonce => Sys2Proof.Machine.execChallenge cslot nonce s
  | .getMeasurements mi signed nonce => Sys2Proof.Machine.execGetMeasurements mi signed nonce s
  | .spdmUnsupportedRequest => Sys2Proof.Machine.execSpdmUnsupportedRequest s
  | .cqReset o arg => Sys2Proof.Machine.execCqReset o arg s
  | .hifLinkRetrain o arg => Sys2Proof.Machine.execHifLinkRetrain o arg s
  | .hifClearCounts o arg => Sys2Proof.Machine.execHifClearCounts o arg s
  | .ptmExchange host delay ok => Sys2Proof.Machine.execPtmExchange host delay ok s
  | .ptmNow o arg => Sys2Proof.Machine.execPtmNow o arg s
  | .freqStep core => Sys2Proof.Machine.execFreqStep core s
  | .clockMonitorWindow kind site idx edges ok => Sys2Proof.Machine.execClockMonitorWindow kind site idx edges ok s
  | .islandClockLost kind site idx ok => Sys2Proof.Machine.execIslandClockLost kind site idx ok s
  | .handshakeTimeout kind site idx ok => Sys2Proof.Machine.execHandshakeTimeout kind site idx ok s
  | .sysrefLost => Sys2Proof.Machine.execSysrefLost s
  | .sysrefReturn diff => Sys2Proof.Machine.execSysrefReturn diff s
  | .refclkLost => Sys2Proof.Machine.execRefclkLost s
  | .timeCorrection dt => Sys2Proof.Machine.execTimeCorrection dt s
  | .freqSet o arg => Sys2Proof.Machine.execFreqSet o arg s
  | .tileReset o arg => Sys2Proof.Machine.execTileReset o arg s
  | .clkClearCounts o arg => Sys2Proof.Machine.execClkClearCounts o arg s
  | .undervoltageWarning a b bus => Sys2Proof.Machine.execUndervoltageWarning a b bus s
  | .brownOut a b bus => Sys2Proof.Machine.execBrownOut a b bus s
  | .pairLost pair a b bus => Sys2Proof.Machine.execPairLost pair a b bus s
  | .overvoltageWarning a b bus => Sys2Proof.Machine.execOvervoltageWarning a b bus s
  | .pairOvervoltage pair a b bus => Sys2Proof.Machine.execPairOvervoltage pair a b bus s
  | .inputConditionRelease cond a b bus => Sys2Proof.Machine.execInputConditionRelease cond a b bus s
  | .powerFail a b bus ok => Sys2Proof.Machine.execPowerFail a b bus ok s
  | .pwrEnLow ok => Sys2Proof.Machine.execPwrEnLow ok s
  | .powerGovernorTick a b bus avg tele => Sys2Proof.Machine.execPowerGovernorTick a b bus avg tele s
  | .fastCut sample => Sys2Proof.Machine.execFastCut sample s
  | .pairOvercurrent ia ib => Sys2Proof.Machine.execPairOvercurrent ia ib s
  | .stageFault stage cause => Sys2Proof.Machine.execStageFault stage cause s
  | .railFault site rail c mv => Sys2Proof.Machine.execRailFault site rail c mv s
  | .telemetryLoss site => Sys2Proof.Machine.execTelemetryLoss site s
  | .stageRestart o arg => Sys2Proof.Machine.execStageRestart o arg s
  | .saveRelease o arg => Sys2Proof.Machine.execSaveRelease o arg s
  | .pwrClearCounts o arg => Sys2Proof.Machine.execPwrClearCounts o arg s
  | .coresApply o site arg => Sys2Proof.Machine.execCoresApply o site arg s
  | .domSet o site arg => Sys2Proof.Machine.execDomSet o site arg s
  | .tpwrClearCounts o site arg => Sys2Proof.Machine.execTpwrClearCounts o site arg s
  | .inputPowerApplied => Sys2Proof.Machine.execInputPowerApplied s
  | .coldStart => Sys2Proof.Machine.execColdStart s
  | .resetNAssert => Sys2Proof.Machine.execResetNAssert s
  | .resetNRelease => Sys2Proof.Machine.execResetNRelease s
  | .perstNAssert => Sys2Proof.Machine.execPerstNAssert s
  | .perstNRelease => Sys2Proof.Machine.execPerstNRelease s
  | .tileWave site bad fail => Sys2Proof.Machine.execTileWave site bad fail s
  | .tileStepTimeout site => Sys2Proof.Machine.execTileStepTimeout site s
  | .thermalHoldRelease => Sys2Proof.Machine.execThermalHoldRelease s
  | .bootWaveStall => Sys2Proof.Machine.execBootWaveStall s
  | .settingsSave o arg => Sys2Proof.Machine.execSettingsSave o arg s
  | .settingsErase o arg => Sys2Proof.Machine.execSettingsErase o arg s
  | .licInstall o arg => Sys2Proof.Machine.execLicInstall o arg s
  | .licCancel o arg => Sys2Proof.Machine.execLicCancel o arg s
  | .licStageClear o arg => Sys2Proof.Machine.execLicStageClear o arg s
  | .scrubGranule core chan e1 e2 bad => Sys2Proof.Machine.execScrubGranule core chan e1 e2 bad s
  | .rowRemap core chan e1 e2 => Sys2Proof.Machine.execRowRemap core chan e1 e2 s
  | .tileRetirement ok => Sys2Proof.Machine.execTileRetirement ok s
  | .coppicePromotion => Sys2Proof.Machine.execCoppicePromotion s
  | .retire o arg => Sys2Proof.Machine.execRetire o arg s
  | .coppice o arg => Sys2Proof.Machine.execCoppice o arg s
  | .remapRow o arg => Sys2Proof.Machine.execRemapRow o arg s
  | .steerWire o arg => Sys2Proof.Machine.execSteerWire o arg s
  | .fusClearCounts o arg => Sys2Proof.Machine.execFusClearCounts o arg s
  | .sensorSample site n mc => Sys2Proof.Machine.execSensorSample site n mc s
  | .haltRelease site q => Sys2Proof.Machine.execHaltRelease site q s
  | .coolantSample k cc opened => Sys2Proof.Machine.execCoolantSample k cc opened s
  | .logicCapTick site => Sys2Proof.Machine.execLogicCapTick site s
  | .canopyModelTick site => Sys2Proof.Machine.execCanopyModelTick site s
  | .flowEstimate ph => Sys2Proof.Machine.execFlowEstimate ph s
  | .flowCapTick => Sys2Proof.Machine.execFlowCapTick s
  | .suddenStopTest => Sys2Proof.Machine.execSuddenStopTest s
  | .flowAutoResume => Sys2Proof.Machine.execFlowAutoResume s
  | .ringCountTick => Sys2Proof.Machine.execRingCountTick s
  | .ringSaveTimer ok => Sys2Proof.Machine.execRingSaveTimer ok s
  | .flowResume o arg => Sys2Proof.Machine.execFlowResume o arg s
  | .ringSave o arg => Sys2Proof.Machine.execRingSave o arg s
  | .modelReset o arg => Sys2Proof.Machine.execModelReset o arg s
  | .thmClearCounts o arg => Sys2Proof.Machine.execThmClearCounts o arg s
  | .ledgerSnapshot late => Sys2Proof.Machine.execLedgerSnapshot late s
  | .ledgerSnapTimeout lp lid => Sys2Proof.Machine.execLedgerSnapTimeout lp lid s
  | .trapService => Sys2Proof.Machine.execTrapService s
  | .firstFaultClear o lp => Sys2Proof.Machine.execFirstFaultClear o lp s
  | .trapClear o arg => Sys2Proof.Machine.execTrapClear o arg s
  | .ldgClearCounts o lp arg => Sys2Proof.Machine.execLdgClearCounts o lp arg s
  | .imageWrite o arg => Sys2Proof.Machine.execImageWrite o arg s
  | .svnCommit o arg => Sys2Proof.Machine.execSvnCommit o arg s
  | .bcastSap o arg => Sys2Proof.Machine.execBcastSap o arg s
  | .bcastAbort o arg => Sys2Proof.Machine.execBcastAbort o arg s
  | .fwuClearCounts o arg => Sys2Proof.Machine.execFwuClearCounts o arg s
  | .bcstClearCounts o site arg => Sys2Proof.Machine.execBcstClearCounts o site arg s
  | .mgtClearCounts o arg => Sys2Proof.Machine.execMgtClearCounts o arg s
  | .chunk site chunk flip => Sys2Proof.Machine.execChunk site chunk flip s
  | .reduce site => Sys2Proof.Machine.execReduce site s
  | .reduceTimeout site => Sys2Proof.Machine.execReduceTimeout site s
  | .broadcastRoundTimeout => Sys2Proof.Machine.execBroadcastRoundTimeout s
  | .prepare site => Sys2Proof.Machine.execPrepare site s
  | .confirm site => Sys2Proof.Machine.execConfirm site s
  | .deny site => Sys2Proof.Machine.execDeny site s
  | .activate site => Sys2Proof.Machine.execActivate site s
  | .bcAbort site => Sys2Proof.Machine.execBcAbort site s
  | .mctpControl bnd mc mcd => Sys2Proof.Machine.execMctpControl bnd mc mcd s
  | .getTid bnd => Sys2Proof.Machine.execGetTid bnd s
  | .setTid bnd tid => Sys2Proof.Machine.execSetTid bnd tid s
  | .getPldmVersion bnd typ => Sys2Proof.Machine.execGetPldmVersion bnd typ s
  | .getPldmTypes bnd => Sys2Proof.Machine.execGetPldmTypes bnd s
  | .getPldmCommands bnd typ => Sys2Proof.Machine.execGetPldmCommands bnd typ s
  | .getSensorReading bnd sid => Sys2Proof.Machine.execGetSensorReading bnd sid s
  | .getStateSensorReadings bnd sid => Sys2Proof.Machine.execGetStateSensorReadings bnd sid s
  | .setNumericEffecterValue bnd sid val => Sys2Proof.Machine.execSetNumericEffecterValue bnd sid val s
  | .getNumericEffecterValue bnd sid => Sys2Proof.Machine.execGetNumericEffecterValue bnd sid s
  | .getPdrRepositoryInfo bnd => Sys2Proof.Machine.execGetPdrRepositoryInfo bnd s
  | .getPdr bnd hdl => Sys2Proof.Machine.execGetPdr bnd hdl s
  | .pollForPlatformEventMessage bnd ack => Sys2Proof.Machine.execPollForPlatformEventMessage bnd ack s
  | .eventMessageBufferSize bnd => Sys2Proof.Machine.execEventMessageBufferSize bnd s
  | .setEventReceiver bnd eid => Sys2Proof.Machine.execSetEventReceiver bnd eid s
  | .getFruRecordTableMetadata bnd => Sys2Proof.Machine.execGetFruRecordTableMetadata bnd s
  | .getFruRecordTable bnd => Sys2Proof.Machine.execGetFruRecordTable bnd s
  | .queryDeviceIdentifiers bnd => Sys2Proof.Machine.execQueryDeviceIdentifiers bnd s
  | .getFirmwareParameters bnd => Sys2Proof.Machine.execGetFirmwareParameters bnd s
  | .requestUpdate bnd => Sys2Proof.Machine.execRequestUpdate bnd s
  | .passComponentTable bnd comp last => Sys2Proof.Machine.execPassComponentTable bnd comp last s
  | .updateComponent bnd comp fsz => Sys2Proof.Machine.execUpdateComponent bnd comp fsz s
  | .requestFirmwareData bnd blen bytes => Sys2Proof.Machine.execRequestFirmwareData bnd blen bytes s
  | .activateFirmware bnd self => Sys2Proof.Machine.execActivateFirmware bnd self s
  | .getStatus bnd => Sys2Proof.Machine.execGetStatus bnd s
  | .cancelUpdateComponent bnd => Sys2Proof.Machine.execCancelUpdateComponent bnd s
  | .cancelUpdate bnd => Sys2Proof.Machine.execCancelUpdate bnd s
  | .pldmUnsupported bnd typ pcmd => Sys2Proof.Machine.execPldmUnsupported bnd typ pcmd s
  | .pldmUpdateTimeout => Sys2Proof.Machine.execPldmUpdateTimeout s
  | .vdmRegRd bnd iana cnt rsv off => Sys2Proof.Machine.execVdmRegRd bnd iana cnt rsv off s
  | .vdmRegWr bnd iana cnt rsv off bytes => Sys2Proof.Machine.execVdmRegWr bnd iana cnt rsv off bytes s
  | .mgtBusTimeout bnd clock => Sys2Proof.Machine.execMgtBusTimeout bnd clock s
  | .jtagTestAccess => Sys2Proof.Machine.execJtagTestAccess s
  | .doeDiscovery di => Sys2Proof.Machine.execDoeDiscovery di s
  | .codewordLock port => Sys2Proof.Machine.execCodewordLock port s
  | .dretNotAccepted core pos => Sys2Proof.Machine.execDretNotAccepted core pos s
  | .stagingFetchTimeout core => Sys2Proof.Machine.execStagingFetchTimeout core s
  | .eyeMarginLow core chan wire eye => Sys2Proof.Machine.execEyeMarginLow core chan wire eye s
  | .opticalEngineOutOfRange port => Sys2Proof.Machine.execOpticalEngineOutOfRange port s
  | .expressLaserOutOfRange site lane => Sys2Proof.Machine.execExpressLaserOutOfRange site lane s
  | .ecrcFailure => Sys2Proof.Machine.execEcrcFailure s
  | .pcieLinkUp rate width fm top => Sys2Proof.Machine.execPcieLinkUp rate width fm top s
  | .refclkReturn => Sys2Proof.Machine.execRefclkReturn s
  | .perstNHoldoffEnd => Sys2Proof.Machine.execPerstNHoldoffEnd s
  | .carrierBusDischarged => Sys2Proof.Machine.execCarrierBusDischarged s
  | .accInstructionComplete core half => Sys2Proof.Machine.execAccInstructionComplete core half s
  | .mvstComplete core => Sys2Proof.Machine.execMvstComplete core s

end Sys2Proof.Machine
end

