-- ==== Sys2Proof/Safety.lean ====
section
/-! DEFINITION. Sys2Proof/Safety.lean: what holds of every state the machine can be brought to: the sparse maps keep their
canonical form, and the journal and the hold store keep their bounds. -/
namespace Sys2Proof.Machine
open Sys2Proof

/-- Memory in its canonical form: addresses strictly rising, no byte 0 listed. -/
def Memory.wf (m : List Host.Cell) : Bool := SMap.wf (fun _ => 0) m

/-- The sparse maps are in canonical form: keys strictly rising, nothing listed that an unlisted key reads as. -/
structure Maps (s : State) : Prop where
  mem : Memory.wf s.mem = true
  host : Memory.wf s.host = true
  regs : SMap.wf RegTable.reset s.regs = true
  poison : SMap.wf (fun _ => false) s.poison = true
  latch : SMap.sorted s.latch = true
  busy : SMap.sorted s.busy = true
  deadWin : SMap.sorted s.deadWin = true
  threads : SMap.wf (fun _ => ({} : Thread)) s.threads = true
  leaf : SMap.wf (fun _ => ({} : Leaf)) s.leaf = true
  tokq : SMap.wf (fun _ => []) s.tokq = true
  stream : SMap.wf (fun _ => ({} : Stream)) s.stream = true
  arr : SMap.wf (fun _ => ({} : Arr)) s.arr = true
  mv : SMap.wf (fun _ => ({} : Mv)) s.mv = true
  dsp : SMap.wf (fun _ => ({} : Dsp)) s.dsp = true
  port : SMap.wf (fun _ => ({} : Port)) s.port = true
  slc : SMap.wf (fun _ => ({} : Slc)) s.slc = true
  sap : SMap.wf (fun _ => ({} : Sap)) s.sap = true
  att : SMap.wf (fun _ => ({} : Att)) s.att = true
  pfx : SMap.wf (fun _ => ({} : Pfx)) s.pfx = true
  rtr : SMap.wf (fun _ => ({} : Rtr)) s.rtr = true
  snd : SMap.wf (fun _ => ({} : Snd)) s.snd = true
  bgh : SMap.wf (fun _ => ({} : Bgh)) s.bgh = true
  bcst : SMap.wf (fun _ => ({} : Rcv)) s.bcst = true
  tth : SMap.wf (fun _ => ({} : Tth)) s.tth = true
  led : SMap.wf (fun _ => 0) s.led = true
  ldg : SMap.wf (fun _ => ({} : Ldg)) s.ldg = true
  cfg : SMap.wf (fun _ => 0) s.cfg = true
  msix : SMap.wf (fun _ => 0) s.msix = true

/-- The bounds of the journal, 65,536 entries allocated and 512 windows open, and of the hold store, 4,096 records (R71, R72,
R484). -/
structure Bounds (s : State) : Prop where
  fill : s.jnl.fill ≤ 65536
  wins : s.jnl.wins.length ≤ 512
  hold : s.evq.hold.length ≤ 4096

/-- The invariant that every step keeps. -/
structure Inv (s : State) : Prop where
  maps : Maps s
  bounds : Bounds s

/-- A thread stands ready to issue the instruction `w` of shape `sh`: power is there and the sparse maps are in canonical form; the
thread may issue, and its fetch is answered with no fault; the condition is met and its register not pending or poison; no
operand bit is malformed, and no register it names is pending (R82, R88 to R90, R95, R98). -/
structure Ready (s : State) (g th w : Nat) (sh : Shape) : Prop where
  core : g < 4096
  thread : th < 64
  maps : Maps s
  power : s.pins.pwrgd = true
  may : mayIssue s g th = true
  fetch : fetchFault s g (thr s g th).pc = none
  cond : fCond w = 0 ∨ (pendOf (thr s g th) [fP w] = [] ∧ (thr s g th).bad (fP w) = false
    ∧ ((fCond w = 1 ∧ (thr s g th).get (fP w) ≠ 0) ∨ (fCond w = 2 ∧ (thr s g th).get (fP w) = 0)))
  form : sh.bad w = false
  regs : pendOf (thr s g th) (sh.uses w) = []

/-- Fault source `n` of a page is not enabled: its raise sets its PG_FLT bit and nothing else (R637). -/
def SourceOff (s : State) (r : Page.Ref) (n : Nat) : Prop := bit (rd s (Page.base r + R.PG_FLT_EN)) n = false
/-- Event bit `b` of a page is not enabled: raising it produces no record (R55). -/
def EventOff (s : State) (r : Page.Ref) (b : Nat) : Prop := bit (rd s (Page.base r + R.PG_EVT_EN)) b = false

/-- Power is there, the sparse maps are in canonical form, and the hold store has room for 64 event records (R485). -/
structure Calm (s : State) : Prop where
  maps : Maps s
  power : s.pins.pwrgd = true
  room : s.evq.hold.length + 64 ≤ 4096

/-- Everything but threads, leaf stores, registers and the management endpoint's record. -/
def exceptThreads (s : State) : State := { s with threads := [], leaf := [], regs := [], mgt := {} }
/-- From `s` to `u`, beside thread `th` of core `g` only what its fetch may change has changed (the core's leaf store, and the counter
of fills that found no line), and the endpoint's look at its sensors. -/
structure ThreadOnly (s u : State) (g th : Nat) : Prop where
  others : ∀ h k, thrKey h k ≠ thrKey g th → thr u h k = thr s h k
  regs : ∀ off, (off < coreB g + R.CORE_CNT_LEAF_HIT ∨ coreB g + R.CORE_CNT_NOALLOC < off) → rd u off = rd s off
  rest : exceptThreads u = exceptThreads s
/-- Thread `th` becomes `x`, and nothing else changes. -/
def Becomes (s u : State) (g th : Nat) (x : Thread) : Prop := thr u g th = x ∧ ThreadOnly s u g th

/-- A command answers a next state of which `P` holds. -/
def Completes (i : Instr) (s : State) (P : State → Prop) : Prop := ∃ t, exec i s = .next t ∧ P t

/-- A write of origin `o` is carried out as it comes, with room for `n` journal entries: power-fail has not begun, nothing that it must
wait behind is held or waits, and the journal has the room (R66, R75, R470, R533). -/
structure Free (s : State) (o : Origin) (n : Nat) : Prop where
  saved : fld s (Page.trunk .PWR + R.PWR_STATE) 4 4 = 0
  first : mustWait s o = false
  host : o.cls = 0 → hostBlocked s = false
  room : jRoom s o.cls n = true

/-- A command `op` with argument `arg` is accepted by page `r`: the page has commands, and the write of PG_CMD is carried out as it comes
and judged legal (R59 to R62). -/
structure Accepted (s : State) (o : Origin) (r : Page.Ref) (op arg : Nat) : Prop where
  calm : Calm s
  free : Free s o 1
  code : op < 256
  page : Page.ofOff (Page.base r) = some r
  cmds : Page.hasCmd r.t = true
  legal : judgeCmd s r (arg * 256 + op) = .accept

/-- The journal entry of a register write whose change took effect, single or half of a pair (R67). -/
def changeEntry (s : State) (o : Origin) (off val : Nat) (pair : Bool) : JEntry :=
  { entryOf s o off (rd s off) val 0 pair with seq := nextSeq s }

/-- An accepted command has been journaled and shows in PG_CMD and, with status `st`, in PG_CMD_STATUS (R53, R59, R60). -/
structure Taken (s u : State) (o : Origin) (r : Page.Ref) (op arg st : Nat) : Prop where
  cmd : rd u (Page.base r + R.PG_CMD) = (arg * 256 + op) % 2 ^ 32
  status : rd u (Page.base r + R.PG_CMD_STATUS) = statusWord o op st
  entry : ∃ l, u.jnl.store = s.jnl.store ++ changeEntry s o (Page.base r + R.PG_CMD) (arg * 256 + op) false :: l

/-- What the journal, the event queues, the fault collectors and the endpoint keep is taken out of sight. -/
def blank (s : State) : State :=
  { s with regs := [], jnl := {}, evq := {}, flt := {}, led := [], host := [], out := [], mgt := {} }
/-- Beside what `f` takes out of sight, and the registers of the pages `p` and of JNL, EVQ, DFLT and HIF, nothing has changed but what
`blank` names. -/
structure Apart (f : State → State) (p : List Page.Ref) (s u : State) : Prop where
  rest : f (blank u) = f (blank s)
  regs : ∀ a, a / 0x1000 ∉ (p ++ [trunkRef .JNL, trunkRef .EVQ, trunkRef .DFLT, trunkRef .HIF]).map pageNo → rd u a = rd s a
/-- The held state number of a page, PG_STATE.state (R53). -/
def heldState (s : State) (r : Page.Ref) : Nat := fld s (Page.base r + R.PG_STATE) 3 0

/-- Thread `th` of core `g` becomes `x`; beside it and the core's leaf store, nothing changes but the core's page and what `Apart` leaves
out. -/
structure Issued (s u : State) (g th : Nat) (x : Thread) : Prop where
  self : thr u g th = x
  others : ∀ h k, thrKey h k ≠ thrKey g th → thr u h k = thr s h k
  leafs : ∀ h, h ≠ g → leafOf u h = leafOf s h
  apart : Apart (fun x => { x with threads := [], leaf := [] }) [⟨.CORE, g⟩] s u

/-- A thread's own error where its source is not enabled: THR_FINFO names it, and the thread is in T_FAULT (R82, R128). -/
def Thread.failed (t : Thread) (src detail : Nat) : Thread :=
  { t with state := tFAULT, wait := .none, finfoSrc := src, finfoDetail := detail % 2 ^ 24, ra := none }

/-- No request of a thread waits to be sent over the fabric. -/
def NoneUnsent (g : Nat) (t : Thread) : Prop := ∀ m ∈ t.slots, remoteOp g m = false ∨ m.tag.isSome = true
/-- The core's attention unit, KV port and send port hold nothing. -/
def PortsIdle (s : State) (g : Nat) : Prop := attOf s g = {} ∧ sndOf s g = {}

/-- What the engines of a core hold: the matrix array, the MV path, the score unit and KV port, the dispatch port, the sap units and the send
port. -/
structure Engines where
  arr : Arr
  mv : Mv
  att : Att
  port : Port
  sap : Sap
  snd : Snd
/-- The engines of core `g`. -/
def enginesOf (s : State) (g : Nat) : Engines := ⟨arrOf s g, mvOf s g, attOf s g, portOf s g, sapOf s g, sndOf s g⟩
/-- Threads, leaf stores and engines taken out of sight. -/
def exceptEngines (x : State) : State := { x with threads := [], leaf := [], arr := [], mv := [], att := [], port := [], sap := [], snd := [] }
/-- Thread `th` of core `g` becomes `x` and the core's engines hold `y`; beside them, the core's leaf store and the pages `p`, nothing changes. -/
structure Handed (s u : State) (g th : Nat) (x : Thread) (y : Engines) (p : List Page.Ref) : Prop where
  self : thr u g th = x
  engines : enginesOf u g = y
  others : ∀ h k, thrKey h k ≠ thrKey g th → thr u h k = thr s h k
  elsewhere : ∀ h, h ≠ g → leafOf u h = leafOf s h ∧ enginesOf u h = enginesOf s h
  apart : Apart exceptEngines p s u

/-- Unit `k` of core `g` may issue, and stands at a legal micro-instruction of opcode `op` whose word is whole (R305, R310, R675). -/
structure AtMicro (s : State) (g k op : Nat) : Prop where
  calm : Calm s
  core : g < 4096
  unit : k < 8
  may : unitMay s g k = true
  whole : (unitOf s g k).bad.contains (unitOf s g k).pc = false
  word : sOp (unitOf s g k).word = op
  legal : sLegal (unitOf s g k).word = true
/-- Of a core's sap, nothing but unit `k` has changed; beside it, no core's, and what `Apart` leaves out. -/
structure UnitOnly (s u : State) (g k : Nat) (p : List Page.Ref) : Prop where
  units : ∀ j, j ≠ k → unitOf u g j = unitOf s g j
  rest : { sapOf u g with units := [] } = { sapOf s g with units := [] }
  cores : ∀ h, h ≠ g → sapOf u h = sapOf s h
  apart : Apart (fun x => { x with sap := [] }) p s u
/-- Unit `k` goes on behind its word with x[d] = v, poison or not, x0 discarding; its other registers are as they were (R302, R319). -/
structure SetsX (s u : State) (g k d v : Nat) (pz : Bool) : Prop where
  value : ∀ r, (unitOf u g k).gx r = if r = d ∧ d ≠ 0 then v else (unitOf s g k).gx r
  tag : ∀ r, (unitOf u g k).px r = if r = d ∧ d ≠ 0 then pz else (unitOf s g k).px r
  rest : { unitOf u g k with x := [], xpz := [] } = { (unitOf s g k).next with x := [], xpz := [] }
  only : UnitOnly s u g k []
/-- Unit `k` goes on behind its word with v[d] = v, poison or not; its other registers are as they were (R302, R319). -/
structure SetsV (s u : State) (g k d v : Nat) (pz : Bool) : Prop where
  value : ∀ r, (unitOf u g k).gv r = if r = d then v % 2 ^ 512 else (unitOf s g k).gv r
  tag : ∀ r, (unitOf u g k).pv r = if r = d then pz else (unitOf s g k).pv r
  rest : { unitOf u g k with v := [], vpz := [] } = { (unitOf s g k).next with v := [], vpz := [] }
  only : UnitOnly s u g k []

end Sys2Proof.Machine
end

