-- ==== Sys2Proof/Certificates/Slice0/Obligations.lean ====
section
/-! DEFINITION. Sys2Proof/Certificates/Slice0/Obligations.lean: the statements for the provers, one definition each. The invariant of the
machine and the conditions the statements name (Calm, Accepted, Free, Ready, Apart and the rest) are in Sys2Proof/Safety.lean. -/
open Sys2Proof Sys2Proof.Machine

/-- A step takes the command at the front of the queue and carries it out on the state with the queue's rest; with nothing waiting the
block idles (log 2).
Choices of the model: log 2. -/
def Obligations.StepRunsFront : Prop :=
  ∀ (s : State) (i : Instr) (rest : List Instr),
    (s.pending = i :: rest → step s = exec i { s with pending := rest }) ∧ (s.pending = [] → step s = .next s)

/-- The invariant holds at reset: every sparse map is in canonical form, and the journal and the hold store are within their bounds.
Choices of the model: log 21, log 22, log 34. -/
def Obligations.ResetInv : Prop :=
  Inv State.reset

/-- Every step keeps the invariant: the sparse maps stay in canonical form, the journal stays within its 65,536 entries and 512 windows (R71,
R72), and the hold store within its 4,096 records (R484). -/
def Obligations.StepKeepsInv : Prop :=
  ∀ (s t : State), Inv s → step s = .next t → Inv t

/-- Every command answers a next state, in every state, and leaves the queue as it is; without power (PWRGD low) nothing but the power and
reset inputs and the bus's discharge does anything.
Choices of the model: log 5. -/
def Obligations.EveryCommandAnswers : Prop :=
  (∀ (i : Instr) (s : State), ∃ t, exec i s = .next t ∧ t.pending = s.pending)
  ∧ ∀ (i : Instr) (s : State), s.pins.pwrgd = false →
    i ∉ [.inputPowerApplied, .coldStart, .pwrEnLow true, .pwrEnLow false, .carrierBusDischarged, .resetNAssert, .resetNRelease, .perstNAssert, .perstNRelease, .perstNHoldoffEnd] →
    exec i s = .next s

/-- R59: START, DRAIN, HALT, RESUME and CLEAR_FAULT. Of the pages whose START and RESUME set queued work going, the clause is about those
with nothing queued.
Choices of the model: log 9. -/
def Obligations.CommonCommands : Prop :=
  ∀ (s : State) (o : Origin) (r : Page.Ref) (arg : Nat),
    let still : Prop := s.arr = [] ∧ s.mv = [] ∧ s.att = [] ∧ s.port = [] ∧ ∀ e ∈ s.threads, e.2.wait ≠ .queue 4 ∧ e.2.wait ≠ .queue 7
    let idle : Prop := r.t = .MXU ∨ r.t = .DSP ∨ r.t = .KVM ∨ r.t = .PFX → still
    (Accepted s o r 2 arg → r.t ≠ .BGH → idle → (r.t = .JNL → rd64 s (jnlB + R.JNL_RING_BASE_LO) ≠ 0 ∧ rd64 s (jnlB + R.JNL_CONS_ADDR_LO) ≠ 0) →
      Completes (.start o (pageNo r) arg) s (fun u => Taken s u o r 2 arg 1 ∧ heldState u r = stRUN))
    ∧ (Accepted s o r 2 arg → r.t = .JNL → rd64 s (jnlB + R.JNL_RING_BASE_LO) = 0 →
      Completes (.start o (pageNo r) arg) s (fun u => Taken s u o r 2 arg 7 ∧ heldState u r = heldState s r))
    ∧ (Accepted s o r 3 arg → Completes (.drain o (pageNo r) arg) s (fun u =>
        Taken s u o r 3 arg 2 ∧ heldState u r = stDRAIN ∧ (SMap.find (Page.base r) u.busy).isSome = true ∧ Apart (fun x => { x with busy := [] }) [r] s u))
    ∧ (Accepted s o r 4 arg → Completes (.halt o (pageNo r) arg) s (fun u =>
        Taken s u o r 4 arg 2 ∧ heldState u r = heldState s r ∧ (r.t = .CORE → ∀ th, th < 64 → thr u r.inst th = (thr s r.inst th).stopped)))
    ∧ (Accepted s o r 5 arg → idle → Completes (.resume o (pageNo r) arg) s (fun u => Taken s u o r 5 arg 1 ∧ heldState u r = stRUN))
    ∧ (Accepted s o r 6 arg → r.t ≠ .BGH → Completes (.clearFault o (pageNo r) arg) s (fun u =>
        Taken s u o r 6 arg 1 ∧ heldState u r = idleOf r.t ∧ (r.t = .CORE → ∀ th, th < 64 → thr u r.inst th = (thr s r.inst th).freed)))

/-- R59, R60, R62: RESET takes the block to RESET, its status BUSY, and aborts a command in progress; a block in RESET forgets what reads
had latched of its pairs (R50).
R60, R64: a waits command that may end, ends DONE: it is no longer in progress, and a RESET leaves the block in IDLE, or RUN where the
page does not use IDLE (R709); a DRAIN that has drained does the same; a HALT leaves it in HALT.
Choices of the model: log 9, log 12. -/
def Obligations.ResetAndCommandEnds : Prop :=
  (∀ (s : State) (o : Origin) (r : Page.Ref) (arg : Nat), Accepted s o r 1 arg → SourceOff s ⟨.EVQ, 0⟩ 0 →
    Completes (.reset o (pageNo r) arg) s (fun u =>
      rd u (Page.base r + R.PG_CMD) = 1 ∧ rd u (Page.base r + R.PG_CMD_STATUS) = statusWord o 1 2 ∧ heldState u r = stRESET
      ∧ (SMap.find (Page.base r) u.busy).map (·.op) = some 1
      ∧ (heldState s r ≠ stRESET → ∀ e ∈ u.latch, e.1 / 65536 / 0x1000 ≠ pageNo r)))
  ∧ (∀ (s : State) (r : Page.Ref) (b : Busy), Calm s → Page.ofOff (Page.base r) = some r → SMap.find (Page.base r) s.busy = some b →
    (((cmdsOf r.t).find? (fun d => d.op = b.op)).any (fun d => d.ready s r b.arg)) = true →
    let ends (st : Nat) : Prop := Completes (.commandCompletion (pageNo r) true) s (fun u =>
      fld u (Page.base r + R.PG_CMD_STATUS) 7 0 = 1 ∧ SMap.find (Page.base r) u.busy = none ∧ heldState u r = st)
    (b.op = 1 → r.t ∉ [.TILE, .BGH] → ends (idleOf r.t))
    ∧ (b.op = 3 → r.t ∉ [.BGH] → ends (idleOf r.t))
    ∧ (b.op = 4 → ends stHALT))

/-- R49, R53, R66, R67: a write that is judged to apply changes the register, in one step with its journal entry and PG_LASTCHG; a
refused one changes nothing and is journaled with its reason; R70: the first write of a flow-class register opens a window. The pages
left out act on some of their own registers after the write; their rows have statements of their own.
Choices of the model: log 9, log 10, log 11. -/
def Obligations.RegisterWrites : Prop :=
  ∀ (s : State) (o : Origin) (off size val : Nat) (r : Page.Ref), Calm s → Free s o 1 → Page.ofOff off = some r →
    r.t ∉ [.CORE, .SAP, .EVQ, .TFLT, .DFLT] →
    let run (P : State → Prop) : Prop := Completes (.registerWrite o off size val) s P
    (∀ new, judge s o off size val = .apply new → isFlow off = false → run (fun u => rd u off = new % 2 ^ 32
      ∧ u.jnl.store = s.jnl.store ++ [changeEntry s o off val false] ∧ rd u (Page.base r + R.PG_LASTCHG) = nextSeq s
      ∧ rd u (jnlB + R.JNL_NEXT_SEQ) = seqAfter (nextSeq s) ∧ Apart id [r] s u))
    ∧ (∀ new, judge s o off size val = .apply new → isFlow off = true → (∀ w ∈ s.jnl.wins, w.off ≠ off) → s.jnl.wins.length < 512 →
      run (fun u => rd u off = new % 2 ^ 32 ∧ u.jnl.store = s.jnl.store
        ∧ u.jnl.wins = s.jnl.wins ++ [{ off := off, org := orgWord o, chan := if o.cls = 4 then o.chan else 0, time := s.now, old := val, new := val, count := 1 }]))
    ∧ (∀ reason, judge s o off size val = .refuse reason → run (fun u =>
        u.jnl.store = s.jnl.store ++ [{ entryOf s o off (rd s off) val reason false with seq := nextSeq s }]
        ∧ (r.t ∉ [.JNL, .HIF] → R.PG_FLT ≤ off % 0x1000 → rd u off = rd s off) ∧ Apart id [r] s u))

/-- R48: a register read of a width other than 32 bits, or not aligned, completes with all bytes 0 and raises ACCESS_REFUSED where its page has
events; a write of such a width or alignment is refused with reason 7, "size or alignment", and changes no register. -/
def Obligations.AccessSize : Prop :=
  ∀ (s : State) (o : Origin) (off size val : Nat), Calm s → (size ≠ 4 ∨ off % 4 ≠ 0) →
    ((o.cls = 0 → hostBlocked s = false ∧ hostHeld s = false) → Completes (.misalignedRead o off size) s (fun u =>
      (∃ l, u.out = s.out ++ .regRead o off 0 :: l) ∧ u.jnl = s.jnl
      ∧ ∀ r, Page.ofOff off = some r → Page.hasEvt r.t = true → bit (rd u (Page.base r + R.PG_EVT)) 29 = true))
    ∧ (Free s o 1 → Completes (.registerWrite o off size val) s (fun u =>
        u.jnl.store = s.jnl.store ++ [{ entryOf s o off (rd s off) val 7 false with seq := nextSeq s }]
        ∧ Apart id ((Page.ofOff off).elim [] (fun r => [r])) s u
        ∧ ∀ r, Page.ofOff off = some r → r.t ∉ [.JNL, .HIF, .EVQ] → ∀ a, a / 0x1000 = pageNo r → R.PG_FLT ≤ a % 0x1000 → rd u a = rd s a))

/-- R50, R52: a read of _LO latches the _HI half for its origin; an RC
field reads its value and is then 0, with no journal entry. The host's reads are those nothing holds back (R470).
Choices of the model: log 10, log 58. -/
def Obligations.RegisterReads : Prop :=
  ∀ (s : State) (o : Origin) (off : Nat), Calm s → (o.cls = 0 → hostBlocked s = false ∧ hostHeld s = false) →
    (∀ (r : Page.Ref) (d : RegDef), Page.ofOff off = some r → RegTable.find r.t (off % 0x1000) = some d → off % 4 = 0 →
        answers s r = true → hidden r.t (off % 0x1000) = false → r.t ≠ .HIF →
        (d.pair = 1 → Completes (.pairLoRead o off) s (fun u => u.out = s.out ++ [.regRead o off (readReg s off)]
          ∧ SMap.find (latchKey o (off + 4)) u.latch = some (BitVec.ofNat 32 (readReg s (off + 4))) ∧ u.jnl = s.jnl))
        ∧ (off % 0x1000 = R.PG_EVT_CNT → Completes (.rcFieldRead o off) s (fun u => u.out = s.out ++ [.regRead o off (readReg s off)]
          ∧ rd u off = 0 ∧ u.jnl = s.jnl)))

/-- R51: a write of _LO is staged and changes no register; the write of _HI that follows applies both halves as one change with two
entries, the staged half gone; a _LO that nothing follows within 1 ms is discarded and refused with reason 8.
Choices of the model: log 10, log 11. -/
def Obligations.PairWrites : Prop :=
  ∀ (s : State) (o : Origin) (off val : Nat), Calm s → Free s o 2 →
    (judge s o off 4 val = .stage → stagedAt s o off = none → Completes (.pairLoWrite o off val) s (fun u =>
      u.staged = s.staged ++ [{ org := orgWord o, off := off, val := val, time := s.now }] ∧ u.jnl = s.jnl
      ∧ (o.cls ≠ 0 → u.regs = s.regs)))
    ∧ (∀ lo hi, judge s o off 4 val = .applyPair lo hi → Completes (.pairHiWrite o off val) s (fun u =>
        rd u (off - 4) = lo % 2 ^ 32 ∧ rd u off = hi % 2 ^ 32
        ∧ u.staged = s.staged.filter (fun x => !(x.org = orgWord o && x.off = off - 4))
        ∧ u.jnl.store = s.jnl.store ++ [changeEntry s o (off - 4) ((stagedAt s o (off - 4)).elim lo (·.val)) true,
            { entryOf s o off (rd s off) val 0 true with seq := seqAfter (nextSeq s) }]))
    ∧ (∀ x, stagedAt s o off = some x → x.time + 1000000 ≤ s.now → Completes (.pairStageExpiry o off) s (fun u =>
        u.staged = s.staged.filter (fun x => !(x.org = orgWord o && x.off = off))
        ∧ u.jnl.store = s.jnl.store ++ [{ entryOf s o off (rd s off) x.val 8 false with seq := nextSeq s }]
        ∧ ∀ r, Page.ofOff off = some r → Apart (fun x => { x with staged := [] }) [r] s u))

/-- R70, R73, R78: windows close at 1 ms with the entry of their first time and last value; a burst writes the oldest entries to the host's
ring and moves the indices; the consumer count is read again while the ring is full; FLUSH_WINDOWS and CLEAR_COUNTS.
R75: a held write applies once there is an entry for it, and the hold is over; after JNL_HOLD_LIMIT a write that still finds none is
refused and counted; refusal ends with one gap entry.
Choices of the model: log 11. -/
def Obligations.JournalRing : Prop :=
  (∀ (s : State) (o : Origin) (n arg : Nat), Calm s → s.jnl.fill ≤ 65536 →
    let cons := hostNum s (rd64 s (jnlB + R.JNL_CONS_ADDR_LO)) 4
    let prod := rd s (jnlB + R.JNL_RING_PROD)
    let k := min (min n (jnlRing s - jnlAhead s cons)) s.jnl.store.length
    (∀ (w : Win) (l : List Win), s.jnl.wins = w :: l → (∀ x ∈ l, x.off ≠ w.off) → w.org = orgWord o → w.time + 1000000 ≤ s.now →
      Completes (.coalesceWindowExpiry o w.off) s (fun u => u.jnl.wins = l
        ∧ u.jnl.store = s.jnl.store ++ [{ winEntry w with seq := nextSeq s }] ∧ ∀ r, Page.ofOff w.off = some r → Apart id [r] s u))
    ∧ (jnlDrains s = true → s.jnl.store ≠ [] → jnlAhead s cons ≤ jnlRing s → Completes (.jnlRingBurst n true) s (fun u =>
        u.jnl.store = s.jnl.store.drop k ∧ rd u (jnlB + R.JNL_RING_PROD) = (prod + k) % 2 ^ 32 ∧ rd u (jnlB + R.JNL_RING_CONS) = cons
        ∧ (∀ e ∈ s.jnl.store.head?, k = 1 → rd u (jnlB + R.JNL_DRAINED_SEQ) = e.seq % 2 ^ 32
          ∧ hostBytes u (rd64 s (jnlB + R.JNL_RING_BASE_LO) + prod % jnlRing s * 32) 32 = e.bytes)))
    ∧ (jnlDrains s = true → jnlAhead s (rd s (jnlB + R.JNL_RING_CONS)) = jnlRing s → jnlAhead s cons ≤ jnlRing s →
        Completes (.jnlConsPoll true) s (fun u => rd u (jnlB + R.JNL_RING_CONS) = cons ∧ u.jnl = s.jnl))
    ∧ (Accepted s o ⟨.JNL, 0⟩ 0x10 arg → Completes (.flushWindows o arg) s (fun u => Taken s u o ⟨.JNL, 0⟩ 0x10 arg 2
        ∧ u.jnl.wins = [] ∧ u.jnl.store.length = s.jnl.store.length + 1 + s.jnl.wins.length))
    ∧ (Accepted s o ⟨.JNL, 0⟩ 0x11 arg → Completes (.jnlClearCounts o arg) s (fun u => Taken s u o ⟨.JNL, 0⟩ 0x11 arg 2
        ∧ rd u (jnlB + R.JNL_HOLDS) = 0 ∧ rd u (jnlB + R.JNL_HOLD_MAX) = 0)))
  ∧ (∀ (s : State), Calm s →
    (∀ (o : Origin) (off val new t : Nat) (r : Page.Ref), s.jnl.bp.held = [.reg o off 4 val] → s.jnl.bp.holdAt = some t → s.hif.waiting = [] →
      jRoom s o.cls 1 = true → judge s o off 4 val = .apply new → isFlow off = false → Page.ofOff off = some r →
      r.t ∉ [.CORE, .SAP, .EVQ, .TFLT, .DFLT] →
      Completes .jnlHeldWriteApply s (fun u => u.jnl.bp.held = [] ∧ u.jnl.bp.holdAt = none ∧ rd u off = new % 2 ^ 32
        ∧ u.jnl.store = s.jnl.store ++ [changeEntry s o off val false]))
    ∧ (∀ (w : WReq) (t : Nat), s.jnl.bp.held = [w] → s.jnl.bp.holdAt = some t → s.jnl.bp.refusing = false → s.hif.waiting = [] →
      t + 1000000 * fld s (jnlB + R.JNL_HOLD_LIMIT) 3 0 ≤ s.now → (need s w).2 ≠ 0 → jRoom s (need s w).1.cls (need s w).2 = false →
      Completes .jnlHoldLimitExpiry s (fun u => u.jnl.bp = { refusing := true, epCount := 1, epAt := t, epBefore := rd s (jnlB + R.JNL_REFUSED) }
        ∧ rd u (jnlB + R.JNL_REFUSED) = satAdd (rd s (jnlB + R.JNL_REFUSED)) 1 ∧ u.jnl.store = s.jnl.store))
    ∧ (s.jnl.bp.refusing = true → s.jnl.fill + 1024 ≤ 64512 → Completes .jnlRefusalEnd s (fun u =>
        u.jnl.bp.refusing = false ∧ u.jnl.bp.epCount = 0 ∧ u.jnl.store = s.jnl.store ++ [{ seq := nextSeq s, time := s.now, org := 0x6006, flags := jFlags 0 false 9 false true, off := 0x08003000, old := s.jnl.bp.epBefore, new := rd s (jnlB + R.JNL_REFUSED), count := s.jnl.bp.epCount }])))

/-- R77, R510: CHIP_RESET frees every thread, empties every queue, initialises device memory, clears the MSI-X table and records its cause;
JNL keeps its entries, the command's own among them (R77). R76: when Xazara has stopped, TRK_FW_STATE shows it and TRK raises its source.
Choices of the model: log 12, log 21, log 22, log 24, log 70. -/
def Obligations.ChipReset : Prop :=
  ∀ (s : State) (o : Origin) (arg : Nat),
    (Accepted s o ⟨.TRK, 0⟩ 0x10 arg → s.jnl.bp.held = [] → Completes (.chipReset o arg) s (fun u => u.threads = [] ∧ u.tokq = [] ∧ u.arr = [] ∧ u.mv = []
      ∧ u.sap = [] ∧ u.fab.pkts = [] ∧ u.mem = [] ∧ u.poison = [] ∧ u.staged = [] ∧ u.msix = []
      ∧ rd u (Page.trunk .TRK + R.TRK_RESET_CAUSE) = resetCause s 8
      ∧ ∃ l, u.jnl.store = s.jnl.store ++ changeEntry s o (Page.trunk .TRK + R.PG_CMD) (arg * 256 + 0x10) false :: l))
    ∧ (Calm s → fld s (Page.trunk .TRK + R.TRK_FW_STATE) 7 0 = 2 → SourceOff s ⟨.TRK, 0⟩ 0 → Completes .trkFwStopped s (fun u =>
        fld u (Page.trunk .TRK + R.TRK_FW_STATE) 7 0 = 4 ∧ bit (rd u (Page.trunk .TRK + R.PG_FLT)) 0 = true ∧ Apart id [⟨.TRK, 0⟩] s u))
    ∧ (Calm s → fld s (Page.trunk .TRK + R.TRK_FW_STATE) 7 0 = 2 → ¬ SourceOff s ⟨.TRK, 0⟩ 0 → routeMask s (Page.trunk .TRK) 0 = 1 →
        heldState s ⟨.TRK, 0⟩ = stRUN → fld s (dfltB + R.TFLT_FIRST) 31 31 = 0 → Completes .trkFwStopped s (fun u =>
        bit (rd u (Page.trunk .TRK + R.PG_FLT)) 0 = true ∧ heldState u ⟨.TRK, 0⟩ = stFAULT
        ∧ rd u (dfltB + R.TFLT_FIRST) = 2 ^ 31 + pageNo ⟨.TRK, 0⟩ ∧ rd64 u (dfltB + R.TFLT_FIRST_T_LO) = s.now % 2 ^ 64))

/-- R103: the integer instructions, over 64-bit words: rd takes f(s[ra], s[rb] + imm33), poison where an operand is poison; nothing else
changes but the PC.
R103, R100: MOVI, MOVHI and RDSYS; the cycle count is a value that the model leaves free (log 3, 28).
Choices of the model: log 3, log 6, log 14, log 28. -/
def Obligations.IntegerInstructions : Prop :=
  (∀ (s : State) (g th w : Nat), Ready s g th w shA →
    let t := thr s g th
    let a : BitVec 64 := BitVec.ofNat 64 (t.get (f2 w))
    let b : BitVec 64 := BitVec.ofNat 64 (t.get (f3 w)) + BitVec.signExtend 64 (BitVec.ofNat 33 w)
    let gives (i : Instr) (v : BitVec 64) : Prop :=
      Completes i s (fun u => Becomes s u g th (t.put (f1 w) v.toNat (t.bad (f2 w) || t.bad (f3 w))).next)
    let flag (c : Bool) : BitVec 64 := if c then 1 else 0
    gives (.add g th w) (a + b) ∧ gives (.sub g th w) (a - b) ∧ gives (.mul g th w) (a * b)
    ∧ gives (.andI g th w) (a &&& b) ∧ gives (.orI g th w) (a ||| b) ∧ gives (.xorI g th w) (a ^^^ b)
    ∧ gives (.shl g th w) (a <<< (b.toNat % 64)) ∧ gives (.shr g th w) (a >>> (b.toNat % 64))
    ∧ gives (.sar g th w) (a.sshiftRight (b.toNat % 64))
    ∧ gives (.slt g th w) (flag (a.slt b)) ∧ gives (.sltu g th w) (flag (a.ult b)) ∧ gives (.seq g th w) (flag (a == b))
    ∧ gives (.minu g th w) (if a.ult b then a else b))
  ∧ (∀ (s : State) (g th w : Nat),
    let t := thr s g th
    let sel := (BitVec.ofNat 64 (t.get (f3 w)) + BitVec.signExtend 64 (BitVec.ofNat 33 w)).toNat
    (Ready s g th w shI → Completes (.movi g th w) s (fun u =>
      Becomes s u g th (t.put (f1 w) (BitVec.signExtend 64 (BitVec.ofNat 43 w)).toNat false).next))
    ∧ (Ready s g th w shHi → Completes (.movhi g th w) s (fun u =>
      Becomes s u g th (t.put (f1 w) (t.get (f1 w) % 2 ^ 43 + w % 2 ^ 21 * 2 ^ 43) (t.bad (f1 w))).next))
    ∧ (Ready s g th w shSys → t.bad (f3 w) = false →
      (∀ v, (sel, v) ∈ [(0, th), (1, g), (2, g / 64), (3, s.now), (5, scratchSize s g)] →
        Completes (.rdsys g th w) s (fun u => Becomes s u g th (t.put (f1 w) v false).next))
      ∧ (sel = 4 → Completes (.rdsys g th w) s (fun u => ∃ v, thr u g th = (t.put (f1 w) v false).next))))

/-- R80: s0 reads 0 and discards what is written to it; a written register reads back modulo 2^64 with its poison tag, and no other register
changes. -/
def Obligations.StageRegisters : Prop :=
  ∀ (t : Thread) (r v q : Nat) (pz : Bool),
    t.get 0 = 0 ∧ t.bad 0 = false ∧ t.put 0 v pz = t
    ∧ (r ≠ 0 → (t.put r v pz).get r = v % 2 ^ 64 ∧ (t.put r v pz).bad r = pz)
    ∧ (q ≠ r → (t.put r v pz).get q = t.get q ∧ (t.put r v pz).bad q = t.bad q)
    ∧ (SMap.wf (fun _ => (0 : DWord)) t.regs = true → SMap.wf (fun _ => (0 : DWord)) (t.put r v pz).regs = true)

/-- R99: NOP, YIELD, BR, JR, CALL and LOOP.
Choices of the model: log 6, log 14. -/
def Obligations.ControlTransfers : Prop :=
  ∀ (s : State) (g th w : Nat),
    let t := thr s g th
    let off : BitVec 64 := 8 * BitVec.signExtend 64 (BitVec.ofNat 38 w)
    let goTo (x : Thread) : Thread := { x with pc := (BitVec.ofNat 64 t.pc + off).toNat }
    let count := (BitVec.ofNat 64 (t.get (f1 w)) - 1).toNat
    (Ready s g th w shZero → Completes (.nop g th w) s (fun u => Becomes s u g th t.next) ∧ Completes (.yield g th w) s (fun u => Becomes s u g th t.next))
    ∧ (Ready s g th w shC → Completes (.br g th w) s (fun u => Becomes s u g th (goTo t)))
    ∧ (Ready s g th w shCa → t.bad (f1 w) = false →
      Completes (.jr g th w) s (fun u => Becomes s u g th { t with pc := (BitVec.ofNat 64 (t.get (f1 w)) + off).toNat })
      ∧ Completes (.loop g th w) s (fun u =>
          Becomes s u g th (if count = 0 then (t.put (f1 w) 0 false).next else goTo (t.put (f1 w) count false))))
    ∧ (Ready s g th w shCall → Completes (.call g th w) s (fun u => Becomes s u g th (goTo (t.put 31 ((t.pc + 8) % 2 ^ 64) false))))

/-- R88, R89, R90: an instruction whose condition is not met only advances the PC; a condition or an operand that is pending makes the thread
wait for the data; malformed operand bits and condition code 3 are CORE_illegal. Shown of ADD and FENCE.
Choices of the model: log 6, log 14. -/
def Obligations.ConditionAndHazards : Prop :=
  ∀ (s : State) (g th w w0 : Nat), Ready s g th w0 shC →
    let t := thr s g th
    (fCond w = 1 ∧ t.get (fP w) = 0 ∨ fCond w = 2 ∧ t.get (fP w) ≠ 0 → pendOf t [fP w] = [] → t.bad (fP w) = false →
      Completes (.add g th w) s (fun u => Becomes s u g th t.next))
    ∧ (fCond w = 0 → pendOf t [f1 w, f2 w, f3 w] ≠ [] → Completes (.add g th w) s (fun u =>
        Becomes s u g th { t with state := tWDATA, wait := .data (pendOf t [f1 w, f2 w, f3 w]) }))
    ∧ (fCond w = 1 ∨ fCond w = 2 → pendOf t [fP w] ≠ [] → Completes (.add g th w) s (fun u =>
        Becomes s u g th { t with state := tWDATA, wait := .data [fP w] }))
    ∧ (fCond w = 3 ∨ fCond w = 0 ∧ w % 2 ^ 48 ≠ 0 → SourceOff s ⟨.CORE, g⟩ cIllegal → Completes (.fence g th w) s (fun u =>
        thr u g th = t.failed cIllegal 0 ∧ bit (rd u (coreB g + R.PG_FLT)) cIllegal = true))

/-- R99, R101: END, FENCE, WAITENG, WAITTOK, SIGTOK to the own core and BARRIER's last arrival where they need not wait; DRAIN waits for the
layer barrier and squashes run-ahead.
R99, R101: what each waits for where it must: END and FENCE for the thread's memory operations, WAITENG for its engine instructions,
WAITTOK in the queue of the token, BARRIER for the other arrivals.
Choices of the model: log 6, log 15, log 17. -/
def Obligations.Synchronization : Prop :=
  (∀ (s : State) (g th w : Nat),
    let t := thr s g th
    let k := fObj w
    let n := fN16 w
    (Ready s g th w shC → t.slots = [] → t.eng = 0 → Completes (.endI g th w) s (fun u => Becomes s u g th t.freed))
    ∧ (Ready s g th w shZero → t.slots = [] → Completes (.fence g th w) s (fun u => Becomes s u g th t.next))
    ∧ (Ready s g th w shC → t.eng = 0 → Completes (.waiteng g th w) s (fun u => Becomes s u g th t.next))
    ∧ (Ready s g th w (shS false) → k ≤ 63 → 1 ≤ n → n ≤ tok s g k → SMap.get [] (thrKey g k) s.tokq = [] →
      Completes (.waittok g th w) s (fun u => Issued s u g th t.next ∧ tok u g k = tok s g k - n))
    ∧ (Ready s g th w (shS true) → k ≤ 63 → fRaS w = 0 → t.slots = [] → tok s g k + n ≤ 65535 → SMap.get [] (thrKey g k) s.tokq = [] →
      Completes (.sigtok g th w) s (fun u => Issued s u g th t.next ∧ tok u g k = tok s g k + n))
    ∧ (Ready s g th w (shS false) → k ≤ 7 → 2 ≤ n → n ≤ 64 → (∀ e ∈ atBarrier s g k, barCount e = n) → n ≤ (atBarrier s g k).length + 1 →
      Completes (.barrier g th w) s (fun u => thr u g th = t.next ∧ ∀ e ∈ atBarrier s g k, e.1 ≠ th → thr u g e.1 = e.2.ready.next))
    ∧ (Ready s g th w shC → Completes (.drainInstruction g th w) s (fun u =>
        thr u g th = { t with state := tWSYNC, wait := .drain, ra := none } ∧ ∀ j, j < 64 → (thr u g j).ra = none)))
  ∧ (∀ (s : State) (g th w : Nat),
    let t := thr s g th
    let k := fObj w
    let n := fN16 w
    let waits (i : Instr) (st : Nat) (x : Wait) : Prop := Completes i s (fun u => Becomes s u g th { t with state := st, wait := x })
    (Ready s g th w shC → t.slots ≠ [] → waits (.endI g th w) tWSYNC .endw)
    ∧ (Ready s g th w shZero → t.slots ≠ [] → waits (.fence g th w) tWSYNC .fence)
    ∧ (Ready s g th w shC → t.eng ≠ 0 → waits (.waiteng g th w) tWENG .eng)
    ∧ (Ready s g th w (shS false) → k ≤ 63 → tok s g k < n → Completes (.waittok g th w) s (fun u =>
        thr u g th = { t with state := tWSYNC, wait := .tok k n } ∧ tok u g k = tok s g k
        ∧ SMap.get [] (thrKey g k) u.tokq = SMap.get [] (thrKey g k) s.tokq ++ [th]))
    ∧ (Ready s g th w (shS false) → k ≤ 7 → 2 ≤ n → n ≤ 64 → (∀ e ∈ atBarrier s g k, barCount e = n) → (atBarrier s g k).length + 1 < n →
        waits (.barrier g th w) tWSYNC (.bar k n)))

/-- R82, R97, R99, R128: TRAP and an illegal word are the thread's own errors: THR_FINFO names the source, and for TRAP the detail; the
source's PG_FLT bit is set, and with the source not enabled the thread alone stops, in T_FAULT.
R94, R95, R119: an access that runs outside its space or is misaligned, and one at a poisoned address, are errors of the thread and access
nothing. Shown of LD and ST.
Choices of the model: log 6, log 14, log 25. -/
def Obligations.ThreadErrors : Prop :=
  (∀ (s : State) (g th w : Nat),
    let t := thr s g th
    let fails (i : Instr) (n detail : Nat) : Prop := Completes i s (fun u => Issued s u g th (t.failed n detail)
      ∧ bit (rd u (coreB g + R.PG_FLT)) n = true)
    (Ready s g th w shC → SourceOff s ⟨.CORE, g⟩ cTrap → fails (.trap g th w) cTrap (w % 2 ^ 24))
    ∧ (illegalWord w = true → fCond w ≠ 3 → Ready s g th (w % 2 ^ 56) shC → SourceOff s ⟨.CORE, g⟩ cIllegal → fails (.illegalInstruction g th w) cIllegal 0)
    ∧ (Ready s g th w shC → Calm s → ¬ SourceOff s ⟨.CORE, g⟩ cTrap → routeMask s (coreB g) cTrap = 1 → heldState s ⟨.CORE, g⟩ = stRUN →
        Completes (.trap g th w) s (fun u => heldState u ⟨.CORE, g⟩ = stFAULT ∧ bit (rd u (coreB g + R.PG_FLT)) cTrap = true
          ∧ thr u g th = Thread.stopped { t with finfoSrc := cTrap, finfoDetail := w % 2 ^ 24, ra := none }
          ∧ ∀ k, k < 64 → k ≠ th → thr u g k = (thr s g k).stopped)))
  ∧ (∀ (s : State) (g th w : Nat),
    let t := thr s g th
    let ea := add64 (t.get (f2 w)) (off30 w)
    let n := widthOf (sizeM w)
    let fails (i : Instr) (f d : Nat) : Prop := Completes i s (fun u => Issued s u g th (t.failed f d))
    (∀ f, eaFault s g ea n n = some f → t.bad (f2 w) = false → SourceOff s ⟨.CORE, g⟩ f →
      (Ready s g th w shLd → fails (.ld g th w) f ea) ∧ (Ready s g th w shSt → fails (.st g th w) f ea))
    ∧ (t.bad (f2 w) = true → SourceOff s ⟨.CORE, g⟩ cPUse →
      (Ready s g th w shLd → fails (.ld g th w) cPUse 0) ∧ (Ready s g th w shSt → fails (.st g th w) cPUse 0)))

/-- R96, R103 to R106, R109 to R116: loads, stores, prefetches, copies, fills and atomics of device memory of the own site take a memory slot,
and a load's or an atomic's register is pending; loads, stores, copies and fills within scratch, UNPIN and CINV take effect at once.
Choices of the model: log 6, log 15, log 18. -/
def Obligations.MemoryIssue : Prop :=
  ∀ (s : State) (g th w : Nat),
    let t := thr s g th
    let takes (i : Instr) (m : MemOp) (pend : List Nat) : Prop := Completes i s (fun u => Issued s u g th
      { t.next with slots := t.slots ++ [{ m with time := s.now, pc := t.pc }], pend := t.pend ++ pend.filter (· ≠ 0) })
    let room : Prop := t.slots.length < 4 ∧ NoneUnsent g t
    let ea := add64 (t.get (f2 w)) (off30 w)
    let n := widthOf (sizeM w)
    let dst := t.get (f1 w)
    let src := t.get (f2 w)
    let len := t.get (f3 w)
    let at' := t.get (f2 w)
    let k := widthOf (sizeX w)
    let hit := ((leafOf s g).line (ea / 256)).toList
    let good (rs : List Nat) : Prop := ∀ r ∈ rs, t.bad r = false
    (Ready s g th w shLd → good [f2 w] → eaFault s g ea n n = none → eaSpace ea = 0 → dpaSite ea = g / 64 → room →
      ∃ l, (eaSpace t.pc = 1 → l = hit) ∧
        takes (.ld g th w) { kind := .ld, ea := ea, len := n, size := sizeM w, hint := hintM w, rd := f1 w, lines := l } [f1 w])
    ∧ (Ready s g th w shSt → good [f2 w] → eaFault s g ea n n = none → eaSpace ea = 0 → dpaSite ea = g / 64 → room →
      takes (.st g th w) { kind := .st, ea := ea, len := n, size := sizeM w, val := dst % 2 ^ (8 * n), pz := t.bad (f1 w) } [])
    ∧ (Ready s g th w shPref → good [f2 w] → eaFault s g ea 1 1 = none → eaSpace ea = 0 → room →
      takes (.pref g th w) { kind := .pref, ea := ea, len := 1, hint := hintM w } [])
    ∧ (Ready s g th w (shL true false) → good [f1 w, f2 w, f3 w] → lenOk len = true → rangeFault s g dst len false = none →
      rangeFault s g src len false = none → overlap dst len src len = false →
      (¬ (eaSpace src = 1 ∧ eaSpace dst = 1) → room → ∃ l, (eaSpace src = 1 → l = []) ∧
        takes (.copy g th w) { kind := .copy, ea := dst, src := src, len := len, hint := hintL w, lines := l } [])
      ∧ (eaSpace src = 1 → eaSpace dst = 1 → busyRange t dst len true = false → busyRange t src len false = false →
          scratchPoisoned (leafOf s g) (eaAddr src) len = false → Completes (.copy g th w) s (fun u =>
          Issued s u g th t.next ∧ scratchBytes (leafOf u g) (eaAddr dst) len = scratchBytes (leafOf s g) (eaAddr src) len)))
    ∧ (Ready s g th w (shL false false) → good [f1 w, f3 w] → lenOk len = true → rangeFault s g dst len false = none →
      (eaSpace dst = 0 → room → takes (.fill g th w) { kind := .fill, ea := dst, len := len, val := src, pz := t.bad (f2 w) } [])
      ∧ (eaSpace dst = 1 → t.bad (f2 w) = false → busyRange t dst len true = false →
          Completes (.fill g th w) s (fun u => Issued s u g th t.next ∧ scratchBytes (leafOf u g) (eaAddr dst) len = fillBytes src len)))
    ∧ (Ready s g th w shX → good [f1 w, f2 w, f3 w] → eaFault s g at' k k = none → eaSpace at' = 0 → dpaSite at' = g / 64 → room →
      takes (.aadd g th w) { kind := .aadd, ea := at', len := k, size := sizeX w, rd := f1 w, val := len % 2 ^ (8 * k), val2 := dst % 2 ^ (8 * k) } [f1 w]
      ∧ takes (.acas g th w) { kind := .acas, ea := at', len := k, size := sizeX w, rd := f1 w, val := len % 2 ^ (8 * k), val2 := dst % 2 ^ (8 * k) } [f1 w])
    ∧ (Ready s g th w shLd → good [f2 w] → eaFault s g ea n n = none → eaSpace ea = 1 → busyRange t ea n false = false →
      scratchPoisoned (leafOf s g) (eaAddr ea) n = false → Completes (.ld g th w) s (fun u =>
        Issued s u g th (t.put (f1 w) (extend (sizeM w) (scratchNum (leafOf s g) (eaAddr ea) n)) false).next))
    ∧ (Ready s g th w shSt → good [f1 w, f2 w] → eaFault s g ea n n = none → eaSpace ea = 1 → busyRange t ea n true = false →
      scratchPoisoned (leafOf s g) (eaAddr ea) n = false → Completes (.st g th w) s (fun u =>
        Issued s u g th t.next ∧ scratchBytes (leafOf u g) (eaAddr ea) n = toBytes n (dst % 2 ^ (8 * n))
        ∧ ∀ a, a < eaAddr ea ∨ eaAddr ea + n ≤ a → scratchBytes (leafOf u g) a 1 = scratchBytes (leafOf s g) a 1))
    ∧ (Ready s g th w (shL false true) → good [f1 w, f3 w] → lenOk len = true → rangeFault s g dst len true = none →
      Completes (.unpin g th w) s (fun u => Issued s u g th t.next ∧ ∀ x ∈ (leafOf u g).lines, x.addr ∈ linesOf dst len → x.st ≠ .pinned)
      ∧ Completes (.cinv g th w) s (fun u => Issued s u g th t.next ∧ ∀ x ∈ (leafOf u g).lines, x.addr ∈ linesOf dst len → x.st = .pinned))

/-- R105, R106, R112, R118, R119: what ends the operation in a slot: a load of the own site gives rd its value, a store writes its bytes and
no others, AADD gives rd the old value and adds; a fill's line enters the cache; a load at its limit gives poison and CORE_mem_timeout; a
request answered RETRY_LATER is sent again.
Choices of the model: log 15, log 16, log 18, log 23. -/
def Obligations.MemoryCompletion : Prop :=
  ∀ (s : State) (g th i : Nat) (m : MemOp),
    let t := thr s g th
    let left := { t with slots := t.slots.eraseIdx i }
    let lands (v : Nat) : Thread := Thread.wake { left.put m.rd v false with pend := t.pend.filter (· ≠ m.rd) }
    let ends : Prop := Calm s ∧ t.slots[i]? = some m ∧ PortsIdle s g ∧ (∀ x ∈ t.slots, remoteOp g x = false) ∧ heldBack t i m = false ∧ opRetries s m = false ∧ t.ra = none
    (ends → m.kind = .ld → eaSpace m.ea = 0 → (loadValue s m).2 = false → reach s m.ea = .ok →
      Completes (.memoryOpCompletion g th i) s (fun u => thr u g th = lands (extend m.size (loadValue s m).1)
        ∧ Apart (fun x => { x with threads := [] }) [] s u))
    ∧ (ends → m.kind = .st → eaSpace m.ea = 0 → 0 < m.len → reachRange s m.ea m.len = .ok → m.pz = false → m.ea % 32 + m.len ≤ 32 → rangePoison s m.ea m.len = false →
      Completes (.memoryOpCompletion g th i) s (fun u => thr u g th = left.wake ∧ memBytes u m.ea m.len = toBytes m.len m.val
        ∧ (∀ a, a < m.ea ∨ m.ea + m.len ≤ a → memByte u a = memByte s a) ∧ Apart (fun x => { x with threads := [], mem := [], poison := [] }) [] s u))
    ∧ (ends → m.kind = .aadd → eaSpace m.ea = 0 → 0 < m.len → (memRead s m.ea m.len).2 = false → m.ea % 32 + m.len ≤ 32 →
      Completes (.memoryOpCompletion g th i) s (fun u => thr u g th = lands (memNum s m.ea m.len)
        ∧ memNum u m.ea m.len = (memNum s m.ea m.len + m.val) % 2 ^ (8 * m.len) ∧ ∀ a, a < m.ea ∨ m.ea + m.len ≤ a → memByte u a = memByte s a))
    ∧ (∀ (line : Nat) (f : Fill) (st : LState), Calm s → (leafOf s g).fill line = some f → f.st = some st → f.discard = false → f.stores = [] →
      reach s (line * 256) = .ok → (memRead s (line * 256) 256).2 = false → (leafOf s g).lines.length < cacheLines s g →
      Completes (.leafFillArrival g line) s (fun u => (leafOf u g).line line = some { addr := line, st := st, data := memNum s (line * 256) 256 }
        ∧ (leafOf u g).fill line = none ∧ Apart (fun x => { x with leaf := [] }) [] s u))
    ∧ (Calm s → t.slots[i]? = some m → PortsIdle s g → (∀ x ∈ t.slots, remoteOp g x = false) → t.ra = none → m.kind = .ld → m.rd ≠ 0 →
      m.time + memLimit s g ≤ s.now → th < 64 → SourceOff s ⟨.CORE, g⟩ cTimeout → Completes (.coreMemTimeoutExpiry g th i) s (fun u =>
        (thr u g th).bad m.rd = true ∧ (thr u g th).slots = t.slots.eraseIdx i ∧ (thr u g th).finfoSrc = cTimeout ∧ (thr u g th).pc = m.pc
        ∧ bit (rd u (coreB g + R.PG_FLT)) cTimeout = true))
    ∧ (Calm s → t.slots[i]? = some m → m.again = true → Completes (.readRetry g th i) s (fun u => u.fab.next = (s.fab.next + 1) % 2 ^ 32
        ∧ thr u g th = { t with slots := t.slots.set i { m with tag := some s.fab.next, again := false } } ∧ u.fab.pkts.length = s.fab.pkts.length + 1))

/-- R101, R102, R120 to R124, R400, R475: a signal that arrives adds to its token, from a thread, a descriptor or a copy; in run-ahead a load
whose address is known and whose hint keeps its line is prefetched, and rd becomes unknown.
Choices of the model: log 18, log 63. -/
def Obligations.SignalsAndRunAhead : Prop :=
  ∀ (s : State) (g th i w : Nat), Calm s →
    let t := thr s g th
    let calmTok (c k : Nat) : Prop := takesSignal s c = true ∧ SMap.get [] (thrKey c k) s.tokq = [] ∧ c < 4096 ∧ k < 64
    (∀ m, th < 64 → t.slots[i]? = some m → m.kind = .sig → m.delivered = false → remoteOp g m = false → calmTok m.ea m.rd → tok s m.ea m.rd + m.val ≤ 65535 →
      Completes (.tokenSignalArrival g th i) s (fun u => tok u m.ea m.rd = tok s m.ea m.rd + m.val
        ∧ thr u g th = { t with slots := t.slots.set i { m with delivered := true } }))
    ∧ (∀ y, (streamOf s g).sigs[i]? = some y → calmTok y.target y.tok → tok s y.target y.tok + y.n ≤ 65535 →
      Completes (.tokenSignalArrival g 64 i) s (fun u => tok u y.target y.tok = tok s y.target y.tok + y.n
        ∧ (streamOf u g).sigs = (streamOf s g).sigs.eraseIdx i))
    ∧ (∀ x, s.hif.sigs[i]? = some x → calmTok x.1 x.2 → tok s x.1 x.2 + 1 ≤ 65535 →
      Completes (.tokenSignalArrival g 65 i) s (fun u => tok u x.1 x.2 = tok s x.1 x.2 + 1 ∧ u.hif.sigs = s.hif.sigs.eraseIdx i))
    ∧ (∀ (ra : RunAhead) (rs : List Nat) (a : Nat), t.ra = some ra → t.state = tWDATA → t.wait = .data rs → (∃ m ∈ t.slots, m.kind = .ld) →
      fld s (coreB g + R.CORE_RUNAHEAD) 0 0 = 1 → ra.count < fld s (coreB g + R.CORE_RUNAHEAD) 13 8 → ra.stopped = false →
      pgState s ⟨.CORE, g⟩ = stRUN → w / 2 ^ 56 = 0x10 → fCond w = 0 → raGet t ra (f2 w) = some a → shLd.bad w = false → hintM w ≠ 0 →
      eaSpace (add64 a (off30 w)) = 0 → eaFault s g (add64 a (off30 w)) (widthOf (sizeM w)) (widthOf (sizeM w)) = none → t.slots.length < 4 →
      Completes (.runaheadPrefetch g th w) s (fun u => (thr u g th).slots = t.slots ++ [{ kind := .ra, ea := add64 a (off30 w), len := 1, time := s.now, pc := ra.pc }]
        ∧ (thr u g th).regs = t.regs ∧ (thr u g th).pend = t.pend
        ∧ (f1 w ≠ 0 → ∀ x ∈ (thr u g th).ra, x.count = ra.count + 1 ∧ f1 w ∈ x.unknown) ∧ (thr u g th).ra.isSome = true))

/-- R125: a write to RING_PROD that would make prod − cons, modulo 2^32, greater than the ring's size, or would move prod backwards, is
refused with reason 1, "range". -/
def Obligations.RingProdRange : Prop :=
  ∀ (s : State) (o : Origin) (g n val : Nat), Calm s → Free s o 1 → g < 4096 → n < 4 → val < 2 ^ 32 → Page.ofOff (coreB g) = some ⟨.CORE, g⟩ →
    answers s ⟨.CORE, g⟩ = true →
    let prod := coreB g + R.RING_PROD n
    let ahead (x : Nat) : Nat := (x + 2 ^ 32 - rd s (coreB g + R.RING_CONS n)) % 2 ^ 32
    2 ^ fld s (coreB g + R.RING_SIZE n) 4 0 < ahead val ∨ ahead val < ahead (rd s prod) →
    Completes (.ringProdWrite o g n val) s (fun u => rd u prod = rd s prod
      ∧ u.jnl.store = s.jnl.store ++ [{ entryOf s o prod (rd s prod) val 1 false with seq := nextSeq s }] ∧ Apart id [⟨.CORE, g⟩] s u)

/-- R101, R110, R120, R125, R126: the commands of the CORE page and the writes of its registers that do more than change them.
Choices of the model: log 9, log 69. -/
def Obligations.CorePage : Prop :=
  ∀ (s : State) (o : Origin) (g arg val new : Nat),
    let r : Page.Ref := ⟨.CORE, g⟩
    let writes (off : Nat) : Prop := Calm s ∧ Free s o 1 ∧ Page.ofOff (coreB g) = some r ∧ judge s o off 4 val = .apply new
    (Accepted s o r 0x10 arg → ((thr s g arg).state = tFAULT ∨ (thr s g arg).state = tSTOPPED) →
      Completes (.killThread o g arg) s (fun u => Taken s u o r 0x10 arg 2 ∧ (SMap.find (coreB g) u.busy).map (·.op) = some 0x10))
    ∧ (Calm s → Page.ofOff (coreB g) = some r → (SMap.find (coreB g) s.busy).map (fun b => (b.op, b.arg)) = some (0x10, arg) → (thr s g arg).slots = [] → arg < 64 →
      Completes (.commandCompletion (pageNo r) true) s (fun u => thr u g arg = (thr s g arg).freed ∧ SMap.find (coreB g) u.busy = none))
    ∧ (Accepted s o r 0x11 arg → Completes (.leafFlush o g arg) s (fun u => Taken s u o r 0x11 arg 2 ∧ (SMap.find (coreB g) u.busy).map (·.op) = some 0x11))
    ∧ (Calm s → Page.ofOff (coreB g) = some r → (SMap.find (coreB g) s.busy).map (·.op) = some 0x11 →
      Completes (.commandCompletion (pageNo r) true) s (fun u => (leafOf u g).lines = [] ∧ (∀ f ∈ (leafOf u g).fills, f.discard = true)
        ∧ (leafOf u g).scratch = (leafOf s g).scratch))
    ∧ (writes (coreB g + R.CORE_LEAF_SPLIT) → Completes (.coreLeafSplitWrite o g val) s (fun u =>
        rd u (coreB g + R.CORE_LEAF_SPLIT) = new % 2 ^ 32 ∧ (leafOf u g).lines = [] ∧ u.threads = s.threads
        ∧ u.jnl.store = s.jnl.store ++ [changeEntry s o (coreB g + R.CORE_LEAF_SPLIT) val false]))
    ∧ (writes (coreB g + R.CORE_RUNAHEAD) → Completes (.coreRunaheadWrite o g val) s (fun u =>
        rd u (coreB g + R.CORE_RUNAHEAD) = new % 2 ^ 32 ∧ (new % 2 = 0 → ∀ th, th < 64 → (thr u g th).ra = none)
        ∧ u.jnl.store = s.jnl.store ++ [changeEntry s o (coreB g + R.CORE_RUNAHEAD) val false]))
    ∧ (∀ n, n < 4 → writes (coreB g + R.RING_PROD n) → Completes (.ringProdWrite o g n val) s (fun u =>
        rd u (coreB g + R.RING_PROD n) = new % 2 ^ 32 ∧ u.threads = s.threads))
    ∧ (∀ k, k < 64 → writes (coreB g + R.CORE_TOK k) → Completes (.coreTokWrite o g k val) s (fun u =>
        rd u (coreB g + R.CORE_TOK k) = new % 2 ^ 32 ∧ u.threads = s.threads
        ∧ led u 0x07 (g / 64) (g % 64) 4 = (led s 0x07 (g / 64) (g % 64) 4 + (new % 2 ^ 16 + 2 ^ 32 - tok s g k)) % 2 ^ 32))

/-- R83, R86, R119, R152, R205, R257, R329, R372, R453: an engine instruction that issues is put at the end of its engine's queue with what its
registers held, the thread goes on with one more engine instruction outstanding, and the rd it writes is pending. The clauses of the MV path,
the score unit and the KV port are about an engine that starts nothing now.
R83, R86, R152, R205, R257, R329, R372, R453: an engine instruction whose queue has no room makes its thread wait for room, in T_WAIT_ENG.
Choices of the model: log 6, log 25. -/
def Obligations.EngineQueues : Prop :=
  (∀ (s : State) (g th w : Nat),
    let t := thr s g th
    let e := enginesOf s g
    let op (code d : Nat) : EOp := { op := code, th := th, own := t.own, d := d, a := t.get (f2 w), b := add64 (t.get (f3 w)) (imm33 w), rd := f1 w, time := s.now, pc := t.pc }
    let late (code : Nat) : EOp := { op code 0 with after := t.slots.map (fun m => (m.pc, m.time)) }
    let half (code : Nat) : Nat := arrUnit s g code (op code 0).b
    let arr (code d : Nat) : Engines := { e with arr := if half code = 0 then { e.arr with q0 := e.arr.q0 ++ [op code d] } else { e.arr with q1 := e.arr.q1 ++ [op code d] } }
    let mv (code d : Nat) : Engines := { e with mv := { e.mv with q := e.mv.q ++ [op code d] } }
    let att (code : Nat) : Engines := { e with att := { e.att with q := e.att.q ++ [late code] } }
    let kv (code : Nat) : Engines := { e with att := { e.att with kv := [late code] } }
    let good (sh : Shape) (rs : List Nat) : Prop := Ready s g th w sh ∧ ∀ r ∈ rs, t.bad r = false
    let hands (i : Instr) (pend : List Nat) (y : Engines) : Prop := Completes i s (fun u =>
      Handed s u g th { t.next with eng := t.eng + 1, pend := t.pend ++ pend.filter (· ≠ 0) } y [⟨.CORE, g⟩])
    let still : Prop := pgState s ⟨.MXU, g⟩ ≠ stRUN ∧ pgState s ⟨.MXU, g⟩ ≠ stDRAIN
    (good shWld [f2 w, f3 w] → (arrRoom s g (half 0x30) = true → hands (.wld g th w) [] (arr 0x30 0))
      ∧ (arrRoom s g (half 0x33) = true → hands (.accld g th w) [] (arr 0x33 0)))
    ∧ (good shPass [f1 w, f2 w, f3 w] → (arrRoom s g (half 0x31) = true → hands (.pass g th w) [] (arr 0x31 (t.get (f1 w))))
      ∧ (arrRoom s g (half 0x34) = true → hands (.accst g th w) [] (arr 0x34 (t.get (f1 w)))))
    ∧ (good shAccz [f2 w, f3 w] → arrRoom s g (half 0x32) = true → hands (.accz g th w) [] (arr 0x32 0))
    ∧ (good shMv [f1 w, f2 w, f3 w] → mvRoom s g = true → still → hands (.mvset g th w) [] (mv 0x50 (t.get (f1 w)))
      ∧ hands (.mvrun g th w) [] (mv 0x51 (t.get (f1 w))) ∧ hands (.mvst g th w) [] (mv 0x52 (t.get (f1 w))))
    ∧ (good shMvz [f2 w, f3 w] → mvRoom s g = true → still → hands (.mvz g th w) [] (mv 0x53 0))
    ∧ (good shMvMeta [f2 w, f3 w] → mvRoom s g = true → still → hands (.mvmeta g th w) [] (mv 0x54 0))
    ∧ (good shAtt [f2 w, f3 w] → attRoom s g = true → still → hands (.atq g th w) [] (att 0x60) ∧ hands (.atend g th w) [] (att 0x62)
      ∧ hands (.atmerge g th w) [] (att 0x63))
    ∧ (good shAttRd [f2 w, f3 w] → attRoom s g = true → still → hands (.atblk g th w) [f1 w] (att 0x61))
    ∧ (good shAttRd [f2 w, f3 w] → e.att.kv = [] → pgState s ⟨.KVM, g / 64⟩ = stHALT → pgState s ⟨.PFX, g / 64⟩ = stHALT →
      ∀ c ∈ [(Instr.kvappend g th w, 0x64), (.kvcommit g th w, 0x65), (.kvrollback g th w, 0x66), (.kvref g th w, 0x67),
        (.kvrelease g th w, 0x68), (.kvfork g th w, 0x69), (.pfxfind g th w, 0x6A), (.pfxinsert g th w, 0x6B)], hands c.1 [f1 w] (kv c.2))
    ∧ (good shAttNoRa [f2 w, f3 w] → e.att.kv = [] → pgState s ⟨.PFX, g / 64⟩ = stHALT → hands (.pfxrelease g th w) [f1 w] (kv 0x6C))
    ∧ (good shScall [f2 w, f3 w] → sapRoom s g = true → hands (.scall g th w) [f1 w] { e with sap := { e.sap with port := e.sap.port ++ [late 0x90] } })
    ∧ (good shSload [f2 w, f3 w] → sapRoom s g = true → hands (.sload g th w) [] { e with sap := { e.sap with port := e.sap.port ++ [late 0x91] } })
    ∧ (good shSabort [f2 w, f3 w] → sapRoom s g = true → hands (.sabort g th w) [] { e with sap := { e.sap with port := e.sap.port ++ [late 0x92] } })
    ∧ (good shDret [f2 w, f3 w] → e.port.q = [] → (∀ k, k < 64 → (thr s g k).wait ≠ .queue 4) →
      hands (.dret g th w) [] { e with port := { e.port with drets := e.port.drets ++ [late 0x82] } })
    ∧ (good shDspRd [f2 w, f3 w] → e.port.q = [] → pgState s ⟨.DSP, g / 64⟩ = stHALT → hands (.dopen g th w) [f1 w] { e with port := { e.port with q := [op 0x80 0] } })
    ∧ (good shDlogit [f2 w, f3 w] → e.port.q = [] → pgState s ⟨.DSP, g / 64⟩ = stHALT → hands (.dlogit g th w) [] { e with port := { e.port with q := [op 0x81 0] } }))
  ∧ (∀ (s : State) (g th w : Nat),
    let t := thr s g th
    let waits (i : Instr) (q : Nat) : Prop := Completes i s (fun u => Becomes s u g th { t with state := tWENG, wait := .queue q })
    let good (sh : Shape) : Prop := Ready s g th w sh ∧ t.bad (f2 w) = false ∧ t.bad (f3 w) = false
    let half (code : Nat) : Nat := arrUnit s g code (add64 (t.get (f3 w)) (imm33 w))
    (good shWld → arrRoom s g (half 0x30) = false → waits (.wld g th w) (half 0x30))
    ∧ (good shMvMeta → mvRoom s g = false → waits (.mvmeta g th w) 2)
    ∧ (good shAttRd → (attRoom s g = false → waits (.atblk g th w) 3) ∧ (kvRoom s g 0x67 = false → waits (.kvref g th w) 7)
      ∧ (kvRoom s g 0x6A = false → waits (.pfxfind g th w) 7))
    ∧ (good shDspRd → portRoom s g 0x80 = false → waits (.dopen g th w) 4)
    ∧ (good shScall → sapRoom s g = false → waits (.scall g th w) 5)
    ∧ (good shBsend → sndRoom s g = false → waits (.bsend g th w) 6)
    ∧ (Ready s g th w shPass → t.bad (f1 w) = true → SourceOff s ⟨.CORE, g⟩ cPUse → Completes (.pass g th w) s (fun u =>
        Issued s u g th (t.failed cPUse 0))))

/-- R145, R147, R153, R156, R169: a queued array instruction starts: WLD takes a staging entry, or marks its block bad; PASS takes its block and
the next tag, or aborts where no block is there; an accumulator instruction begins.
R159, R168, R170, R181, R182: the array's timeouts and its reset by halves: a pass that waited too long for A data aborts; a staging fetch
that took too long aborts every pass and empties the staging entries; ARR_HALF_RESET empties a half.
Choices of the model: log 27, log 29. -/
def Obligations.ArrayStartsAndAborts : Prop :=
  (∀ (s : State) (g half i : Nat) (o : EOp), Calm s →
    let u := half % 2
    let x := arrOf s g
    let starts (P : State → Prop) : Prop := Completes (.arrInstructionStart g half i) s P
    let left (v : State) : Prop := (arrOf v g).queue u = (x.queue u).eraseIdx i ∧ (arrOf v g).queue (1 - u) = x.queue (1 - u)
    let src (v : State) (n : Nat) : Prop := bit (rd v (mxuB g + R.PG_FLT)) n = true
    (x.queue u)[i]? = some o → mayStart s g u i o = true → attClaims s g 1 = false → clockLost s ⟨.MXU, g⟩ = false →
    (o.op = 0x30 → lwOk (splitOn s g) o.b = true → o.a % 32 = 0 → engEaOk s g o.a (blkBytes o.b) 1 = true → starts (fun v =>
      arrOf v g = { arrTake x u i with blks := x.blks ++ [{ id := x.nextBlk, unit := u, op := { o with time := s.now, hits := engHits s g o.a (blkBytes o.b) } }], nextBlk := x.nextBlk + 1 }
      ∧ Apart exceptEngines [⟨.CORE, g⟩] s v))
    ∧ (o.op = 0x30 → lwOk (splitOn s g) o.b = false → SourceOff s ⟨.MXU, g⟩ aSeq → starts (fun v => left v ∧ src v aSeq
      ∧ (arrOf v g).blks = x.blks ++ [{ id := x.nextBlk, unit := u, op := { o with hits := [] }, ready := true, bad := some aSeq }]))
    ∧ (o.op = 0x31 → ∀ b, passBlock x u o.b = some b → b.bad = none → pwBad (splitOn s g) b.op.b o.b = false → passAddrOk s g b.op.b o = true →
      starts (fun v => left v ∧ (∃ l, (arrOf v g).passes = x.passes ++ [{ unit := u, tag := if u = 0 then x.tag0 else x.tag1, op := { o with time := s.now, hits := l }, blk := b.id }])
        ∧ (if u = 0 then (arrOf v g).tag0 = (x.tag0 + 1) % 4 ∧ (arrOf v g).last0 = some b.id else (arrOf v g).tag1 = (x.tag1 + 1) % 4 ∧ (arrOf v g).last1 = some b.id)
        ∧ (arrOf v g).acc = x.acc ∧ (arrOf v g).valid = x.valid ∧ rd v (mxuB g + R.MXU_CNT_PASS) = satAdd (rd s (mxuB g + R.MXU_CNT_PASS)) 1))
    ∧ (o.op = 0x31 → passBlock x u o.b = none → SourceOff s ⟨.MXU, g⟩ aSeq → starts (fun v => left v ∧ (arrOf v g).passes = x.passes ∧ src v aSeq
        ∧ (arrOf v g).valid = x.valid.filter (fun r => !(passRows (splitOn s g) false u o.b).contains r)
        ∧ fld v (mxuB g + if u = 0 then R.MXU_ABORT_N else R.MXU_ABORT_S) 31 24 = aSeq))
    ∧ (o.op ∈ [0x32, 0x33, 0x34] → swBad (splitOn s g) o.op o.b = false → swAddrOk s g o = true → starts (fun v => left v
        ∧ (∃ l, (arrOf v g).accs = x.accs ++ [(u, { o with time := s.now, hits := l })]) ∧ (arrOf v g).acc = x.acc)))
  ∧ (∀ (s : State) (g : Nat), Calm s → (attOf s g).q = [] →
    let x := arrOf s g
    let split := splitOn s g
    (∀ half p, (x.passes.filter (·.unit = half % 2)).getLast? = some p → p.op.time + feedLimit s g ≤ s.now → pgState s ⟨.MXU, g⟩ ∈ [stRUN, stDRAIN] →
      SourceOff s ⟨.MXU, g⟩ aFeed → Completes (.mxuFeedTimeoutExpiry g half) s (fun v =>
        arrOf v g = { x with passes := x.passes.filter (· ≠ p), valid := x.valid.filter (fun r => !(p.rows x split).contains r) }
        ∧ bit (rd v (mxuB g + R.PG_FLT)) aFeed = true ∧ fld v (mxuB g + if p.unit = 0 then R.MXU_ABORT_N else R.MXU_ABORT_S) 31 24 = aFeed))
    ∧ (∀ b, x.staged.head? = some b → b.op.time + feedLimit s g ≤ s.now → SourceOff s ⟨.MXU, g⟩ aLoad → Completes (.stagingFetchTimeout g) s (fun v =>
        (arrOf v g).passes = [] ∧ (arrOf v g).staged = [] ∧ (arrOf v g).acc = x.acc ∧ bit (rd v (mxuB g + R.PG_FLT)) aLoad = true
        ∧ ∀ k ∈ (arrOf v g).valid, k ∈ x.valid ∧ ∀ p ∈ x.passes, k ∉ p.rows x split))
    ∧ (∀ o arg, Accepted s o ⟨.MXU, g⟩ 0x10 arg → Completes (.arrHalfReset o g arg) s (fun v => Taken s v o ⟨.MXU, g⟩ 0x10 arg 2
        ∧ (∀ h, h < 2 → arg / 2 ^ h % 2 = 1 → (arrOf v g).queue h = [] ∧ (∀ b ∈ (arrOf v g).blks, b.unit ≠ h) ∧ (∀ p ∈ (arrOf v g).passes, p.unit ≠ h)
          ∧ ∀ e ∈ (arrOf v g).accs, e.1 ≠ h)
        ∧ (∀ h, h < 2 → arg / 2 ^ h % 2 = 0 → (arrOf v g).queue h = x.queue h))))

/-- R139, R142, R150, R155, R161, R168: what the array's work leaves: a block its bytes; a pass its rows, which it marks valid, or, where poison
stops it, an abort; ACCZ, ACCLD and ACCST their rows. The instruction then counts as complete for its thread.
Choices of the model: log 26, log 27, log 29. -/
def Obligations.ArrayResults : Prop :=
  ∀ (s : State) (g half : Nat), Calm s → (attOf s g).q = [] → clockLost s ⟨.MXU, g⟩ = false → pgState s ⟨.MXU, g⟩ ∈ [stRUN, stDRAIN, stHALT] →
    let u := half % 2
    let x := arrOf s g
    let split := splitOn s g
    let done (v : State) (o : EOp) : Prop := (thr s g o.th).state ≠ tFREE → (thr s g o.th).own = o.own → 0 < (thr s g o.th).eng →
      thr v g o.th = Thread.wake { thr s g o.th with eng := (thr s g o.th).eng - 1 }
    (∀ b, x.staged.head? = some b → x.blk b.id = some b → x.blks.all (fun k => !(k.unit = b.unit && k.ready && !k.bound && k.bad.isNone)) = true →
      engRetries s b.op.a (blkBytes b.op.b) = false → (engNum s g b.op.hits b.op.a (blkBytes b.op.b)).2 = false → reachRange s b.op.a (max (blkBytes b.op.b) 1) ≠ .dead →
      Completes (.wldComplete g) s (fun v => done v b.op ∧ rd v (mxuB g + R.MXU_CNT_WLD) = satAdd (rd s (mxuB g + R.MXU_CNT_WLD)) 1
        ∧ (arrOf v g).blk b.id = some { b with data := (engNum s g b.op.hits b.op.a (blkBytes b.op.b)).1, ready := true, bad := none, op := { b.op with hits := [] } }))
    ∧ (∀ p b, x.passes.find? (·.unit = u) = some p → x.blk p.blk = some b → b.ready = true → b.bad = none → passRetries s b.op.b p.op = false →
      (∀ e ∈ x.accs, e.1 = u → ∀ r ∈ accRows e.2.b, r ∉ p.rows x split) →
      let r := passRun s g b.op.b b.data (unitBase split p.unit + bits p.op.b 15 8) p.op (pwRows p.op.b)
      (r.stop = none → Completes (.passComplete g half) s (fun v => done v p.op ∧ (arrOf v g).acc = r.acc ∧ p ∉ (arrOf v g).passes
        ∧ (∀ k, k ∈ (arrOf v g).valid ↔ k ∈ x.valid ∨ (bits p.op.b 16 16 = 0 ∧ k ∈ p.rows x split))
        ∧ rd v (mxuB g + R.MXU_CNT_ROWS) = satAdd (rd s (mxuB g + R.MXU_CNT_ROWS)) r.entered))
      ∧ (∀ m, r.stop = some (aPoisonA, m) → SourceOff s ⟨.MXU, g⟩ aPoisonA → Completes (.passComplete g half) s (fun v =>
          p ∉ (arrOf v g).passes ∧ (∀ k, k ∈ (arrOf v g).valid ↔ k ∈ x.valid ∧ k ∉ p.rows x split)
          ∧ bit (rd v (mxuB g + R.PG_FLT)) aPoisonA = true ∧ fld v (mxuB g + if p.unit = 0 then R.MXU_ABORT_N else R.MXU_ABORT_S) 31 24 = aPoisonA)))
    ∧ (∀ (e : Nat × EOp) (o : EOp), x.accs.find? (·.1 = u) = some e → e.2 = o →
      let n := bits o.b 7 0 + 1
      let r0 := bits o.b 15 8
      let c := bits o.b 19 16
      let ea (i : Nat) : Nat := o.a + i * bits o.b 39 24
      let len := accRowBytes c
      let run (P : State → Prop) : Prop := Completes (.accInstructionComplete g half) s (fun v => (arrOf v g).accs = x.accs.filter (· ≠ e) ∧ done v o ∧ P v)
      let others (v : State) : Prop := ∀ r k, k < 32 → r < r0 ∨ r0 + n ≤ r → SMap.get 0 (r * 32 + k) (arrOf v g).acc = SMap.get 0 (r * 32 + k) x.acc
      (o.op = 0x32 → run (fun v => others v ∧ ∀ i, i < n → r0 + i ∈ (arrOf v g).valid ∧ ∀ k, k < 32 → SMap.get 0 ((r0 + i) * 32 + k) (arrOf v g).acc = 0))
      ∧ (o.op = 0x33 → accRetries s o = false → accPoison s g o = false → run (fun v => others v ∧ ∀ i, i < n → r0 + i ∈ (arrOf v g).valid
          ∧ ∀ k, k < 32 → SMap.get 0 ((r0 + i) * 32 + k) (arrOf v g).acc = toF32 (elemAt c (engNum s g o.hits (ea i % 2 ^ 64) len).1 k)))
      ∧ (o.op = 0x34 → o.a % 32 = 0 → bits o.b 39 24 % 32 = 0 → len ≤ bits o.b 39 24 → ea n ≤ 2 ^ 41 → (∀ d, o.a ≤ d → d < ea n → reach s d = .ok) →
          rangePoison s o.a (ea n - o.a) = false → scaled c = false → bits o.b 20 20 = 0 → (∀ i, i < n → r0 + i ∈ x.valid) →
          run (fun v => (arrOf v g).acc = x.acc ∧ (∀ i, i < n → memBytes v (ea i) len = (accRowOut x c (r0 + i)).1)
            ∧ ∀ d, (∀ i, i < n → d < ea i ∨ ea i + len ≤ d) → memByte v d = memByte s d))
      ∧ (o.op = 0x34 → n = 1 → o.a % 32 = 0 → o.a + len ≤ 2 ^ 41 → o.d < 2 ^ 41 → o.d + 1 ≤ o.a ∨ o.a + len ≤ o.d → (∀ d, o.a ≤ d → d < o.a + len → reach s d = .ok) →
          reach s o.d = .ok → rangePoison s o.a len = false → rangePoison s o.d 1 = false → scaled c = true → r0 ∈ x.valid →
          run (fun v => memBytes v o.a len = (accRowOut x c r0).1 ∧ memBytes v o.d 1 = toBytes 1 (accRowOut x c r0).2
            ∧ (bits o.b 20 20 = 1 → ∀ k, k < 32 → SMap.get 0 (r0 * 32 + k) (arrOf v g).acc = 0))))

/-- R187, R194, R197, R201, R203 to R208, R217: the MV path: a weight line arrives and, once a block has its lines, the block is added into the
bank; a run ends with its bank valid; MVZ zeroes its bank; MVST stores its rows; a line that stays away aborts the run; MV_RESET empties it.
Choices of the model: log 26, log 35. -/
def Obligations.MatVecWork : Prop :=
  ∀ (s : State) (g : Nat), Calm s → (attOf s g).q = [] → (mvOf s g).q = [] →
    let m := mvOf s g
    let works : Prop := clockLost s ⟨.MXU, g⟩ = false ∧ pgState s ⟨.MXU, g⟩ ∈ [stRUN, stDRAIN, stHALT]
    (∀ r i, m.run = some r → works → i < mvLines r.op.b → lineNeeded s g r i = true → SMap.find i r.lines = none → r.done ≤ blockOf r.op.b i →
      ((List.range i).filter (fun k => decide (r.done ≤ blockOf r.op.b k) && lineNeeded s g r k && (SMap.find k r.lines).isNone)).length < 48 →
      let ea := lineAddr s g r i
      let d := engNum s g (engHits s g ea 256) ea 256
      let r' : MvRun := { r with lines := SMap.put i d.1 r.lines }
      engRetries s ea 256 = false → actPoison s g r = none → ownSlice g ea 256 = true → d.2 = false → r.done < blockCount r.op.b →
      (blockReady s g r' r.done = false → Completes (.mvLineArrival g i false) s (fun v => mvOf v g = { m with run := some r' }
        ∧ rd v (mxuB g + R.MXU_MV_CNT_LINE) = satAdd (rd s (mxuB g + R.MXU_MV_CNT_LINE)) 1))
      ∧ (blockReady s g r' r.done = true → blockCount r.op.b = r.done + 1 → rwSparse r.op.b = 0 → mvExc s g ≠ 2 → Completes (.mvLineArrival g i false) s (fun v =>
          (mvOf v g).acc = (addBlock s g r' r.done m.acc).1 ∧ (mvOf v g).run.map (·.done) = some (r.done + 1) ∧ (mvOf v g).valid = m.valid)))
    ∧ (∀ r, m.run = some r → works → actPoison s g r = none → blockCount r.op.b ≤ r.done → Completes (.mvrunComplete g) s (fun v => (mvOf v g).run = none
        ∧ (mvOf v g).acc = m.acc ∧ (bits r.op.b 0 0 = 0 → rwBank r.op.b ∈ (mvOf v g).valid) ∧ (bits r.op.b 0 0 = 1 → (mvOf v g).valid = m.valid)
        ∧ rd v (mxuB g + R.MXU_MV_CNT_RUN) = satAdd (rd s (mxuB g + R.MXU_MV_CNT_RUN)) 1))
    ∧ (∀ r, m.run = some r → r.done < blockCount r.op.b → r.op.time + fld s (mxuB g + R.MXU_MV_TIMEOUT) 15 0 * 1000 ≤ s.now → SourceOff s ⟨.MXU, g⟩ vTime →
      Completes (.mvLineTimeout g) s (fun v => mvOf v g = { m with run := none, valid := m.valid.filter (· ≠ rwBank r.op.b) }
        ∧ bit (rd v (mxuB g + R.PG_FLT)) vTime = true ∧ fld v (mxuB g + R.MXU_MV_ABORT) 31 24 = vTime))
    ∧ (∀ o, m.store = some o → o.op = 0x53 → works → Completes (.mvstComplete g) s (fun v => (mvOf v g).store = none ∧ bits o.b 10 10 ∈ (mvOf v g).valid
        ∧ ∀ k, k / 4096 = bits o.b 10 10 → SMap.find k (mvOf v g).acc = none))
    ∧ (∀ o, m.store = some o → o.op = 0x52 → works → bits o.b 10 10 ∈ m.valid → scaled (bits o.b 19 16) = false → bits o.b 20 20 = 0 →
      let n := bits o.b 13 11 + 1
      let ea (i : Nat) : Nat := o.a + i * bits o.b 39 24
      o.a % 32 = 0 → bits o.b 39 24 % 32 = 0 → swRow o.b ≤ bits o.b 39 24 → ea n ≤ 2 ^ 41 → (∀ d, o.a ≤ d → d < ea n → reach s d = .ok) → rangePoison s o.a (ea n - o.a) = false →
      Completes (.mvstComplete g) s (fun v => mvOf v g = { m with store := none } ∧ (∀ i, i < n → memBytes v (ea i) (swRow o.b) = (mvRowOut m o.b i).1)
        ∧ ∀ d, (∀ i, i < n → d < ea i ∨ ea i + swRow o.b ≤ d) → memByte v d = memByte s d))
    ∧ (∀ o arg, Accepted s o ⟨.MXU, g⟩ 0x20 arg → Completes (.mvReset o g arg) s (fun v => Taken s v o ⟨.MXU, g⟩ 0x20 arg 2 ∧ mvOf v g = {} ∧ arrOf v g = arrOf s g))

/-- R235 to R238, R252, R257 to R260: DOPEN opens its round and gives its status, DLOGIT takes its tokens' logits, DSKIP gives the mask word of its
layer and BMSCAN the place of the first set bit, or where it stops. The dispatch port of the core is empty, and the unit runs.
Choices of the model: log 6, log 33. -/
def Obligations.DispatchInstructions : Prop :=
  ∀ (s : State) (g th w : Nat),
    let t := thr s g th
    let b := add64 (t.get (f3 w)) (imm33 w)
    let site := g / 64
    let x := dspOf s site
    let op (code : Nat) : EOp := { op := code, th := th, own := t.own, a := t.get (f2 w), b := b, rd := f1 w, time := s.now, pc := t.pc }
    let good (sh : Shape) : Prop := Ready s g th w sh ∧ t.bad (f2 w) = false ∧ t.bad (f3 w) = false ∧ t.wait = .none ∧ 0 ∉ t.pend ∧ (portOf s g).q = []
      ∧ ∀ k, k < 64 → (thr s g k).wait ≠ .queue 4
    let runs : Prop := pgState s (dspR site) = stRUN ∧ clockLost s (dspR site) = false
    let gives (i : Instr) (v : Nat) (P : State → Prop) : Prop := Completes i s (fun u => thr u g th = (t.put (f1 w) v false).next ∧ portOf u g = portOf s g ∧ P u)
    (good shDspRd → runs → b = 0 → engEaOk s g (op 0x80).a 64 1 = true → ∀ r m k pz, openReads s g (op 0x80).a = some (r, m, k, pz) →
      (∀ n, openRound s site r m k pz = (0, some n) → gives (.dopen g th w) 0 (fun u => (dspOf u site).rounds = x.rounds ++ [n] ∧ (dspOf u site).seq = x.seq + 1
        ∧ (dspOf u site).pins = x.pins ++ roundPins n ∧ rd u (dspB site + R.DSP_CNT_ROUNDS) = satAdd (rd s (dspB site + R.DSP_CNT_ROUNDS)) 1))
      ∧ (∀ st, openRound s site r m k pz = (st, none) → st ≠ 0 → SourceOff s (dspR site) dCfg → gives (.dopen g th w) st (fun u =>
          dspOf u site = x ∧ bit (rd u (dspB site + R.PG_FLT)) dCfg = true)))
    ∧ (good shDlogit → runs → logitWaits s g (op 0x81) = false → ∀ n, x.round (bits b 43 40) = some n → logitBad b n = false →
      (∀ i, i ≤ bits b 19 10 → engEaOk s g (((op 0x81).a + i * bits b 35 20) % 2 ^ 64) (n.experts.length * esz (bits b 36 36)) 1 = true
        ∧ ∃ l, logitRow s g n.experts.length (op 0x81) i = some l ∧ ∀ v ∈ l, (f32 v).isNan = false) →
      Completes (.dlogit g th w) s (fun u => thr u g th = t.next ∧ ∃ n', (dspOf u site).round (bits b 43 40) = some n'
        ∧ (∀ i, i ≤ bits b 19 10 → SMap.find (bits b 9 0 + i) n'.logits = some (logitRow s g n.experts.length (op 0x81) i))
        ∧ (∀ k, k < bits b 9 0 ∨ bits b 9 0 + bits b 19 10 < k → SMap.find k n'.logits = SMap.find k n.logits)))
    ∧ (good shDspRd → bits b 63 32 = 0 → bits b 15 4 = 0 → eaSpace (op 0x83).a ≤ 1 → eaFault s g (op 0x83).a 160 1 = none → engRetries s (op 0x83).a 160 = false →
      let k := engNum s g [] (op 0x83).a 160
      let layer := bits b 31 16
      k.2 = false → gives (.dskip g th w) (if k.1 % 2 ^ 16 ≤ layer ∧ layer ≤ k.1 / 2 ^ 16 % 2 ^ 16 then k.1 / 2 ^ (256 + 64 * (b % 16)) % 2 ^ 64 else 0) (fun u => dspOf u site = x))
    ∧ (good shDspRd →
      let r := scanRange (op 0x84)
      let first := b % 2 ^ 32
      let last := max first (min (b / 2 ^ 32 % 2 ^ 32) (first + 65536))
      let d := engNum s g [] r.1 r.2
      let set (p : Nat) : Prop := bit d.1 (p - first / 8 * 8) = true
      engRetries s r.1 r.2 = false → r.2 = 0 ∨ (eaSpace r.1 ≤ 1 ∧ eaFault s g r.1 r.2 1 = none) → d.2 = false →
      ∀ v, first ≤ v → v ≤ last → (∀ p, first ≤ p → p < v → ¬ set p) → (v < last → set v) → gives (.bmscan g th w) v (fun u => dspOf u site = x))

/-- R240: whatever the logits, no expert is given more choices than its capacity, no choice goes to an expert that is not valid, a token's choices
go to different experts of its ranking, and an expert's choices take its slots from 0 on.
Choices of the model: log 33. -/
def Obligations.PlacementBounds : Prop :=
  ∀ (r : Round),
    let p := placeAll r
    (∀ e, 0 < p.load e → ∃ x, r.experts[e]? = some x ∧ x.valid = true ∧ p.load e ≤ x.cap)
    ∧ (∀ c ∈ p.choices, c.tok < r.tokens ∧ c.idx < r.k ∧ c.exp ∈ ranked r c.tok ∧ r.skips c.tok = false)
    ∧ (∀ c ∈ p.choices, ∀ d ∈ p.choices, c.tok = d.tok → c.exp = d.exp → c = d)
    ∧ (∀ e, ((p.choices.filter (·.exp = e)).map (·.slot)) = List.range (p.load e))

/-- R241 to R249, R253, R263: the dispatch unit's work on a round: placement, a batch to the next expert with the signal to its core, a return, a
token's combined row, completion with the done signal, and how a return or a round is given up.
R248, R249, R255 to R257, R263: what waits at a dispatch port is tried again or given up; a prefetch request pins its line, and an unpin request
releases it.
Choices of the model: log 33, log 35. -/
def Obligations.DispatchRounds : Prop :=
  (∀ (s : State) (site h : Nat) (r : Round), Calm s → site < 64 → h < 16 → r.layer < 2 ^ 16 → (dspOf s site).round h = some r → dspWorks s site = true →
    let x := dspOf s site
    let b := dspB site
    let plus (u : State) (off n : Nat) : Prop := rd u (b + off) = satAdd (rd s (b + off)) n
    let signals (g k : Nat) : Prop := takesSignal s g = true ∧ tok s g k + 1 ≤ 65535 ∧ SMap.get [] (thrKey g k) s.tokq = [] ∧ g < 4096 ∧ k < 64
    let p := placeAll r
    (r.state = 1 → (∀ t, t < r.tokens → r.skips t = true ∨ (SMap.find t r.logits).isSome = true) → Completes (.placement site h) s (fun u =>
      (dspOf u site).round h = some { r with state := 2, choices := p.choices, spills := p.spills, unplaced := p.unplaced, time := s.now }
      ∧ plus u R.DSP_CNT_SPILL p.spills ∧ plus u R.DSP_CNT_UNPLACED p.unplaced))
    ∧ (∀ e d, r.state = 2 → nextExpert r = some (e, d) → pgState s ⟨.TILE, d.home / 64⟩ ≠ stRETIRED → reachRange s d.inBase (64 + (r.of e).length * r.xBytes) ≠ .retry →
      (∀ c ∈ r.of e, reachRange s ((r.xBase + c.tok * r.xPitch) % 2 ^ 41) r.xBytes = .ok ∧ rangePoison s ((r.xBase + c.tok * r.xPitch) % 2 ^ 41) r.xBytes = false) →
      signals d.home d.tok → prevRead x r d = true → d.inBase % 32 = 0 → d.inBase + 64 + (r.of e).length * r.xBytes ≤ 2 ^ 41 → (∀ k, d.inBase ≤ k → k < d.inBase + 64 → reach s k = .ok) →
      rangePoison s d.inBase 64 = false → Completes (.expertBatchSend site h) s (fun u => (dspOf u site).round h = some { r with sent := r.sent ++ [e], time := s.now }
        ∧ tok u d.home d.tok = tok s d.home d.tok + 1 ∧ plus u R.DSP_CNT_OUT (r.of e).length
        ∧ (((r.of e).map (·.slot)) = List.range (r.of e).length → memBytes u d.inBase 64 = batchHeader site r e)))
    ∧ (∀ t, r.state = 2 → t < r.tokens → t ∉ r.written → r.bad t = false ∨ r.skips t = true → (∀ c ∈ tokenChoices r t, c.exp ∈ r.returned
        ∧ reachRange s (resultRow r c) (r.width * esz r.rfmt) = .ok ∧ (devNum s [] (resultRow r c) (r.width * esz r.rfmt)).2 = false) →
      (∀ k, r.out t ≤ k → k < r.out t + r.width * esz r.ofmt → reach s k = .ok) → rangePoison s (r.out t) (r.width * esz r.ofmt) = false → 0 < r.width → r.out t + r.width * esz r.ofmt ≤ 2 ^ 41 →
      Completes (.tokenCombine site h t) s (fun u => (dspOf u site).round h = some { r with written := r.written ++ [t], time := s.now }
        ∧ memBytes u (r.out t) (r.width * esz r.ofmt)
          = combineRow r (weights r t (tokenChoices r t)) ((tokenChoices r t).map (fun c => (devNum s [] (resultRow r c) (r.width * esz r.rfmt)).1))
        ∧ plus u R.DSP_CNT_IN (tokenChoices r t).length))
    ∧ (r.state = 2 → r.written.length = r.tokens → nextExpert r = none → pgState s ⟨.TILE, r.doneCore / 64⟩ ≠ stRETIRED → signals r.doneCore r.doneTok →
      Completes (.roundComplete site h) s (fun u => (dspOf u site).round h = none ∧ (dspOf u site).rounds = x.rounds.filter (·.handle ≠ h)
        ∧ tok u r.doneCore r.doneTok = tok s r.doneCore r.doneTok + 1 ∧ rd u (b + R.DSP_RND_B h) = r.seq % 2 ^ 16))
    ∧ (∀ g i o, (portOf s g).drets[i]? = some o → dretReady s g o = true → bits o.b 17 12 = site → bits o.b 63 34 = 0 → bits o.b 11 8 = h → siteEnabled s site = true →
      bits o.b 33 18 = r.seq % 2 ^ 16 → r.state = 2 → bits o.b 7 0 ∈ r.sent → bits o.b 7 0 ∉ r.returned → Completes (.dretArrival g i) s (fun u =>
        (portOf u g).drets = (portOf s g).drets.eraseIdx i ∧ (dspOf u site).round h = some { r with returned := r.returned ++ [bits o.b 7 0], time := s.now }))
    ∧ (∀ o arg, Accepted s o (dspR site) 0x10 arg → arg = h → Completes (.roundAbort o site arg) s (fun u => Taken s u o (dspR site) 0x10 arg 2
        ∧ (dspOf u site).round h = none ∧ plus u R.DSP_CNT_ABORTS 1 ∧ fld u (b + R.DSP_LAST_ABORT) 31 24 = 0xFE))
    ∧ (∀ g, g / 64 = site → r.state = 2 → r.time + dspLimit s site ≤ s.now → SourceOff s (dspR site) dDma → Completes (.dspTimeoutExpiry g h false) s (fun u =>
        (dspOf u site).round h = none ∧ bit (rd u (b + R.PG_FLT)) dDma = true ∧ plus u R.DSP_CNT_ABORTS 1 ∧ fld u (b + R.DSP_LAST_ABORT) 31 24 = dDma)))
  ∧ (∀ (s : State) (g : Nat), Calm s → g < 4096 →
    let site := g / 64
    let x := portOf s g
    let ends (u : State) (o : EOp) (v : Option Nat) : Prop := (thr s g o.th).state ≠ tFREE → (thr s g o.th).own = o.own → 0 < (thr s g o.th).eng → (thr s g o.th).wait = .none →
      thr u g o.th = match v with
        | some v => { (thr s g o.th).put o.rd v false with pend := (thr s g o.th).pend.erase o.rd, eng := (thr s g o.th).eng - 1 }
        | none => { thr s g o.th with eng := (thr s g o.th).eng - 1 }
    (∀ i o, x.drets[i]? = some o → dretReady s g o = true → o.time + dspLimit s site ≤ s.now → SourceOff s (dspR site) dRet → Completes (.dretNotAccepted g i) s (fun u =>
      (portOf u g).drets = x.drets.eraseIdx i ∧ ends u o none ∧ bit (rd u (dspB site + R.PG_FLT)) dRet = true))
    ∧ (∀ o, x.q = [o] → o.op = 0x80 → o.th < 64 → o.time + dspLimit s site ≤ s.now → dspTakes s site 0x80 = true → SourceOff s (dspR site) dCfg →
      Completes (.dspTimeoutExpiry g 0 true) s (fun u => (portOf u g).q = [] ∧ ends u o (some 6) ∧ bit (rd u (dspB site + R.PG_FLT)) dCfg = true))
    ∧ (∀ o, x.q = [o] → o.op = 0x83 → o.th < 64 → (∀ k, k / 64 = site → k ≠ g → (portOf s k).q = []) → bits o.b 63 32 = 0 → bits o.b 15 4 = 0 → eaSpace o.a ≤ 1 →
      eaFault s g o.a 160 1 = none → engRetries s o.a 160 = false → (engNum s g [] o.a 160).2 = false → bits o.b 31 16 < (engNum s g [] o.a 160).1 % 2 ^ 16 →
      Completes (.dspRetry site) s (fun u => (portOf u g).q = [] ∧ ends u o (some 0)))
    ∧ (∀ i p, (dspOf s site).pins[i]? = some p → p.pinned = none → p.n = 1 → reach s (p.line * 256) = .ok → rangePoison s (p.line * 256) 256 = false →
      (leafOf s p.core).line p.line = none → (leafOf s p.core).lines.length < cacheLines s p.core → pinnedLines (leafOf s p.core) + 1 ≤ cacheLines s p.core / 2 →
      Completes (.prefetchRequest site i) s (fun u => (dspOf u site).pins = (dspOf s site).pins.set i { p with pinned := some 1 }
        ∧ (leafOf u p.core).line p.line = some { addr := p.line, st := .pinned, data := memNum s (p.line * 256) 256 }
        ∧ rd u (dspB site + R.DSP_CNT_PF_PIN) = satAdd (rd s (dspB site + R.DSP_CNT_PF_PIN)) 1))
    ∧ (∀ i p n q, (dspOf s site).pins[i]? = some p → p.pinned = some n → p.unpin = some q → Completes (.unpinRequest site i) s (fun u =>
        (dspOf u site).pins = (dspOf s site).pins.filter (· ≠ p) ∧ (∀ y ∈ (leafOf u p.core).lines, p.line ≤ y.addr → y.addr < p.line + p.n → y.st ≠ .pinned)
        ∧ (q = true → rd u (dspB site + R.DSP_CNT_PF_SQUASH) = satAdd (rd s (dspB site + R.DSP_CNT_PF_SQUASH)) n)))
    ∧ (∀ o arg, Accepted s o (dspR site) 0x11 arg → Completes (.pinReleaseAll o site arg) s (fun u => Taken s u o (dspR site) 0x11 arg 2
        ∧ (dspOf u site).pins = (dspOf s site).pins.map (fun y => if y.unpin.isNone then { y with unpin := some false } else y))))

/-- R271 to R273, R275: a slice request joins its channel's queue with the class of its source; an access to a dead DPA of a site that is not
enabled opens a counting window or is counted in it, and a window with no further access closes after 1 ms.
R277 to R282: a scheduling window serves the request that waits and sets the throttle's allowance from the temperature; requests age; a row
closes after 200 ns; the heavy band is left when the stack has been cool for 10 ms.
Choices of the model: log 35, log 36. -/
def Obligations.SliceRequests : Prop :=
  (∀ (s : State), Calm s →
    (∀ (o : Origin) (g off n src val : Nat) (wr : Bool) (e1 e2 : List (Nat × Nat)),
      let c := chanAt s g (chanOf off)
      let r : Req := { cls := reqClass s g src wr, off := off, n := n, wr := wr, add := src = 2, data := val, org := orgWord o, time := s.now, e1 := e1, e2 := e2 }
      pgState s (slcR g) ∉ [stOFF, stFAULT, stRETIRED] → chState s g (chanOf off) ≠ 6 → c.queue.length < 128 →
      Completes (.sliceRequest o g off n src wr val e1 e2) s (fun u =>
        chanAt u g (chanOf off) = { c with queue := c.queue ++ [{ r with left := r.cost }] }
        ∧ (∀ j, j ≠ chanOf off → chanAt u g j = chanAt s g j) ∧ Apart (fun x => { x with slc := [] }) [] s u))
    ∧ (∀ (o : Origin) (d : Nat) (rw : Bool), reach s d = .dead →
      (siteEnabled s (dpaSite d) = true → Completes (.deadDpaAccess o d rw) s (fun u => u.deadWin = s.deadWin ∧ Apart id [] s u))
      ∧ (siteEnabled s (dpaSite d) = false → SMap.find (dpaSite d) s.deadWin = none → Completes (.deadDpaAccess o d rw) s (fun u =>
          SMap.find (dpaSite d) u.deadWin = some { opened := s.now }))
      ∧ (∀ x, siteEnabled s (dpaSite d) = false → SMap.find (dpaSite d) s.deadWin = some x → 0 < x.count → Completes (.deadDpaAccess o d rw) s (fun u =>
          SMap.find (dpaSite d) u.deadWin = some { x with count := x.count + 1 })))
    ∧ (∀ (site : Nat) (x : DeadWin), SMap.find site s.deadWin = some x → x.opened + 1000000 ≤ s.now →
      Completes (.slcDeadDpaWindow site) s (fun u => SMap.find site u.deadWin = if x.count = 0 then none else some { opened := s.now })))
  ∧ (∀ (s : State) (g k : Nat), Calm s → g < 4096 → k < 8 →
    let c := chanAt s g k
    let t := stackT s g
    let band := bandOf (fld s (slcB g + R.SLC_THROTTLE) 15 14) t
    let fast := fld s (slcB g + R.CH_STATUS k) 25 25 = 1
    let allow := if fast then allowOf band t else allowOf band t * 240 / 320
    (∀ r, pgState s (slcR g) = stRUN → chServes s g k = true → c.queue = [r] → c.sap = 0 → (∀ j, j < 8 → j ≠ k → (chanAt s g j).queue = []) →
      sapHolds s g k r.off = false → 0 < allow → r.wr = true → r.add = false → r.n = 32 → r.off % 32 = 0 → r.off < 2 ^ 29 → r.left = 1 → r.cls < 4 →
      Completes (.schedulerWindow g) s (fun u => (chanAt u g k).queue = [] ∧ memBytes u (dpaOf g r.off) 32 = toBytes 32 r.data
        ∧ (∀ d, d < dpaOf g r.off ∨ dpaOf g r.off + 32 ≤ d → memByte u d = memByte s d) ∧ cwPoison u (dpaOf g r.off / 32) = false
        ∧ rd u (slcB g + R.CH_CNT_WR k) = satAdd (rd s (slcB g + R.CH_CNT_WR k)) 1
        ∧ rd u (slcB g + R.SLC_THROTTLE) = (wrap 16 t * 2 ^ 16 + band * 2 ^ 14 + allowOf band t) % 2 ^ 32))
    ∧ Completes (.requestAged g k) s (fun u => Apart (fun x => { x with slc := [] }) [] s u ∧ chanAt u g k
        = { c with queue := c.queue.map (fun r => if r.time + 100 * fld s (slcB g + R.SLC_AGE_LIMIT) 7 0 ≤ s.now then { r with aged := true } else r) })
    ∧ (∀ bank, Completes (.rowCloseTimeout g k bank) s (fun u => Apart (fun x => { x with slc := [] }) [] s u
        ∧ chanAt u g k = { c with rows := c.rows.filter (fun r => !(r.1 = bank && decide (r.2.2 + 200 ≤ s.now))) }))
    ∧ (∀ a, fld s (slcB g + R.SLC_THROTTLE) 15 14 = 2 → t < 376 → (slcOf s g).cool = some a → a + 10000000 ≤ s.now →
      Completes (.throttleBandRelease g) s (fun u => fld u (slcB g + R.SLC_THROTTLE) 15 14 = (if 360 ≤ t then 1 else 0) ∧ slcOf u g = slcOf s g)))

/-- R283 to R286, R316: a refresh that falls due is issued, postponed where its bank is wanted and no more than four are owed, or forced; a layer
cool for 10 ms goes one refresh band slower; a sideband silent for 1 ms breaks its sensor (R301).
Choices of the model: log 36. -/
def Obligations.SliceRefresh : Prop :=
  ∀ (s : State) (g k : Nat), Calm s → g < 4096 → k < 8 →
    let c := chanAt s g k
    let d := (c.debt.lookup c.due).getD 0
    let wanted := fld s (slcB g + R.SLC_CTRL) 1 1 = 1 ∧ (bankWanted c c.due = true ∨ c.due ∈ (unitOf s g k).banks)
    let paid : Chan := { c with due := (c.due + 1) % 16, debt := c.debt.filter (·.1 ≠ c.due) }
    let plus (u : State) (off n : Nat) : Prop := rd u (slcB g + off) = satAdd (rd s (slcB g + off)) n
    (pgState s (slcR g) ∉ [stOFF, stRETIRED] →
      (¬ wanted → Completes (.refreshDue g k false) s (fun u => chanAt u g k = paid ∧ plus u (R.CH_CNT_REF k) (d + 1) ∧ Apart (fun x => { x with slc := [] }) [slcR g] s u))
      ∧ (wanted → d < 4 → Completes (.refreshDue g k false) s (fun u => chanAt u g k = { c with due := (c.due + 1) % 16, debt := SMap.put c.due (d + 1) c.debt }
          ∧ plus u (R.CH_CNT_POSTPONE k) 1 ∧ Apart (fun x => { x with slc := [] }) [slcR g] s u))
      ∧ (wanted → 4 ≤ d → Completes (.refreshDue g k false) s (fun u => chanAt u g k = paid ∧ plus u (R.CH_CNT_FORCED k) 1 ∧ plus u (R.CH_CNT_REF k) 5
          ∧ (c.due ∈ (unitOf s g k).banks → (unitOf u g k).susp = true))))
    ∧ (∀ a, let cur := fld s (slcB g + R.CH_STATUS k) 27 26
      0 < cur → layerBlind s g k = false → layerT s g k ≤ (if cur = 2 then 372 else 332) → c.calm = some a → a + 10000000 ≤ s.now →
      Completes (.refreshBandRelease g k) s (fun u => fld u (slcB g + R.CH_STATUS k) 27 26 = cur - 1 ∧ chanAt u g k = { c with calm := none }
        ∧ chState u g k = chState s g k))
    ∧ (let site := g / 64
      let n := dramSens k (quadOf (g % 64))
      siteEnabled s site = true → n ∉ (tthOf s site).lostSb → sensBroken s site n = false → ((tthOf s site).last.lookup n).getD 0 + 1000000 ≤ s.now → SourceOff s (tthR site) 2 →
      Completes (.slcSidebandLost g k) s (fun u => n ∈ (tthOf u site).lostSb ∧ sensBroken u site n = true))

/-- R287 to R298, R559: retraining by lane groups begins, goes on wire group by wire group, steers a wire whose eye is too small and ends; a hold
ends or fails the channel; validation takes a site's channels to the full rate.
Choices of the model: log 36. -/
def Obligations.Retraining : Prop :=
  ∀ (s : State) (g k : Nat), Calm s → g < 4096 → k < 8 →
    let c := chanAt s g k
    let begins (u : State) : Prop := (chanAt u g k).rt = some { f := c.free, began := s.now, gAt := s.now } ∧ chState u g k = 4
    let may : Prop := pgState s (slcR g) ∈ [stIDLE, stRUN, stHALT] ∧ chServes s g k = true ∧ c.rt = none ∧ 0 < c.free
    (∀ wire eye r, c.rt = some r → pgState s (slcR g) ≠ stFAULT → wire < 72 → eye < r.eye → eye < 256 → 39 ≤ eye → c.toSteer = [] → 0 < c.free → 0 < r.f →
      let pos := (r.pos / r.f + 1) * r.f
      let seen (u : State) : Prop := rd u (slcB g + R.CH_MARGIN k) = wire * 256 + eye ∧ rd u (slcB g + R.CH_CNT_RT_GROUP k) = satAdd (rd s (slcB g + R.CH_CNT_RT_GROUP k)) 1
      (pos < 72 → Completes (.laneGroupRetrain g k wire eye) s (fun u => seen u
        ∧ chanAt u g k = { c with rt := some { r with wire := wire, eye := eye, pos := pos, f := c.free, gAt := s.now } }))
      ∧ (72 ≤ pos → c.again = none → Completes (.laneGroupRetrain g k wire eye) s (fun u => seen u ∧ (chanAt u g k).rt = none
          ∧ chState u g k = chServing s g k ∧ rd u (slcB g + R.CH_RT_LAST k) = s.now / 1000000 % 2 ^ 32)))
    ∧ (∀ wire eye r, c.rt = some r → pgState s (slcR g) ≠ stFAULT → wire < 72 → eye < 39 → c.toSteer = [] → c.steer = [] → (r.pos / r.f + 1) * r.f < 72 →
      Completes (.laneGroupRetrain g k wire eye) s (fun u => (chanAt u g k).steer = [(0, wire)] ∧ (chanAt u g k).rt.map (·.f) = some (c.free - 1)
        ∧ rd u (fusB + R.FUS_CNT_STEER) = satAdd (rd s (fusB + R.FUS_CNT_STEER)) 1))
    ∧ (may → rtAuto s g = true → 0 < fld s (slcB g + R.SLC_RT_PERIOD) 11 0 →
      1000 * fld s (slcB g + R.SLC_RT_PERIOD) 11 0 ≤ (s.now / 1000000 + 2 ^ 32 - rd s (slcB g + R.CH_RT_LAST k)) % 2 ^ 32 → Completes (.retrainPeriodExpiry g k) s begins)
    ∧ (∀ wire eye, may → rtAuto s g = true → eye < 52 → wire < 256 → Completes (.eyeMarginLow g k wire eye) s (fun u => begins u ∧ rd u (slcB g + R.CH_MARGIN k) = wire * 256 + eye))
    ∧ (∀ o arg, Accepted s o (slcR g) 0x10 arg → arg = k → may → Completes (.retrain o g arg) s (fun u => Taken s u o (slcR g) 0x10 arg 2 ∧ begins u))
    ∧ (∀ h, c.hold = some (h, 0) → Completes (.fullChannelRetrain g k true) s (fun u => (chanAt u g k).hold = none ∧ chState u g k = chServing s g k
        ∧ rd u (slcB g + R.CH_RT_LAST k) = s.now / 1000000 % 2 ^ 32))
    ∧ (∀ h y, c.hold = some (h, y) → h + 50000 ≤ s.now → chState s g k ≠ 6 → SourceOff s (slcR g) 0 → Completes (.holdTimeout g k) s (fun u => chState u g k = 6
        ∧ (chanAt u g k).queue = [] ∧ (chanAt u g k).hold = none ∧ bit (rd u (slcB g + R.PG_FLT)) 0 = true
        ∧ (siteEnabled s (g / 64) = true → s.fus.now.map (·.1) ≠ some (g / 64) → g / 64 ∈ u.fus.retire.map (·.1))))
    ∧ (∀ bad n, inService s (g / 64) = true → (SMap.find (g / 64) s.boot.val).getD 0 = k → g % 64 ∉ bad → chState s g k = 2 → SourceOff s ⟨.EVQ, 0⟩ 0 →
      Completes (.pollardValidation (g / 64) bad n) s (fun u => chState u g k = 3 ∧ fld u (slcB g + R.CH_STATUS k) 25 25 = 1 ∧ SMap.find (g / 64) u.boot.val = some (k + 1)))

/-- R586, R588 to R605: the scrubber reads the next granule; a row that triggers is remapped into a spare, or its channel fails; a retirement goes
through its steps; a promotion waits and is begun; and the commands of the FUS page.
Choices of the model: log 37, log 46. -/
def Obligations.Repair : Prop :=
  ∀ (s : State) (g k : Nat), Calm s → g < 4096 → k < 8 →
    let c := chanAt s g k
    (∀ e1 e2 bad, scrubPaused s g k = false → c.queue.length < 128 → (c.ca + 256) % 2 ^ 26 ≠ 0 → Completes (.scrubGranule g k e1 e2 bad) s (fun u =>
      (∃ n, chanAt u g k = { c with ca := (c.ca + 256) % 2 ^ 26, queue := c.queue ++ [{ cls := 3, off := offOfCa k c.ca, n := 256, scrub := true, time := s.now, e1 := e1, e2 := e2, left := n }] })
      ∧ Apart (fun x => { x with slc := [] }) [] s u))
    ∧ (∀ w l p, c.waiting = w :: l → c.hold = none → chState s g k ≠ 6 → remapPlan c w.1 w.2 = some p → w.1 < 16 → w.2 < 4096 → w ∉ l →
      Completes (.rowRemap g k [] []) s (fun u => (chanAt u g k).rmap = SMap.put p.1 p.2.2 c.rmap ∧ (chanAt u g k).waiting = l
        ∧ rd u (fusB + R.FUS_CNT_REMAP) = satAdd (rd s (fusB + R.FUS_CNT_REMAP)) 1 ∧ ∀ d, memByte u d = memByte s d))
    ∧ (∀ w l, c.waiting = w :: l → c.hold = none → chState s g k ≠ 6 → remapPlan c w.1 w.2 = none → SourceOff s fusR 1 → Completes (.rowRemap g k [] []) s (fun u =>
        chState u g k = 6 ∧ (chanAt u g k).waiting = l ∧ (chanAt u g k).queue = [] ∧ bit (rd u (fusB + R.PG_FLT)) 1 = true))
    ∧ (∀ e l, s.fus.now = none → s.fus.retire = e :: l → e.1 < 64 → Completes (.tileRetirement true) s (fun u => u.fus.now = some (e.1, e.2, 1) ∧ fenced u e.1 = true))
    ∧ (∀ site cause n, s.fus.now = some (site, cause, 2 + 16 * n) → site < 64 → SourceOff s fusR 2 → Completes (.tileRetirement true) s (fun u => phys u site = 3
        ∧ siteEnabled u site = false ∧ fenced u site = false ∧ u.fus.now = some (site, cause, 3)))
    ∧ (∀ site cause n, s.fus.now = some (site, cause, 2 + 16 * n) → SourceOff s fusR 3 → Completes (.tileRetirement false) s (fun u => u.fus = s.fus
        ∧ phys u site = phys s site ∧ bit (rd u (fusB + R.PG_FLT)) 3 = true))
    ∧ (∀ l, s.fus.waiting = (255, none) :: l → s.boot.waves = [] → dormantSites s = [] → Completes .coppicePromotion s (fun u => u.fus.waiting = l ∧ promoted u = promoted s))
    ∧ (∀ x l, s.fus.waiting = (255, some x) :: l → s.boot.waves = [] → x < 64 → phys s x = 1 → mayPromote s = true → promoted s < 65535 → Completes .coppicePromotion s (fun u =>
        u.fus.waiting = l ∧ u.fus.coming = some (x, 255) ∧ promoted u = promoted s + 1 ∧ phys u x = 0))
    ∧ (∀ o arg, Accepted s o fusR 0x10 arg → s.fus.now = none → Completes (.retire o arg) s (fun u => Taken s u o fusR 0x10 arg 2 ∧ arg % 64 ∈ u.fus.retire.map (·.1)))
    ∧ (∀ o arg, Accepted s o fusR 0x11 arg → mayPromote s = true → coppiceArg arg = some (arg % 64) → phys s (arg % 64) = 1 → Completes (.coppice o arg) s (fun u =>
        Taken s u o fusR 0x11 arg 2 ∧ u.fus.waiting = s.fus.waiting ++ [(255, some (arg % 64))]))
    ∧ (∀ o arg p, Accepted s o fusR 0x12 arg → fusSel s = (g, k) → remapPlan c (arg / 4096 % 16) (arg % 4096) = some p → arg < 65536 →
      Completes (.remapRow o arg) s (fun u => Taken s u o fusR 0x12 arg 2 ∧ (chanAt u g k).rmap = SMap.put p.1 p.2.2 c.rmap))
    ∧ (∀ o arg, Accepted s o fusR 0x13 arg → fusSel s = (g, k) → arg < 72 → c.steer = [] → c.rt = none → Completes (.steerWire o arg) s (fun u =>
        Taken s u o fusR 0x13 arg 2 ∧ (chanAt u g k).steer = [(0, arg)]))

/-- R304 to R309, R319: a sap micro-instruction that computes writes its one result register, poison where a register it read is poison, and the
unit goes on behind it; x0 discards, and nothing else changes.
Choices of the model: log 13, log 47, log 48. -/
def Obligations.SapArithmetic : Prop :=
  ∀ (s : State) (g k : Nat),
    let u := unitOf s g k
    let w := u.word
    let d := sD w
    let a := u.gx (sA w)
    let b := u.gx (sB w)
    let va := u.gv (sA w)
    let vb := u.gv (sB w)
    let pa := u.px (sA w)
    let pab := u.px (sA w) || u.px (sB w)
    let x (op : Nat) (i : Instr) (v : Nat) (pz : Bool) : Prop := AtMicro s g k op → Completes i s (fun t => SetsX s t g k d v pz)
    let v (op : Nat) (i : Instr) (r : Nat) (pz : Bool) : Prop := AtMicro s g k op → Completes i s (fun t => SetsV s t g k d r pz)
    (AtMicro s g k 0x00 → Completes (.sapNop g k) s (fun t => unitOf t g k = u.next ∧ UnitOnly s t g k []))
    ∧ x 0x08 (.addi g k) (wrap 32 (a + sImm w)) pa ∧ x 0x09 (.sapAdd g k) ((a + b) % 2 ^ 32) pab ∧ (b < 2 ^ 32 → x 0x0A (.sapSub g k) (wrap 32 ((a : Int) - b)) pab)
    ∧ x 0x0B (.sapMul g k) (a * b % 2 ^ 32) pab ∧ x 0x0C (.shli g k) (a * 2 ^ bits w 4 0 % 2 ^ 32) pa ∧ x 0x0D (.shri g k) (a / 2 ^ bits w 4 0 % 2 ^ 32) pa
    ∧ x 0x0E (.andi g k) (a &&& sUImm w) pa ∧ x 0x0F (.ori g k) ((a ||| sUImm w) % 2 ^ 32) pa ∧ x 0x10 (.lui g k) (sUImm w * 2 ^ 15 % 2 ^ 32) false
    ∧ x 0x11 (.arg g k) ((u.args[sUImm w]?).getD 0 % 2 ^ 32) false
    ∧ x 0x12 (.sys g k) ((match sUImm w with | 0 => k | 1 => g | 2 => g / 64 | _ => ((callOf s g u.call).map (fun c => bits c.op.b 18 8)).getD 0) % 2 ^ 32) false
    ∧ x 0x13 (.offs g k) (offOfCa k a % 2 ^ 32) pa
    ∧ x 0x14 (.fop g k) ((match sSub w with
        | 0 => add32 a b | 1 => sub32 a b | 2 => mul32 a b | 3 => toF32 ((f32 a).zmax (f32 b)) | 4 => toF32 ((f32 a).zmin (f32 b))
        | 5 => Approx.recip32 a | 6 => Approx.rsqrt32 a | 7 => toF32 (.ofInt (sext 32 a)) | _ => toInt32 a) % 2 ^ 32) (if sSub w < 5 then pab else pa)
    ∧ v 0x20 (.vadd g k) (lane2 (sT w) Sys2Proof.Num.add (fun m n => m + n) va vb) (u.pv (sA w) || u.pv (sB w))
    ∧ v 0x21 (.vsub g k) (lane2 (sT w) (fun m n => m.add n.neg) (fun m n => m + (2 ^ 32 - n)) va vb) (u.pv (sA w) || u.pv (sB w))
    ∧ v 0x22 (.vmul g k) (lane2 (sT w) Sys2Proof.Num.mul (fun m n => m * n) va vb) (u.pv (sA w) || u.pv (sB w))
    ∧ v 0x23 (.vfma g k) (laneFma (sT w) va vb (u.gv (sC w))) (u.pv (sA w) || u.pv (sB w) || u.pv (sC w))
    ∧ v 0x24 (.vmax g k) (lane2 (sT w) Sys2Proof.Num.zmax imax va vb) (u.pv (sA w) || u.pv (sB w))
    ∧ v 0x25 (.vmin g k) (lane2 (sT w) Sys2Proof.Num.zmin imin va vb) (u.pv (sA w) || u.pv (sB w))
    ∧ v 0x26 (.vmuls g k) (laneS (sT w) Sys2Proof.Num.mul va b) (u.pv (sA w) || u.px (sB w)) ∧ v 0x27 (.vadds g k) (laneS (sT w) Sys2Proof.Num.add va b) (u.pv (sA w) || u.px (sB w))
    ∧ v 0x28 (.vact g k) (laneAct (sT w) (sSub w) va) (u.pv (sA w))
    ∧ (sSub w < 2 → v 0x29 (.vcvt g k) (packF 0 ((((lanes16 va).drop (16 * sSub w)).take 16).map bf)) (u.pv (sA w)))
    ∧ (sSub w = 2 → v 0x29 (.vcvt g k) (packF 1 ((lanes32 va ++ lanes32 vb).map f32)) (u.pv (sA w) || u.pv (sB w)))
    ∧ (AtMicro s g k 0x29 → 3 ≤ sSub w → sSub w ≤ 6 → Completes (.vcvt g k) s (fun t => UnitOnly s t g k []
        ∧ let r := cvtPack (sSub w) ((quad (sA w)).flatMap (fun i => (lanes32 (u.gv i)).map f32))
          let pz := (quad (sA w)).any u.pv
          unitOf t g k = ((u.sv d r.1 pz).sx (sC w) r.2 pz).next))
    ∧ (AtMicro s g k 0x29 → sSub w = 7 → Completes (.vcvt g k) s (fun t => UnitOnly s t g k []
        ∧ (∀ i, i < 4 → (unitOf t g k).gv (d + i) = ((cvtOpen va (u.gx (sC w)))[i]?).getD 0 % 2 ^ 512 ∧ (unitOf t g k).pv (d + i) = (u.pv (sA w) || u.px (sC w)))
        ∧ ∀ r, r < d ∨ d + 4 ≤ r → (unitOf t g k).gv r = u.gv r))
    ∧ v 0x2A (.vins g k) (setBits (u.gv d) (32 * sSub w + 31) (32 * sSub w) a) (u.pv d || pa)
    ∧ x 0x2B (.vext g k) (va / 2 ^ (32 * sSub w) % 2 ^ 32) (u.pv (sA w))
    ∧ x 0x2C (.pacc g k) (pacc (sSub w) (u.gx d) (lanesF (sT w) va) % 2 ^ 32) (u.px d || u.pv (sA w))

/-- R305, R306, R312 to R320, R321, R336: END and the jumps; loads and stores of a codeword pair through the unit's channel and the grant they
take; RSEND and RWAIT; and what stops a unit: a word that is not legal, a poisoned condition, a suspension, an atom that has run too long.
Choices of the model: log 35, log 47. -/
def Obligations.SapControl : Prop :=
  ∀ (s : State) (g k : Nat),
    let u := unitOf s g k
    let w := u.word
    let goes (op : Nat) (i : Instr) (P : Prop) (x : SapUnit) : Prop := AtMicro s g k op → P → Completes i s (fun t => unitOf t g k = x ∧ UnitOnly s t g k [])
    let whole : Prop := u.px (sA w) = false
    let a := u.gx (sA w)
    let mem (op : Nat) (i : Instr) (ca al : Nat) (P : State → SapUnit → Nat → Prop) : Prop :=
      let off := offOfCa k ca
      let fifth := !u.banks.contains (bankOf off) && decide (4 ≤ u.banks.length)
      let v : SapUnit := if fifth then u.bound else u
      AtMicro s g k op → whole → ca % al = 0 → ca < 2 ^ 26 → reach s (dpaOf g off) ∉ [.retry, .dead] → slotLeft s g k = true → ¬ (fifth = true ∧ suspPending s g k = true) →
      (∀ i, i < 4 → cwPoison s (dpaOf g off / 32 + i) = false) → Completes i s (fun t => (chanAt t g k).sap = (chanAt s g k).sap + 1
        ∧ P t { v with banks := if v.banks.contains (bankOf off) then v.banks else v.banks ++ [bankOf off] } (dpaOf g off))
    let stops (n : Nat) (i : Instr) : Prop := ∀ c, callOf s g u.call = some c → k ∈ c.live → u.pc < 2048 → SourceOff s (sapR g) n → Completes i s (fun t =>
      (unitOf t g k).state = 0 ∧ rd t (sapB g + R.SU_FINFO k) = n * 2 ^ 24 + u.pc ∧ bit (rd t (sapB g + R.PG_FLT)) n = true)
    (AtMicro s g k 0x01 → Completes (.sapEnd g k) s (fun t => unitOf t g k = { u.idle with edge := true } ∧ (∀ j, j ≠ k → unitOf t g j = unitOf s g j)
      ∧ rd t (sapB g + R.SU_FINFO k) = 0xFF * 2 ^ 24 ∧ Apart (fun x => { x with sap := [] }) [sapR g] s t
      ∧ (sapOf t g).calls = (sapOf s g).calls.map (fun c => if c.id = u.call then { c with ended := c.ended + 2 ^ k, poisoned := c.poisoned + (if u.met then 2 ^ k else 0) } else c)))
    ∧ goes 0x02 (.sapBr g k) True (u.went (sTarget w))
    ∧ (let r := (a + (2 ^ 32 - 1)) % 2 ^ 32
      goes 0x03 (.sapLoop g k) whole (if r ≠ 0 then (u.sx (sA w) r false).went (sTarget w) else (u.sx (sA w) r false).next))
    ∧ goes 0x04 (.bnz g k) whole (if a ≠ 0 then u.went (sTarget w) else u.next) ∧ goes 0x05 (.bz g k) whole (if a = 0 then u.went (sTarget w) else u.next)
    ∧ mem 0x18 (.ldv g k [] []) ((a + 128 * sUImm w) % 2 ^ 32) 128 (fun t v dpa => t.mem = s.mem ∧ unitOf t g k
        = ((v.sv (sD w) (ofBytes (memBytes s dpa 64)) false).sv (sD w + 1) (ofBytes (memBytes s (dpa + 64) 64)) false).next)
    ∧ mem 0x1A (.ldb g k [] []) (wrap 32 (a + 4 * sImm w)) 4 (fun t v dpa => t.mem = s.mem ∧ unitOf t g k
        = (v.sv (sD w) (packBits 32 (List.replicate 16 (ofBytes (memBytes s dpa 4)))) false).next)
    ∧ (u.pv (sD w) = false → u.pv (sD w + 1) = false → mem 0x19 (.stv g k) ((a + 128 * sUImm w) % 2 ^ 32) 128 (fun t v dpa => unitOf t g k = v.next
        ∧ memBytes t dpa 64 = toBytes 64 (u.gv (sD w)) ∧ memBytes t (dpa + 64) 64 = toBytes 64 (u.gv (sD w + 1))
        ∧ ∀ d, d < dpa ∨ dpa + 128 ≤ d → memByte t d = memByte s d))
    ∧ (AtMicro s g k 0x2D → u.sent - u.got < 4 → ∀ c, callOf s g u.call = some c → c.dead = none → Completes (.rsend g k) s (fun t =>
        (unitOf t g k).sent = u.sent + 1 ∧ (unitOf t g k).pc = (u.pc + 1) % 2048 ∧ (unitOf t g k).state = 1
        ∧ (sapOf t g).parts = (sapOf s g).parts ++ [{ key := c.id, step := u.sent, src := k, op := sSub w, val := a, pz := u.px (sA w), time := s.now }]))
    ∧ goes 0x2D (.rsend g k) (4 ≤ u.sent - u.got) { u with state := 3 }
    ∧ (∀ r, u.back.find? (·.1 = u.got) = some r → AtMicro s g k 0x2E → Completes (.rwait g k) s (fun t => UnitOnly s t g k [] ∧ unitOf t g k
        = { (u.sx (sD w) r.2.1 r.2.2).next.bound with state := 1, got := u.got + 1, back := u.back.filter (·.1 ≠ u.got), met := u.met || r.2.2 }))
    ∧ goes 0x2E (.rwait g k) (u.back.find? (·.1 = u.got) = none) { u.bound with state := 3 }
    ∧ (AtMicro s g k (sOp w) → sOp w ∈ [0x03, 0x04, 0x05] → u.px (sA w) = true → (sOp w = 0x03 → stops sPoison (.sapLoop g k)) ∧ (sOp w = 0x04 → stops sPoison (.bnz g k)))
    ∧ (Calm s → g < 4096 → k < 8 → unitMay s g k = true → u.bad.contains u.pc = false → sLegal w = false → stops sIllegal (.sapIllegalInstruction g k))
    ∧ (Calm s → g < 4096 → k < 8 → u.state = 1 → suspPending s g k = true → (u.edge || u.past || u.banks.isEmpty) = true → Completes (.sapSuspend g k) s (fun t =>
        unitOf t g k = { u.bound with state := 2 } ∧ rd t (sapB g + R.SU_CNT_SUSP k) = satAdd (rd s (sapB g + R.SU_CNT_SUSP k)) 1 ∧ UnitOnly s t g k [sapR g]))
    ∧ (∀ age, Calm s → g < 4096 → k < 8 → u.state = 1 → u.banks ≠ [] → u.past = false → atomBudget s g k - 64 ≤ age → age < 65536 → Completes (.sapAtomOverrun g k age) s (fun t =>
        unitOf t g k = { u with past := true } ∧ rd t (sapB g + R.SU_CNT_OVERRUN k) = satAdd (rd s (sapB g + R.SU_CNT_OVERRUN k)) 1
        ∧ fld t (sapB g + R.SU_ATOM k) 31 16 = max age (fld s (sapB g + R.SU_ATOM k) 31 16) ∧ UnitOnly s t g k [sapR g]))

/-- R322 to R331, R335: a call starts on its units with its argument block, a load fills their stores, a wrong word completes without effect; a
call with no live unit reports its status; a reduction step combines and its result reaches its units; a step or call that takes too long, and
UNIT_ABORT, abort; UNIT_CALL enters the port; SU_PROG_DATA fills the store.
Choices of the model: log 49. -/
def Obligations.SapCalls : Prop :=
  ∀ (s : State) (g : Nat), Calm s → g < 4096 →
    let x := sapOf s g
    let heads (o : EOp) (l : List EOp) : Prop := x.port = o :: l ∧ sapWorks s g = true ∧ sapHalting s g = false ∧ SMap.find (sapB g) s.busy = none ∧ (∀ th, (thr s g th).wait ≠ .queue 5)
      ∧ (0x100 ≤ o.op ∨ (thr s g o.th).slots.all (fun m => !o.after.contains (m.pc, m.time)) = true)
    let full (ea n : Nat) : Prop := eaSpace ea ≤ 1 ∧ eaFault s g ea n 8 = none ∧ engRetries s ea n = false ∧ (engNum s g [] ea n).2 = false
    let ends (u : State) (c : SapCall) : Prop := (sapOf u g).calls = x.calls.filter (·.id ≠ c.id)
    let stops (u : State) (c : SapCall) (src : Nat) : Prop := ∀ k ∈ c.live, (unitOf u g k).state = 0 ∧ rd u (sapB g + R.SU_FINFO k) = src * 2 ^ 24 + (unitOf s g k).pc
    let small (c : SapCall) : Prop := callOf s g c.id = some c ∧ c.live ≠ [] ∧ (∀ k, (unitOf s g k).pc < 2048) ∧ cwRed c.op.b = false
    (∀ o l, heads o l → o.op = 0x90 → callWordOk g o = true → full o.a 64 → unitsIdle s g (o.b % 256) = true → groupCall s g (cwGrp o.b) = none →
      let args := (List.range 16).map (fun i => (engNum s g [] o.a 64).1 / 2 ^ (32 * i) % 2 ^ 32)
      Completes (.sapCallStart g) s (fun u => (sapOf u g).port = l ∧ (sapOf u g).calls = x.calls ++ [{ id := x.next, op := o, time := s.now, mask := o.b % 256, orphan := decide (o.own = sapLost) }]
        ∧ rd u (sapB g + R.SAP_CNT_CALLS) = satAdd (rd s (sapB g + R.SAP_CNT_CALLS)) 1
        ∧ ∀ k, k < 8 → if bit (o.b % 256) k then (unitOf u g k).state = 1 ∧ (unitOf u g k).pc = bits o.b 18 8 ∧ (unitOf u g k).args = args ∧ (unitOf u g k).call = x.next
            ∧ (unitOf u g k).sent = 0 ∧ (unitOf u g k).got = 0 ∧ (unitOf u g k).banks = [] ∧ (∀ r, (unitOf u g k).gx r = (unitOf s g k).gx r) ∧ rd u (sapB g + R.SU_ARG k 3) = (args[3]?).getD 0
          else unitOf u g k = unitOf s g k))
    ∧ (∀ o l, heads o l → o.op = 0x91 → callWordOk g o = true → full o.a (4 * (bits o.b 31 20 + 1)) → unitsIdle s g (o.b % 256) = true → Completes (.sapCallStart g) s (fun u =>
        (sapOf u g).port = l ∧ ∀ k, k < 8 → bit (o.b % 256) k = true → ∀ i, SMap.get 0 i (unitOf u g k).store =
          if bits o.b 18 8 ≤ i ∧ i ≤ bits o.b 18 8 + bits o.b 31 20 then (engNum s g [] o.a (4 * (bits o.b 31 20 + 1))).1 / 2 ^ (32 * (i - bits o.b 18 8)) % 2 ^ 32
          else SMap.get 0 i (unitOf s g k).store))
    ∧ (∀ o l, heads o l → callWordOk g o = false → SourceOff s (sapR g) sCallSeq → Completes (.sapCallStart g) s (fun u => (sapOf u g).port = l
        ∧ (sapOf u g).calls = x.calls ++ [{ id := x.next, op := o, time := s.now, mask := 0, tallied := true }] ∧ bit (rd u (sapB g + R.PG_FLT)) sCallSeq = true
        ∧ ∀ k, unitOf u g k = unitOf s g k))
    ∧ (∀ c, x.calls.find? (fun c => c.live.isEmpty) = some c → c.op.op = 0x90 → c.orphan = false →
      let t := thr s g c.op.th
      c.op.th < 64 → t.state ≠ tFREE → t.own = c.op.own → 0 < t.eng → t.wait = .none → bit c.op.b 19 = false →
      Completes (.sapCallCompletion g) s (fun u => ends u c
        ∧ thr u g c.op.th = { t.put c.op.rd (c.poisoned % 256 * 2 ^ 16 + c.aborted % 256 * 2 ^ 8 + c.ended % 256) false with pend := t.pend.erase c.op.rd, eng := t.eng - 1 }))
    ∧ (∀ c l grp, groupCall s g grp = some c → unitStep s g c = some l → cwRed c.op.b = false → Completes (.reductionStepCombine g grp false) s (fun u =>
        let m := (l.head?.map (·.step)).getD 0
        (sapOf u g).parts = x.parts.filter (fun p => !(!p.core && p.key = c.id && p.step = m)) ∧ (sapOf u g).units = x.units
        ∧ (sapOf u g).back = x.back ++ c.live.map (fun k => (k, m, redCombine ((l.head?.map (·.op)).getD 0) (!mixed l) (freeVal s) (l.map (·.val)), l.any (·.pz)))))
    ∧ (∀ k r, x.back.find? (·.1 = k) = some r → (unitOf s g k).state = 1 → Completes (.reductionResultArrival g k) s (fun u => (sapOf u g).back = x.back.erase r
        ∧ unitOf u g k = { unitOf s g k with back := (unitOf s g k).back ++ [r.2] }))
    ∧ (∀ c m grp, staleStep s g grp = some (c, m) → small c → SourceOff s (sapR g) sRedTime → Completes (.reductionStepTimeout g grp) s (fun u => stops u c sRedTime
        ∧ bit (rd u (sapB g + R.PG_FLT)) sRedTime = true))
    ∧ (∀ c, x.calls.find? (fun c => !c.live.isEmpty && decide (s.now ≥ c.time + 1000 * fld s (sapB g + R.SAP_TIMEOUT) 15 0)) = some c → small c → SourceOff s (sapR g) sCallTime →
      Completes (.sapCallTimeout g) s (fun u => stops u c sCallTime ∧ bit (rd u (sapB g + R.PG_FLT)) sCallTime = true))
    ∧ (∀ o arg, Accepted s o (sapR g) 0x10 arg → x.port.length < 8 → x.port.all (fun e => decide (e.op ≠ 0x100)) = true → x.calls.all (fun c => decide (c.op.op ≠ 0x100)) = true →
      Completes (.unitCall o g arg) s (fun u => Taken s u o (sapR g) 0x10 arg 2 ∧ ∃ b, SMap.find (sapB g) u.busy = some b ∧ b.op = 0x10 ∧ b.arg = arg
        ∧ (sapOf u g).port = x.port ++ [{ op := 0x100, th := 0, own := b.seq, b := unitCallWord arg, time := s.now }]))
    ∧ (∀ o arg c, Accepted s o (sapR g) 0x11 arg → x.calls = [c] → small c → c.live.any (bit arg) = true → (∀ k, bit arg k = true → k ∈ c.live) → arg < 256 →
      Completes (.unitAbort o g arg) s (fun u => Taken s u o (sapR g) 0x11 arg 2 ∧ stops u c 0xFE))
    ∧ (∀ o k val, k < 8 → Calm s → Free s o 1 → val < 2 ^ 32 → (unitOf s g k).state = 0 → judge s o (sapB g + R.SU_PROG_DATA k) 4 val = .apply val →
      Completes (.suProgDataWrite o g k val) s (fun u =>
        let a := fld s (sapB g + R.SU_PROG_ADDR k) 10 0
        fld u (sapB g + R.SU_PROG_ADDR k) 10 0 = (a + 1) % 2048 ∧ unitOf u g k
          = { unitOf s g k with store := SMap.set 0 a val (unitOf s g k).store, bad := (unitOf s g k).bad.filter (· ≠ a) }))

/-- R359 to R363, R372, R375, R376, R380, R381: what KVREF, KVRELEASE, KVFORK, KVAPPEND, KVCOMMIT and KVROLLBACK do on a core whose KV port is empty,
with the KV manager in RUN: the status in rd, the reference counts, and the list's header. An operation with a status changes no memory.
Choices of the model: log 6, log 52. -/
def Obligations.KvInstructions : Prop :=
  ∀ (s : State) (g th w : Nat),
    let t := thr s g th
    let site := g / 64
    let k := kvmB site
    let a := t.get (f2 w)
    let b := add64 (t.get (f3 w)) (imm33 w)
    let op (code : Nat) : EOp := { op := code, th := th, own := t.own, a := a, b := b, rd := f1 w, time := s.now, pc := t.pc }
    let good : Prop := Ready s g th w shAttRd ∧ t.bad (f2 w) = false ∧ t.bad (f3 w) = false ∧ t.wait = .none ∧ t.slots = [] ∧ 0 ∉ t.pend ∧ (attOf s g).kv = [] ∧ (attOf s g).kvSince = none
      ∧ (∀ k, k < 64 → (thr s g k).wait ≠ .queue 7) ∧ s.evq.hold.length + 64 ≤ 4096 ∧ pgState s (kvmR site) = stRUN ∧ clockLost s (kvmR site) = false
    let gives (i : Instr) (v : Nat) (P : State → Prop) : Prop := Completes i s (fun u => thr u g th = (t.put (f1 w) v false).next ∧ attOf u g = attOf s g ∧ P u)
    let plus (u : State) (off n : Nat) : Prop := rd u (k + off) = satAdd (rd s (k + off)) n
    let keeps (u : State) : Prop := ∀ d, memByte u d = memByte s d
    let flt (u : State) (n : Nat) : Prop := bit (rd u (k + R.PG_FLT)) n = true
    let quiet : Prop := SourceOff s (kvmR site) kmSeq ∧ SourceOff s (kvmR site) kmPoison ∧ SourceOff s (kvmR site) kmUnder
    good → quiet →
    (∀ ids l, refIds s g (op 0x67) = .ok ids → refStates s g ids = .ok l →
      ((∀ e ∈ l, e.2.1 ≠ 0 ∧ e.2.1 + e.2.2.2 ≤ 65535) → gives (.kvref g th w) 0 (fun u => ∀ e ∈ l, memNum u (rcDpa s site e.1) 2 = e.2.1 + e.2.2.2))
      ∧ ((∀ e ∈ l, e.2.1 ≠ 0) → (∃ e ∈ l, 65535 < e.2.1 + e.2.2.2) → gives (.kvref g th w) 5 keeps)
      ∧ ((∀ e ∈ l, e.2.2.2 < e.2.1 ∧ blkClass e.2.1 e.2.2.1 ≠ 1) → gives (.kvrelease g th w) 0 (fun u => ∀ e ∈ l, memNum u (rcDpa s site e.1) 2 = e.2.1 - e.2.2.2))
      ∧ ((∀ e ∈ l, e.2.2.2 = e.2.1 ∧ blkClass e.2.1 e.2.2.1 = 2) → rd s (k + R.KVM_FREE) + 256 < 2 ^ 32 → gives (.kvrelease g th w) 0 (fun u =>
          rd u (k + R.KVM_FREE) = rd s (k + R.KVM_FREE) + l.length ∧ plus u R.KVM_CNT_FREED l.length))
      ∧ ((∃ e ∈ l, e.2.1 < e.2.2.2 ∨ blkClass e.2.1 e.2.2.1 = 1) → gives (.kvrelease g th w) 6 (fun u => keeps u ∧ flt u kmUnder ∧ flt u kmSeq)))
    ∧ (∀ h tl rc x new, b = 0 → readList s g a = .ok h → h.entries ≠ 0 → listEntry s g a h (h.entries - 1) = .ok tl → rcOf s g tl.1 = .ok rc →
      kvRead s g (slotDpa s site tl.1) (kvSize h.fmt (32 * h.d32)) = .ok x → rc ≠ 0 → kvFree s site ≠ 0 → stackTop s g 1 = .ok [new] → inPool s site new = true →
      gives (.kvfork g th w) 0 (fun u => plus u R.KVM_CNT_FORK 1 ∧ listOf (memNum u a 64) = { h with gen := (h.gen + 1) % 2 ^ 32 }))
    ∧ (∀ r h e, kvRead s g a 64 = .ok r → readList s g (fieldAt r 0 8) = .ok h → kvAppend s g (op 0x64) = .ok e →
      (e.status = 0 → gives (.kvappend g th w) 0 (fun u => plus u R.KVM_CNT_APPEND (fieldAt r 36 2) ∧ (listOf (memNum u (fieldAt r 0 8) 64)).committed = h.committed
        ∧ (listOf (memNum u (fieldAt r 0 8) 64)).tentative = h.tentative + fieldAt r 36 2))
      ∧ (e.status ≠ 0 → gives (.kvappend g th w) e.status keeps))
    ∧ (∀ n h, readList s g a = .ok h →
      let done (e : KvEnd) (i : Instr) : Prop := kvCommit s g a n = .ok e → gives i 0 (fun u => plus u R.KVM_CNT_COMMIT n ∧ plus u R.KVM_CNT_DISCARD (h.tentative - n)
        ∧ (listOf (memNum u a 64)).committed = h.committed + n ∧ (listOf (memNum u a 64)).tentative = 0 ∧ (listOf (memNum u a 64)).tentEntries = 0)
      ∀ e, (b = n → n ≤ 256 → done e (.kvcommit g th w)) ∧ (b = 0 → n = 0 → done e (.kvrollback g th w)))
    ∧ (∀ c ∈ [(Instr.kvappend g th w, 0x64), (.kvcommit g th w, 0x65), (.kvrollback g th w, 0x66), (.kvref g th w, 0x67), (.kvrelease g th w, 0x68), (.kvfork g th w, 0x69)],
      ∀ st ∈ [6, 7], kvRun s g (op c.2) = .error st → gives c.1 st (fun u => keeps u ∧ flt u (if st = 6 then kmSeq else kmPoison)))

/-- R365 to R371, R376, R380, R381: PFXFIND, PFXINSERT and PFXRELEASE on a core whose KV port is empty, with the prefix unit in RUN; eviction; the
commands of the PFX and KVM pages; and an operation whose read takes too long ends with status 8.
Choices of the model: log 50, log 52, log 53. -/
def Obligations.PrefixUnit : Prop :=
  ∀ (s : State) (g th w : Nat),
    let t := thr s g th
    let site := g / 64
    let p := pfxB site
    let a := t.get (f2 w)
    let b := add64 (t.get (f3 w)) (imm33 w)
    let op (code : Nat) : EOp := { op := code, th := th, own := t.own, a := a, b := b, rd := f1 w, time := s.now, pc := t.pc }
    let good (sh : Shape) : Prop := Ready s g th w sh ∧ t.bad (f2 w) = false ∧ t.bad (f3 w) = false ∧ t.wait = .none ∧ t.slots = [] ∧ 0 ∉ t.pend ∧ (attOf s g).kv = []
      ∧ (attOf s g).kvSince = none ∧ (∀ k, k < 64 → (thr s g k).wait ≠ .queue 7) ∧ s.evq.hold.length + 64 ≤ 4096 ∧ pgState s (pfxR site) = stRUN ∧ clockLost s (pfxR site) = false
    let gives (i : Instr) (v : Nat) (P : State → Prop) : Prop := Completes i s (fun u => thr u g th = (t.put (f1 w) v false).next ∧ attOf u g = attOf s g ∧ P u)
    let plus (u : State) (off n : Nat) : Prop := rd u (p + off) = satAdd (rd s (p + off)) n
    let flt (u : State) (r : Page.Ref) (n : Nat) : Prop := bit (rd u (Page.base r + R.PG_FLT)) n = true
    (good shAttRd → 1 ≤ b → b ≤ 16384 →
      (walk s g a b 0 noNode 0 = .ok ([], []) → gives (.pfxfind g th w) (noNode * 2 ^ 8) (fun u => plus u R.PFX_CNT_FIND 1 ∧ ∀ d, memByte u d = memByte s d))
      ∧ (∀ i l, walk s g a b 0 noNode 0 = .ok (i :: l, []) → nodeF s site i ndHolds 2 < 65535 → gives (.pfxfind g th w) (i * 2 ^ 8 + (l.length + 1) * 2 ^ 32) (fun u =>
          nodeF u site i ndHolds 2 = nodeF s site i ndHolds 2 + 1 ∧ plus u R.PFX_CNT_FIND 1 ∧ plus u R.PFX_CNT_HIT (l.length + 1))))
    ∧ (good shAttRd → b = 0 → ∀ r toks, kvRead s g a 32 = .ok r → fieldAt r 0 4 = noNode → kvRead s g (fieldAt r 8 8) 256 = .ok toks →
      fieldAt r 3 1 = 0 ∧ fieldAt r 4 4 = 0 ∧ fieldAt r 24 8 = 0 → ∀ i, lookup s g (spanHash s site 0 toks) noNode toks = .ok { node := some i, clash := [] } →
      gives (.pfxinsert g th w) (9 + i * 2 ^ 8) (fun u => plus u R.PFX_CNT_EXISTS 1 ∧ ∀ d, memByte u d = memByte s d))
    ∧ (good shAttRd → ∀ e, pfxInsert s g (op 0x6B) = .ok e → e.status = 0 → gives (.pfxinsert g th w) e.high (fun u => plus u R.PFX_CNT_INSERT 1))
    ∧ (good shAttNoRa → b < nodeTotal s site → ∀ n, kvRead s g (nodeDpa s site b) 64 = .ok n → fieldAt n ndState 1 = 1 → fieldAt n ndHolds 2 ≠ 0 →
      gives (.pfxrelease g th w) 0 (fun u => nodeF u site b ndHolds 2 = fieldAt n ndHolds 2 - 1))
    ∧ (∀ c ∈ [(Instr.pfxfind g th w, 0x6A, shAttRd), (.pfxinsert g th w, 0x6B, shAttRd), (.pfxrelease g th w, 0x6C, shAttNoRa)], good c.2.2 → ∀ st ∈ [6, 7, 11],
      kvRun s g (op c.2.1) = .error st → (∀ n, n < 3 → SourceOff s (pfxR site) n) → gives c.1 (kvValue c.2.1 st) (fun u => flt u (pfxR site) (if st = 7 then pxPoison else pxSeq)))
    ∧ (Calm s → site < 64 → pgState s (pfxR site) = stRUN → clockLost s (pfxR site) = false →
      let i := (pfxOf s site).head
      i ≠ noNode → rd s (p + R.PFX_FREE) < fld s (p + R.PFX_LOW_WM) 23 0 → evictReady s site i = true → nodeBlocks s site = 0 → Completes (.pfxEvict site) s (fun u =>
        (pfxOf u site).free = i ∧ rd u (p + R.PFX_FREE) = rd s (p + R.PFX_FREE) + 1 ∧ plus u R.PFX_CNT_EVICT 1))
    ∧ (∀ o arg, site < 64 → Accepted s o (pfxR site) 0x10 arg → Completes (.pfxBuild o site arg) s (fun u => Taken s u o (pfxR site) 0x10 arg 2
        ∧ rd u (p + R.PFX_FREE) = nodeTotal s site ∧ rd u (p + R.PFX_LIVE) = 0 ∧ rd u (p + R.PFX_HELD) = 0
        ∧ pfxOf u site = { pfxOf s site with free := if nodeTotal s site = 0 then noNode else 0, head := noNode, tail := noNode, key := rd s (p + R.PFX_KEY 0) + rd s (p + R.PFX_KEY 1) * 2 ^ 32 + rd s (p + R.PFX_KEY 2) * 2 ^ 64 + rd s (p + R.PFX_KEY 3) * 2 ^ 96 }))
    ∧ (∀ o arg, site < 64 → Accepted s o (pfxR site) 0x11 arg → (pfxOf s site).head = noNode → Completes (.pfxFlush o site arg) s (fun u => Taken s u o (pfxR site) 0x11 arg 2
        ∧ pfxOf u site = pfxOf s site ∧ Apart (fun x => { x with busy := [] }) [pfxR site] s u))
    ∧ (∀ o arg, site < 64 → Accepted s o (kvmR site) 0x10 arg → Completes (.kvmBuild o site arg) s (fun u => Taken s u o (kvmR site) 0x10 arg 2
        ∧ rd u (kvmB site + R.KVM_TOTAL) = rgnBefore s site 64 ∧ rd u (kvmB site + R.KVM_FREE) = rgnBefore s site 64 ∧ rd u (kvmB site + R.KVM_REFD) = 0 ∧ rd u (kvmB site + R.KVM_TENT) = 0))
    ∧ (∀ o n val, n < 4 → val < 2 ^ 32 → Calm s → Free s o 1 → judge s o (p + R.PFX_KEY n) 4 val = .apply val → Completes (.pfxKeyWrite o site n val) s (fun u => rd u (p + R.PFX_KEY n) = val
        ∧ u.jnl.store = s.jnl.store ++ [changeEntry s o (p + R.PFX_KEY n) val false]))
    ∧ (∀ o at0, Calm s → g < 4096 → (attOf s g).kv = [o] → (attOf s g).kvSince = some at0 → o.th = th → th < 64 → opReady s g o = true → kvRun s g o = .error 0 →
      t.state ≠ tFREE → t.own = o.own → 0 < t.eng → t.wait = .none → 0 ∉ t.pend → (∀ k, k < 64 → (thr s g k).wait ≠ .queue 7) →
      let ends (i : Instr) (r : Page.Ref) (n limit : Nat) : Prop := pgState s r = stRUN → clockLost s r = false → SourceOff s r n → at0 + 1000 * limit ≤ s.now → Completes i s (fun u =>
        (attOf u g).kv = [] ∧ flt u r n ∧ thr u g th = { t.put o.rd (kvValue o.op 8) false with pend := t.pend.erase o.rd, eng := t.eng - 1 })
      (o.op < 0x6A → ends (.kvmReadTimeout g) (kvmR site) kmTime (fld s (kvmB site + R.KVM_TIMEOUT) 15 0))
      ∧ (0x6A ≤ o.op → ends (.pfxReadTimeout g) (pfxR site) pxTime (fld s (p + R.PFX_TIMEOUT) 15 0)))

/-- R347 to R355, R373, R374, R377 to R379: the score unit's work on the head of its queue: ATQ opens a run with its rows, ATBLK folds a block's tokens
into every row, ATMERGE folds partial rows, ATEND writes the rows, poison where the run aborted; a fault aborts the run; a read that takes too long is
a fault; and ATT_RESET. The MV path and the array have nothing to do, and no other instruction is queued.
Choices of the model: log 13, log 51. -/
def Obligations.AttentionWork : Prop :=
  ∀ (s : State) (g : Nat), Calm s → g < 4096 →
    let x := attOf s g
    let mx : Page.Ref := ⟨.MXU, g⟩
    let m := Page.base mx
    let go (o : EOp) (P : State → Prop) : Prop := x.q = [o] → mvOf s g = {} → arrOf s g = {} → pgState s mx = stRUN → clockLost s mx = false → (thr s g o.th).slots = [] → x.since = none →
      (∀ th, (thr s g th).wait = .none) → Completes (.attReadTimeout g) s P
    let stops (n : Nat) (o : EOp) : Prop := SourceOff s mx n → go o (fun u => (attOf u g).q = [] ∧ bit (rd u (m + R.PG_FLT)) n = true ∧ (attOf u g).run = x.run.map (fun r => { r with aborted := true }))
    let clear (ea n : Nat) : Prop := engEaOk s g ea n 1 = true ∧ engRetries s ea n = false
    let plus (u : State) (off n : Nat) : Prop := rd u (m + off) = satAdd (rd s (m + off)) n
    (∀ o, o.op = 0x60 → o.b = 0 → x.run = none → x.work = none → clear o.a 64 → ∀ r, engNum s g [] o.a 64 = (r, false) → attRecOk (splitOn s g) r = true →
      (∀ i ∈ qRows r, clear (qRowEa r i) (qRowBytes r) ∧ (engNum s g [] (qRowEa r i) (qRowBytes r)).2 = false) → clear (fieldAt r 48 8) (8 * (qRows r).length) →
      (∀ i ∈ qRows r, let e := engNum s g [] ((fieldAt r 48 8 + 8 * i) % 2 ^ 64) 8; e.2 = false ∧ bits e.1 31 16 = 0 ∧ bits e.1 63 52 = 0) →
      go o (fun u => plus u R.MXU_ATT_CNT_RUNS 1 ∧ (attOf u g).q = [] ∧ (attOf u g).run = some { runOf o.th r with rows := (qRows r).map (fun i =>
        attRowOf r (engNum s g [] (qRowEa r i) (qRowBytes r)).1 (engNum s g [] ((fieldAt r 48 8 + 8 * i) % 2 ^ 64) 8).1) }))
    ∧ (∀ o, o.op = 0x60 → x.run.isSome = true ∨ o.b ≠ 0 → stops aaSeq o)
    ∧ (∀ o, o.op = 0x62 → x.run = none → stops aaSeq o)
    ∧ (∀ o r w e, o.op = 0x61 → x.run = some r → r.aborted = false → x.work = some w → w.todo = some [e] → e.2.2.1 = 0 → w.att < 65535 → w.skip < 65536 → w.unsel < 65536 →
      let h := hdrOf e.2.2.2
      let base := slotDpa s (g / 64) e.2.1
      let n := h.tokens
      let rd (a k : Nat) : Nat × Bool := memRead s (base + a) k
      let ks := rd (kvScales r.d) (n * (r.d / 32))
      let vs := rd (kvScales r.d + 2 * r.d) (n * (r.d / 32))
      let ke := rd (kvP r.d) (kvBytes r.kvfmt (n * r.d))
      let ve := rd (kvP r.d + kvBytes r.kvfmt (64 * r.d)) (kvBytes r.kvfmt (n * r.d))
      let t := thr s g o.th
      t.state ≠ tFREE → t.own = o.own → 0 < t.eng →
      (blkSeen r h = false → go o (fun u => (attOf u g).run = some r ∧ plus u R.MXU_ATT_CNT_BLK_SKIP 1
        ∧ (thr u g o.th).get o.rd = if o.rd = 0 then 0 else w.att + (w.skip + 1) % 2 ^ 16 * 2 ^ 16 + w.unsel * 2 ^ 32))
      ∧ (blkSeen r h = true → engRetries s (base + 64) (kvSize r.kvfmt r.d - 64) = false → (ks.2 || vs.2 || ke.2 || ve.2) = false →
        go o (fun u => (attOf u g).run = some { r with rows := r.rows.map (attendRow r h ks.1 ke.1 vs.1 ve.1) } ∧ plus u R.MXU_ATT_CNT_BLK_ATT 1
          ∧ (thr u g o.th).get o.rd = if o.rd = 0 then 0 else w.att + 1 + w.skip * 2 ^ 16 + w.unsel * 2 ^ 32)))
    ∧ (∀ o r, o.op = 0x63 → x.run = some r → r.aborted = false → bits o.b 63 40 = 0 → bits o.b 23 8 = 0 → bits o.b 39 24 % 32 = 0 →
      let ea (p i : Nat) : Nat := (o.a + p * bits o.b 39 24 + i * rawBytes r.d) % 2 ^ 64
      let parts := List.range (bits o.b 7 0 + 1)
      (∀ p ∈ parts, ∀ i, i < r.rows.length → clear (ea p i) (rawBytes r.d) ∧ (engNum s g [] (ea p i) (rawBytes r.d)).2 = false) →
      go o (fun u => (attOf u g).q = [] ∧ ((attOf u g).run.map (·.rows.length)) = some r.rows.length ∧ ∀ i q, r.rows[i]? = some q →
        (((attOf u g).run.bind (·.rows[i]?)) = some (parts.foldl (fun (q : AttRow) p =>
          let v := (engNum s g [] (ea p i) (rawBytes r.d)).1
          let y := foldPartial (fieldAt v 0 4) (fieldAt v 4 4) ((List.range r.d).map (fun j => fieldAt v (32 + 4 * j) 4)) q.m q.l q.o
          { q with m := y.1, l := y.2.1, o := y.2.2 }) q))))
    ∧ (∀ o r, o.op = 0x62 → x.run = some r → bits o.b 63 40 = 0 → bits o.b 23 18 = 0 → bits o.b 15 0 = 0 →
      let pitch := bits o.b 39 24
      let n := attOutBytes o.b r.d
      let ea (i : Nat) : Nat := o.a + i * pitch
      pitch % 32 = 0 → n ≤ pitch → (∀ q ∈ r.rows, (attOut o.b q).length = n) → ea r.rows.length < 2 ^ 41 → (∀ i, i < r.rows.length → clear (ea i) n ∧ rangePoison s (ea i) n = false ∧ ∀ x ∈ granules (ea i) n, reach s x = .ok) →
      go o (fun u => (attOf u g).q = [] ∧ (attOf u g).run = none
        ∧ (r.aborted = false → ∀ i q, r.rows[i]? = some q → memBytes u (ea i) n = attOut o.b q)
        ∧ (r.aborted = true → ∀ i, i < r.rows.length → 0 < n → cwPoison u (ea i / 32) = true)))
    ∧ (∀ o l at0, x.q = o :: l → o.op = 0x60 → o.b = 0 → x.run = none → engEaOk s g o.a 64 1 = true → engRetries s o.a 64 = true → x.since = some at0 →
      at0 + 1000 * fld s (m + R.MXU_ATT_TIMEOUT) 15 0 ≤ s.now → l = [] → mvOf s g = {} → SourceOff s mx aaTime → Completes (.attReadTimeout g) s (fun u =>
        (attOf u g).q = [] ∧ bit (rd u (m + R.PG_FLT)) aaTime = true))
    ∧ (∀ o arg, Accepted s o mx 0x30 arg → mvOf s g = {} → Completes (.attReset o g arg) s (fun u => Taken s u o mx 0x30 arg 2
        ∧ attOf u g = { x with q := [], run := none, work := none, since := none }))

/-- R384 to R408: a ring asks for its next burst, which lands in the buffer; STAGE and CHAIN launch their threads with their registers, WPRE and NOP
and a malformed descriptor as the spec says; a descriptor completes with its record, and the layer barrier releases its threads.
Choices of the model: log 17. -/
def Obligations.Descriptors : Prop :=
  ∀ (s : State) (g n : Nat), Calm s → g < 4096 → n < 4 →
    let x := streamOf s g
    let b := coreB g
    let cr : Page.Ref := ⟨.CORE, g⟩
    let heads (seq d : Nat) : Prop := headOf x n = some (seq, d) ∧ pickRing s g = some n ∧ chainDirty s g d = false
    let starts (seq d : Nat) : Prop := heads seq d ∧ malformed s g d = false
    let took (u : State) : Prop := (streamOf u g).buf = dropHead n x.buf
    let owes (d k : Nat) : Nat := ((waitWords d).filter (·.1 = k)).foldl (fun m w => m + w.2) 0
    let runs (u : State) (seq d kind : Nat) (ths : List Nat) (tk : List (Nat × Nat)) : Prop := took u ∧ (streamOf u g).running
      = x.running ++ [{ ring := n, seq := seq, kind := kind, data := d, threads := ths, toks := tk, time := s.now }]
    let launches (u : State) (d : Nat) (regs : Nat → List Nat) : Prop := ∀ i, i < dCount d → ∃ th, (freeList s g (dCount d))[i]? = some th
      ∧ (thr u g th).state = tREADY ∧ (thr u g th).pc = launchPc d i ∧ (thr u g th).poison = [] ∧ (thr u g th).slots = [] ∧ (thr u g th).pend = []
      ∧ ∀ r, r < 32 → (thr u g th).get r = if r = 0 ∨ 8 < r then 0 else ((regs i)[r - 1]?).getD 0 % 2 ^ 64
    let silent (d : Nat) : Prop := dSigs d = [] ∨ ∀ e ∈ dSigs d, e.2.2 = 0
    let recorded (u : State) (d ring seq st : Nat) : Prop := dHost d = false → dCpl d ≠ 0 → cplOk d = true → reachRange s (dCpl d) 16 = .ok → rangePoison s (dCpl d) 16 = false →
      memBytes u (dCpl d) 16 = toBytes 4 seq ++ toBytes 1 st ++ toBytes 1 ring ++ toBytes 2 g ++ toBytes 8 s.now
    (pgState s cr = stRUN → fld s (b + R.RING_CTRL n) 0 0 = 1 → burstLen s g n ≠ 0 → inBuf x n + 16 ≤ 32 → n ∉ x.stopped → (∀ e ∈ x.bursts, e.ring ≠ n) →
      Completes (.ringFetchBurst g n) s (fun u => Apart (fun y => { y with stream := [] }) [] s u
        ∧ streamOf u g = { x with bursts := x.bursts ++ [{ ring := n, seq := rd s (b + R.RING_CONS n), n := burstLen s g n, time := s.now }] }))
    ∧ (∀ e, x.bursts.find? (·.ring = n) = some e → e.ring = n →
      (fld s (b + R.RING_CTRL n) 1 1 = 0 → descAddr s g n e.seq < 2 ^ 41 → reach s (descAddr s g n e.seq) = .ok → rangePoison s (descAddr s g n e.seq) (64 * e.n) = false →
        Completes (.ringBurstArrival g n true) s (fun u => rd u (b + R.RING_CONS n) = (e.seq + e.n) % 2 ^ 32 ∧ (streamOf u g).bursts = x.bursts.filter (· ≠ e)
          ∧ (streamOf u g).buf = x.buf ++ (List.range e.n).map (fun i => (n, (e.seq + i) % 2 ^ 32, memNum s (descAddr s g n (e.seq + i)) 64))))
      ∧ (fld s (b + R.RING_CTRL n) 1 1 = 0 → descAddr s g n e.seq < 2 ^ 41 → reach s (descAddr s g n e.seq) = .ok → rangePoison s (descAddr s g n e.seq) (64 * e.n) = true →
        SourceOff s cr cPLoad → Completes (.ringBurstArrival g n true) s (fun u => (streamOf u g).stopped = x.stopped ++ [n] ∧ (streamOf u g).buf = x.buf
          ∧ bit (rd u (b + R.PG_FLT)) cPLoad = true ∧ rd u (b + R.CORE_DESC_FINFO) = cPLoad * 2 ^ 24 + n * 2 ^ 16 + e.seq % 2 ^ 16))
      ∧ (e.time + memLimit s g ≤ s.now → SourceOff s cr cTimeout → Completes (.ringBurstArrival g n false) s (fun u => (streamOf u g).stopped = x.stopped ++ [n]
          ∧ (streamOf u g).bursts = x.bursts.filter (· ≠ e) ∧ bit (rd u (b + R.PG_FLT)) cTimeout = true)))
    ∧ (∀ seq d, starts seq d → descKind d = 1 → Completes (.stageDesc g n) s (fun u => runs u seq d 1 (freeList s g (dCount d)) []
        ∧ launches u d (fun i => [i, dCount d, dF d 40 8, dF d 48 8, dF d 56 8, 0, 0, seq + n * 2 ^ 32]) ∧ ∀ k, k < 64 → tok u g k = tok s g k - owes d k))
    ∧ (∀ seq d, starts seq d → descKind d = 2 → Completes (.chain g n) s (fun u => runs u seq d 2 (freeList s g (dCount d)) (chainToks d)
        ∧ launches u d (fun i => [i, dCount d, dF d 56 8, if i = 0 then 0 else linkEa g d (i - 1), if i + 1 = dCount d then 0 else linkEa g d i,
            if i = 0 then 0 else linkWord d (i - 1), if i + 1 = dCount d then 0 else linkWord d i, seq + n * 2 ^ 32])
        ∧ ∀ e ∈ chainToks d, tok u g e.1 = e.2))
    ∧ (∀ seq d, starts seq d → descKind d = 3 → Completes (.wpre g n) s (fun u => runs u seq d 3 [] [] ∧ ∀ k, k < 64 → tok u g k = tok s g k - owes d k))
    ∧ (∀ seq d, starts seq d → descKind d = 0 → silent d → Completes (.nopDescriptor g n) s (fun u => took u ∧ (streamOf u g).running = x.running ∧ recorded u d n seq 0
        ∧ ∀ k, k < 64 → tok u g k = tok s g k - owes d k))
    ∧ (∀ seq d, heads seq d → malformed s g d = true → SourceOff s cr cIllegal → ∀ i ∈ [Instr.stageDesc g n, .chain g n, .wpre g n, .nopDescriptor g n, .drainDescriptor g n],
        Completes i s (fun u => took u ∧ recorded u d n seq 1 ∧ bit (rd u (b + R.PG_FLT)) cIllegal = true ∧ ∀ th, thr u g th = thr s g th))
    ∧ (∀ r seq, x.running.find? (fun r => r.ring = n && r.seq = seq && r.kind ≠ 3) = some r → r.ring = n → r.seq = seq → r.toks = [] → r.threads.all (fun th => decide ((thr s g th).state = tFREE)) = true →
        silent r.data → reach s (dCpl r.data) ≠ .retry → Completes (.descriptorCompletion g n seq) s (fun u => (streamOf u g).running = x.running.filter (· ≠ r)
          ∧ recorded u r.data n seq (if r.killed then 2 else 0)))
    ∧ (∀ r seq, x.running.find? (·.kind = 3) = some r → r.ring = n → r.seq = seq → wpreOk s g r.data = true → dF r.data 20 4 % 2 = 0 → reachRange s (dF r.data 32 8) (dF r.data 44 4) = .ok →
        (∀ i, i < dF r.data 44 4 / 256 → reach s (dF r.data 32 8 + 256 * i) = .ok) → rangePoison s (dF r.data 32 8) (dF r.data 44 4) = false → silent r.data → dCpl r.data = 0 →
        Completes (.wpreCompletion g n seq true) s (fun u => (streamOf u g).running = x.running.filter (· ≠ r)
          ∧ scratchNum (leafOf u g) (dF r.data 40 4) (dF r.data 44 4) = memNum s (dF r.data 32 8) (dF r.data 44 4)))
    ∧ (pgState s cr = stRUN → barrierMet s g = true →
      (barrierPending s g = true → (∀ k, k < 4 → drainHead x k = false) → Completes (.layerBarrierComplete g) s (fun u => ∀ th, th < 64 → (thr s g th).ra = none →
        thr u g th = if inDrain (thr s g th) then (thr s g th).ready.next else thr s g th))
      ∧ (∀ seq d, headOf x n = some (seq, d) → malformed s g d = false → descKind d = 4 → (∀ k, k < 4 → k ≠ n → drainHead x k = false) → silent d → reach s (dCpl d) = .ok →
        Completes (.drainDescriptor g n) s (fun u => took u ∧ recorded u d n seq 0)))

/-- R418 to R431: a packet takes the next link of its route where it holds a credit, leaves the router at its destination, is discarded with its
credit returned when its CRC fails, or is answered DEAD; at its endpoint it reads, writes, adds, signals or accesses a register and is answered;
and a response ends the operation that waits for it.
Choices of the model: log 54, log 76. -/
def Obligations.FabricPackets : Prop :=
  ∀ (s : State) (pos : Nat) (p : Pkt), Calm s → s.fab.pkts[pos]? = some p →
    let n := p.node
    let d := dstNode n p.dst
    let gone := s.fab.pkts.eraseIdx pos
    let free : Prop := p.via = 255
    let route (bad : Bool) (P : State → Prop) : Prop := p.ejected = false → rtrRuns s n = true → n < 64 → orderHeld s.fab.pkts pos p = false → Completes (.packetRoute pos bad) s P
    let plus (u : State) (off : Nat) : Prop := rd u (rtrB n + off) = satAdd (rd s (rtrB n + off)) 1
    let answer (st len data : Nat) (pz : Bool) : Pkt := { typ := 0x10, vc := 1, src := p.dst, dst := p.src, addr := p.addr, tag := p.tag, org := p.org, status := st, len := len, data := data, pz := pz, node := n, time := s.now }
    let sends (u : State) (l cls m : Nat) : Prop := u.fab.pkts = s.fab.pkts.set pos { p with node := m, via := if l < 4 then opp n l else 32 + n, cls := cls, xpr := p.xpr || decide (32 ≤ l), hops := (p.hops + 1) % 256, old := false }
      ∧ unreturned u n l p.vc cls = unreturned s n l p.vc cls + 1 ∧ plus u R.RTR_CNT_FWD
    let ends (typ : Nat) (i : Instr) (P : State → Prop) : Prop := p.ejected = true → p.typ = typ → (∀ q ∈ s.fab.pkts.take pos, q.ejected = false ∨ q.src ≠ p.src ∨ q.dst ≠ p.dst ∨ q.vc ≠ p.vc) → Completes i s P
    let replied (u : State) (st len data : Nat) (pz : Bool) : Prop := u.fab.pkts = gone ++ [answer st len data pz]
    let same (u : State) : Prop := ∀ a, memByte u a = memByte s a
    let wrote (typ : Nat) (i : Instr) : Prop := p.pz = false → reachRange s p.addr p.len = .ok → 0 < p.len → p.addr % 32 + p.len ≤ 32 → rangePoison s p.addr p.len = false →
      ends typ i (fun u => replied u 0 0 0 false ∧ memBytes u p.addr p.len = toBytes p.len p.data ∧ ∀ a, a < p.addr ∨ p.addr + p.len ≤ a → memByte u a = memByte s a)
    let dead (typ : Nat) (i : Instr) (len : Nat) : Prop := reachRange s p.addr len = .dead → ends typ i (fun u => replied u 2 0 0 false ∧ same u)
    (legalType p.typ = true →
      (∀ l cls det m, arrived p = false → routeOf s p = .link l cls det → gridNbr n l = some m → m ≠ n → free → 0 < credHeld s n l p.vc cls → route false (fun u => sends u l cls m ∧ same u))
      ∧ (∀ l cls det m, arrived p = false → routeOf s p = .link l cls det → gridNbr n l = some m → credHeld s n l p.vc cls = 0 → route false (fun u => u.fab = s.fab ∧ u.rtr = s.rtr))
      ∧ (∀ det, arrived p = false → routeOf s p = .express det → d ≠ n → d < 64 → free → 0 < credHeld s n (32 + d) p.vc 0 → p.cls = 0 → route false (fun u => sends u (32 + d) 0 d))
      ∧ (arrived p = true → tileDead s (p.dst / 64) = false → tileRetry s (p.dst / 64) = false → free → route false (fun u =>
          u.fab.pkts = s.fab.pkts.set pos { p with ejected := true, via := 255, old := false } ∧ plus u R.RTR_CNT_EJECT))
      ∧ (arrived p = true → tileDead s (p.dst / 64) = true → p.typ ∈ [0x01, 0x02, 0x03, 0x04, 0x20] → free → route false (fun u => replied u 2 0 0 false ∧ plus u R.RTR_CNT_DEAD))
      ∧ (arrived p = true → tileDead s (p.dst / 64) = false → tileRetry s (p.dst / 64) = true → p.typ ∈ [0x01, 0x02, 0x03, 0x04, 0x20] → p.vc = 0 ∨ p.vc = 2 → free → route false (fun u =>
          replied u 1 0 0 false ∧ plus u R.RTR_CNT_RETRY))
      ∧ (arrived p = false → routeOf s p = .dead false → isReq p = true → free → SourceOff s (rtrR n) 4 → route false (fun u => replied u 2 0 0 false ∧ bit (rd u (rtrB n + R.PG_FLT)) 4 = true)))
    ∧ (p.via < 4 → p.old = false → ∀ m, gridNbr n p.via = some m → SourceOff s (rtrR n) 1 → route true (fun u => u.fab.pkts = gone ∧ plus u R.RTR_CNT_CRC ∧ bit (rd u (rtrB n + R.PG_FLT)) 1 = true
        ∧ SMap.get 0 (credIdx (opp n p.via) p.vc p.cls) (rtrOf u m).owed = SMap.get 0 (credIdx (opp n p.via) p.vc p.cls) (rtrOf s m).owed + 1))
    ∧ (reachRange s p.addr p.op0 = .ok → ends 0x01 (.rdReq pos) (fun u => replied u 0 p.op0 (memRead s p.addr p.op0).1 (memRead s p.addr p.op0).2 ∧ same u))
    ∧ dead 0x01 (.rdReq pos) p.op0 ∧ wrote 0x02 (.wrReq pos) ∧ dead 0x02 (.wrReq pos) p.len ∧ wrote 0x20 (.bulk pos) ∧ dead 0x20 (.bulk pos) p.len
    ∧ (reachRange s p.addr p.wid = .ok → 0 < p.wid → p.addr % 32 + p.wid ≤ 32 → (memRead s p.addr p.wid).2 = false → ends 0x03 (.atomic pos) (fun u => let old := memNum s p.addr p.wid
        replied u 0 p.wid old false ∧ memNum u p.addr p.wid = (if p.cas then (if old = p.op1 then p.op0 else old) else old + p.op0) % 2 ^ (8 * p.wid)
        ∧ ∀ a, a < p.addr ∨ p.addr + p.wid ≤ a → memByte u a = memByte s a))
    ∧ (let g := p.dst % 4096
      let k := p.op0 % 64
      let m := bits p.op0 31 16
      (takesSignal s g = false → ends 0x04 (.sigtokPacket pos) (fun u => replied u 1 0 0 false ∧ tok u g k = tok s g k))
      ∧ (takesSignal s g = true → tok s g k + m ≤ 65535 → SMap.get [] (thrKey g k) s.tokq = [] → ends 0x04 (.sigtokPacket pos) (fun u => replied u 0 0 0 false ∧ tok u g k = tok s g k + m))
      ∧ (takesSignal s g = true → 65535 < tok s g k + m → ends 0x04 (.sigtokPacket pos) (fun u => replied u 3 0 0 false ∧ tok u g k = tok s g k)))
    ∧ (p.len = 0 → ends 0x05 (.regReq pos) (fun u => replied u 0 4 (busRead s (originOf p.org) p.addr) false))
    ∧ (∀ r new, p.len ≠ 0 → p.held = false → Free s (originOf p.org) 1 → Page.ofOff p.addr = some r → r.t ∉ [.CORE, .SAP, .EVQ, .TFLT, .DFLT] → judge s (originOf p.org) p.addr 4 p.data = .apply new →
        isFlow p.addr = false → s.jnl.bp.held = [] → ends 0x05 (.regReq pos) (fun u => replied u 0 0 0 false ∧ rd u p.addr = new % 2 ^ 32))
    ∧ (∀ th m, let g := p.dst % 4096
        let t := thr s g th
        th < 64 → (∀ k, k < 64 → k ≠ th → (thr s g k).slots = []) → t.slots = [m] → m.tag = some p.tag → m.again = false → t.ra = none → PortsIdle s g → t.wait = .none →
        (m.kind = .ld → p.status = 0 → p.pz = false → ends 0x10 (.rsp pos) (fun u => u.fab.pkts = gone ∧ thr u g th
          = { t.put m.rd (extend m.size p.data) false with slots := [], pend := t.pend.filter (· ≠ m.rd) }))
        ∧ (m.kind = .st → p.status = 0 → ends 0x10 (.rsp pos) (fun u => u.fab.pkts = gone ∧ thr u g th = { t with slots := [] }))
        ∧ (p.status = 1 → ends 0x10 (.rsp pos) (fun u => u.fab.pkts = gone ∧ thr u g th = { t with slots := [{ m with again := true }] })))
    ∧ (let g := p.dst % 4096
      (∀ k, k < 64 → (thr s g k).slots = []) → sndOf s g = {} → ends 0x10 (.rsp pos) (fun u => u.fab.pkts = gone ∧ led u 0x0A (g / 64) (g % 64) 5 = (led s 0x0A (g / 64) (g % 64) 5 + 1) % 2 ^ 32))
    ∧ (let r := p.dst / 64
      let words (k : Nat) : Nat := bits (p.data % 2 ^ 128) (32 * k + 31) (32 * k)
      p.addr = rtrB r + R.RTR_DETOUR 0 → r < 64 → ∀ k, k < 4 → words k ≠ rd s (rtrB r + R.RTR_DETOUR k) → (∀ j, j < 4 → j ≠ k → words j = rd s (rtrB r + R.RTR_DETOUR j)) →
      Free s (originOf p.org) 1 → judge s (originOf p.org) (rtrB r + R.RTR_DETOUR k) 4 (words k) = .apply (words k) → isFlow (rtrB r + R.RTR_DETOUR k) = false →
      ends 0x30 (.mgmt pos) (fun u => u.fab.pkts = gone ∧ ∀ j, j < 4 → rd u (rtrB r + R.RTR_DETOUR j) = words j))

/-- R425, R427, R429, R431 to R434, R456: a link that falls silent is DOWN, with its source raised and its unreturned packets counted lost; probes of an
express peer; reconciliation begins at both ends, exchanges offers and makes the link UP with the credits the free buffers give, or times out;
the detour tables that changed are sent; a returning credit; and the commands of the RTR and XPR pages.
Choices of the model: log 54, log 55. -/
def Obligations.FabricLinks : Prop :=
  ∀ (s : State) (n l m : Nat), Calm s → n < 64 → m < 64 → farEnd s n l = some m → rtrRuns s n = true → rtrRuns s m = true → n ≠ m →
    let o := opp n l
    let tot (v : Nat) : Nat := unreturnedVc s n l v
    let all := (List.range 4).foldl (fun k v => k + tot v) 0
    let down (u : State) : Prop := linkSt u n l = 2
    let plus (u : State) (off k : Nat) : Prop := rd u off = satAdd (rd s off) k
    let recon (u : State) : Prop := linkSt u n l = 3 ∧ linkSt u m o = 3 ∧ SMap.find l (rtrOf u n).began = some s.now
    (l < 4 → linkSt s n l = 1 → all < 2 ^ 32 → SourceOff s (rtrR n) 0 →
      Completes (.linkHeartbeatTimeout n l false) s (fun u => down u ∧ plus u (rtrB n + R.RTR_LOST l) all ∧ bit (rd u (rtrB n + R.PG_FLT)) 0 = true ∧ u.fab = s.fab)
      ∧ (∀ i, (List.range s.fab.pkts.length).reverse.find? (fun i => match s.fab.pkts[i]? with | some p => p.node = n && p.via = l && !p.ejected | none => false) = some i →
        Completes (.linkHeartbeatTimeout n l true) s (fun u => down u ∧ u.fab.pkts = s.fab.pkts.eraseIdx i ∧ plus u (rtrB n + R.RTR_CNT_TRUNC) 1)))
    ∧ (l = 32 + m → xprRuns s n = true →
      Completes (.expressProbe n m true) s (fun u => rtrOf u n = { rtrOf s n with probe := SMap.del m (rtrOf s n).probe } ∧ Apart (fun x => { x with rtr := [] }) [] s u)
      ∧ (SMap.find m (rtrOf s n).probe = none → Completes (.expressProbe n m false) s (fun u => SMap.find m (rtrOf u n).probe = some s.now ∧ plus u (xprB n + R.XPR_CNT_PROBE_MISS) 1
          ∧ linkSt u n l = linkSt s n l))
      ∧ (∀ a, SMap.find m (rtrOf s n).probe = some a → a + 2000 ≤ s.now → linkSt s n l = 1 → SourceOff s (xprR n) 0 → Completes (.expressProbe n m false) s (fun u => down u
          ∧ bit (rd u (xprB n + R.PG_FLT)) 0 = true)))
    ∧ (l < 4 ∨ l = 32 + m →
      (linkSt s n l = 2 → Completes (.reconStart n l) s recon)
      ∧ (linkSt s n l = 3 → linkSt s m o = 3 → SMap.find (rtrB n) s.busy = none → SMap.find (rtrB m) s.busy = none → SMap.find (xprB n) s.busy = none → SMap.find (xprB m) s.busy = none →
        nodeUp s n = true → nodeUp s m = true → (∀ p ∈ s.fab.pkts, p.vc < 4) →
        Completes (.reconOffer n l) s (fun u => linkSt u n l = 1 ∧ linkSt u m o = 1
          ∧ (∀ vc ∈ linkCreds l, credHeld u n l vc.1 vc.2 = freeAt s n l vc.1 vc.2 ∧ credHeld u m o vc.1 vc.2 = freeAt s m o vc.1 vc.2)
          ∧ u.fab.pkts = s.fab.pkts.map (fun p => if !p.ejected && ((p.node = n && p.via = l) || (p.node = m && p.via = o)) then { p with old := true } else p)))
      ∧ (linkSt s n l = 3 → SMap.get 0 l (rtrOf s n).began + 100000 ≤ s.now → SMap.find (Page.base (linkPage n l).1) s.busy = none → Completes (.reconTimeout n l) s (fun u => down u
          ∧ linkSt u m o = linkSt s m o ∧ Apart (fun x => { x with rtr := [] }) [] s u)))
    ∧ (∀ site, Completes (.detourRewrite site) s (fun u => u.fab.pkts = s.fab.pkts ++ ((List.range 64).filter (fun n => rtrRuns s n && nodeUp s n && detourWords s n ≠ detourHeld s n)).map (fun n =>
        { typ := 0x30, vc := 3, src := 0x1000, dst := n * 64, addr := rtrB n + R.RTR_DETOUR 0, len := 32, data := detourWords s n, org := 0x2000, op1 := site, node := 64 + n % 8, time := s.now })
        ∧ Apart (fun x => { x with fab := {} }) [] s u))
    ∧ (∀ vc cls, linkSt s n l = 1 → let i := credIdx l vc cls
      (0 < SMap.get 0 i (rtrOf s n).owed → 0 < unreturned s n l vc cls → Completes (.creditReturn n l vc cls) s (fun u => unreturned u n l vc cls = unreturned s n l vc cls - 1
        ∧ SMap.get 0 i (rtrOf u n).owed = SMap.get 0 i (rtrOf s n).owed - 1))
      ∧ (unreturned s n l vc cls = 0 → SourceOff s (rtrR n) 2 → Completes (.creditReturn n l vc cls) s (fun u => rtrOf u n = rtrOf s n ∧ bit (rd u (rtrB n + R.PG_FLT)) 2 = true)))
    ∧ (∀ lane, lane < 8 → SourceOff s (xprR n) 1 → Completes (.expressLaserOutOfRange n lane) s (fun u => bit (rd u (xprB n + R.PG_FLT)) 1 = true ∧ Apart id [xprR n] s u))
    ∧ (∀ q, linkSt s n l = 2 → (l < 4 → Accepted s q (rtrR n) 0x10 l → Completes (.linkRecon q n l) s (fun u => Taken s u q (rtrR n) 0x10 l 2 ∧ recon u))
      ∧ (l = 32 + m → Accepted s q (xprR n) 0x10 m → Completes (.peerRecon q n m) s (fun u => Taken s u q (xprR n) 0x10 m 2 ∧ recon u)))

/-- R453 to R455: SEND injects its first packets, BSEND takes a frame credit and its port begins the frame, BCRED returns one; a SEND's packets
that were answered RETRY_LATER go out again under new tags. The core's send port is empty.
Choices of the model: log 56. -/
def Obligations.SendPort : Prop :=
  ∀ (s : State) (g th w : Nat),
    let t := thr s g th
    let a := t.get (f2 w)
    let b := add64 (t.get (f3 w)) (imm33 w)
    let op (code d : Nat) : EOp := { op := code, th := th, own := t.own, d := d, a := a, b := b, rd := f1 w, time := s.now, pc := t.pc }
    let good (sh : Shape) : Prop := Ready s g th w sh ∧ t.bad (f2 w) = false ∧ t.bad (f3 w) = false ∧ t.wait = .none ∧ t.slots = [] ∧ 0 ∉ t.pend ∧ sndOf s g = {} ∧ (∀ k, k < 64 → (thr s g k).wait ≠ .queue 6)
    let p := b % 8
    let shape (x : Pkt) : Pkt := { x with data := 0, pz := false }
    (good shSend → t.bad (f1 w) = false → sendOk s g (op 0xA0 (t.get (f1 w))) = true → engRetries s a 32 = false → swLen b ≤ 256 → engRetries s a (swLen b) = false →
      Completes (.send g th w) s (fun u => thr u g th = { t.next with eng := t.eng + 1 }
        ∧ (∃ x, u.fab.pkts = s.fab.pkts ++ [x] ∧ shape x = { typ := 0x20, vc := 2, src := g, dst := dpaCore (t.get (f1 w)), addr := t.get (f1 w), len := swLen b, force := bit b 51, org := coreOrg g, tag := s.fab.next, node := g / 64, time := s.now })
        ∧ (sndOf u g).run.map (fun r => (r.pos, r.outs)) = some (swLen b, [(s.fab.next, 0, s.now, false)])))
    ∧ (good shBsend → b < 8 → engEaOk s g a 64 32 = true → eaSpace a = 0 →
      (pgState s (bghR p) = stRUN → (bghOf s p).frame = none → 0 < (bghOf s p).fcred → Completes (.bsend g th w) s (fun u =>
        (bghOf u p).fcred = (bghOf s p).fcred - 1 ∧ (bghOf u p).frame.map (fun f => (f.core, f.op, f.time)) = some (g, op 0xA1 0, s.now)
        ∧ thr u g th = { t.next with eng := t.eng + 1, pend := t.pend ++ [f1 w].filter (· ≠ 0) } ∧ (sndOf u g).q = [op 0xA1 0]))
      ∧ (pgState s (bghR p) ≠ stRUN → (bghOf s p).frame = none → Completes (.bsend g th w) s (fun u => thr u g th = (t.put (f1 w) 2 false).next ∧ sndOf u g = {} ∧ bghOf u p = bghOf s p)))
    ∧ (good shBcred → b < 8 → Completes (.bcred g th w) s (fun u => bghOf u p = { bghOf s p with fback := (bghOf s p).fback + 1 } ∧ thr u g th = t.next ∧ sndOf u g = {}))
    ∧ (∀ r x, Calm s → g < 4096 → (sndOf s g).run = some r → r.sig = none → r.outs = [x] → x.2.2.2 = true → Completes (.sendRetry g) s (fun u =>
        u.fab.next = (s.fab.next + 1) % 2 ^ 32 ∧ (sndOf u g).run = some { r with outs := [(s.fab.next, x.2.1, x.2.2.1, false)] }
        ∧ u.fab.pkts = s.fab.pkts ++ [{ (bulkAt s g r.op x.2.1).1 with src := g, org := coreOrg g, tag := s.fab.next, node := g / 64, time := s.now }]))

/-- R437 to R441, R444, R445, R455: what a bough port sends next, each flit with its acknowledgement and credits; and what it does with a flit that
arrives: accepted in sequence, discarded with one nack, its acknowledgement freeing the replay buffer, its payload joining a frame; a frame wholly
acknowledged ends its BSEND. No send port waits for the bough.
Choices of the model: log 57. -/
def Obligations.BoughFlits : Prop :=
  ∀ (s : State) (p : Nat), Calm s → p < 8 → bghLive s p = true → s.snd = [] →
    let x := bghOf s p
    let b := bghB p
    let link := bghLink s p
    let plus (u : State) (n k : Nat) : Prop := rd u (b + R.BGH_CNT n) = satAdd (rd s (b + R.BGH_CNT n)) k
    let emits (u : State) (f : Flit) : Prop := u.out = s.out ++ [.flit p (flitNum f ((x.rxSeq + 4095) % 4096) x.nackDue (x.freed.map (min 255)) (min x.fback 16))] ∧ plus u 0 1
      ∧ (bghOf u p).rxSeq = x.rxSeq ∧ (bghOf u p).inbox = x.inbox ∧ (bghOf u p).nackDue = false ∧ (bghOf u p).fback = x.fback - min x.fback 16
    let send (P : State → Prop) : Prop := Completes (.flitSendTimer p) s P
    let data (u : State) (f : Flit) : Prop := emits u f ∧ f.seq = x.txSeq ∧ (bghOf u p).txSeq = (x.txSeq + 1) % 4096 ∧ (bghOf u p).replay = x.replay ++ [f]
      ∧ (bghOf u p).cred = x.cred.set (f.vcb % 4) (x.cred.getD (f.vcb % 4) 0 - 1)
    let clear : Prop := x.ctrl = [] ∧ x.replay[x.cur]? = none
    let room : Prop := x.replay.length < 1024
    (link < 2 → send (fun u => u.out = s.out ∧ bghOf u p = x))
    ∧ (∀ m l, 2 ≤ link → x.ctrl = m :: l → send (fun u => emits u { seq := x.txSeq, typ := 2, plen := 32, data := m } ∧ (bghOf u p).ctrl = l ∧ (bghOf u p).replay = x.replay))
    ∧ (∀ f, 3 ≤ link → x.ctrl = [] → x.replay[x.cur]? = some f → send (fun u => emits u f ∧ (bghOf u p).cur = x.cur + 1 ∧ plus u 2 1 ∧ (bghOf u p).replay = x.replay))
    ∧ (∀ m l, link = 4 → clear → x.mgmt = m :: l → room → 0 < x.cred.getD 3 0 → send (fun u => data u { seq := x.txSeq, typ := 1, vcb := 15, plen := 144, data := m } ∧ (bghOf u p).mgmt = l))
    ∧ (∀ f, link = 4 → clear → x.mgmt = [] → x.frame = some f → room → 0 < x.cred.getD 2 0 → f.flits < f.total → send (fun u => data u { frameFlit s f with seq := x.txSeq, typ := 1 }
        ∧ (bghOf u p).frame = some { f with flits := f.flits + 1, met := f.met || decide ((frameFlit s f).pz ≠ 0) }))
    ∧ (2 ≤ link → clear → x.mgmt = [] → x.frame = none → send (fun u => emits u { seq := x.txSeq, typ := 0 } ∧ (bghOf u p).replay = x.replay ∧ (bghOf u p).txSeq = x.txSeq))
    ∧ (∀ w, 3 ≤ link → let good := w / 256 ^ 252 % 2 ^ 32 = crc32c (toBytes 252 (w % 256 ^ 252))
      let f (hi lo : Nat) : Nat := bits w hi lo
      let recv (P : State → Prop) : Prop := Completes (.flitReceive p w 0 0) s P
      (¬ good → recv (fun u => plus u 3 1 ∧ (bghOf u p).rxSeq = x.rxSeq ∧ (bghOf u p).inbox = x.inbox ∧ (bghOf u p).nackDue = (x.nackDue || !x.nacked)))
      ∧ (good → f 15 12 ≤ 1 → f 11 0 ≠ x.rxSeq → recv (fun u => (bghOf u p).rxSeq = x.rxSeq ∧ (bghOf u p).inbox = x.inbox ∧ (bghOf u p).nackDue = (x.nackDue || !x.nacked)))
      ∧ (good → f 15 12 = 0 → f 11 0 = x.rxSeq → f 100 96 = 0 → x.frame = none → bit w 28 = false → recv (fun u => plus u 1 1 ∧ (bghOf u p).rxSeq = x.rxSeq ∧ (bghOf u p).last = s.now
          ∧ (bghOf u p).cred = (List.range 4).map (fun v => min (x.cred.getD v 0 + f (71 + 8 * v) (64 + 8 * v)) ([64, 64, 512, 16].getD v 0))
          ∧ (bghOf u p).replay = match x.replay.findIdx? (fun e => e.seq = f 27 16) with | some k => x.replay.drop (k + 1) | none => x.replay))
      ∧ (good → f 15 12 = 0 → f 11 0 = x.rxSeq → f 100 96 = 0 → x.frame = none → bit w 28 = true → x.tries < 16 → recv (fun u => (bghOf u p).cur = 0))
      ∧ (good → f 15 12 = 1 → f 11 0 = x.rxSeq → f 100 96 = 0 → x.frame = none → bit w 28 = false →
        (f 39 32 % 4 = 3 → f 231 224 ∈ [0x10, 0x11, 0x12, 0x20] → recv (fun u => (bghOf u p).rxSeq = (x.rxSeq + 1) % 4096 ∧ (bghOf u p).inbox = x.inbox ++ [.mgmt (f 2015 224)]))
        ∧ (f 39 32 % 16 = 14 → recv (fun u => (bghOf u p).rxSeq = (x.rxSeq + 1) % 4096 ∧ (bghOf u p).rxFrame = none
            ∧ (bghOf u p).inbox = x.inbox ++ [.frame (f 63 48) (f 2015 224 % 256 ^ f 63 48) ((List.range 7).filter (bit (f 46 40)))]))
        ∧ (f 39 32 % 16 = 6 → recv (fun u => (bghOf u p).inbox = x.inbox ∧ (bghOf u p).rxFrame = some (f 63 48, f 2015 224 % 256 ^ f 63 48, (List.range 7).filter (bit (f 46 40)))))))
    ∧ (∀ w e, 3 ≤ link → w / 256 ^ 252 % 2 ^ 32 = crc32c (toBytes 252 (w % 256 ^ 252)) → bits w 15 12 = 0 → bits w 11 0 = x.rxSeq → bits w 100 96 = 0 → bit w 28 = false →
      x.frame = some e → e.total ≤ e.flits → e.met = false → x.replay = [] → let t := thr s e.core e.op.th
      e.op.th < 64 → t.state ≠ tFREE → t.own = e.op.own → 0 < t.eng → t.wait = .none → Completes (.flitReceive p w 0 0) s (fun u => (bghOf u p).frame = none ∧ plus u 6 1
        ∧ rd u (b + R.BGH_FSEQ) = (memNum s (e.op.a + 8) 4 + 1) % 2 ^ 32 ∧ thr u e.core e.op.th = { t.put e.op.rd 0 false with pend := t.pend.erase e.op.rd, eng := t.eng - 1 }))

/-- R440 to R443, R448 to R451, R455 to R457: a bough link trains, offers and confirms, exchanges HELLOs and is UP, or goes DOWN; activation frames are
written to their slot and signalled, or dropped; frame credits; register frames and REMOTE; START and CLEAR_FAULT of a port.
Choices of the model: log 57. -/
def Obligations.BoughLink : Prop :=
  ∀ (s : State) (p : Nat), Calm s → p < 8 → s.snd = [] → (∀ n, n < 6 → SourceOff s (bghR p) n) →
    let x := bghOf s p
    let b := bghB p
    let lk := bghLink s p
    let live : Prop := bghLive s p = true
    let flt (u : State) (n : Nat) : Prop := bit (rd u (b + R.PG_FLT)) n = true
    let front (m : BMsg) (l : List BMsg) : Prop := live ∧ x.inbox = m :: l
    let rest (u : State) (l : List BMsg) : Prop := (bghOf u p).inbox = l
    let idle : Prop := SMap.find b s.busy = none
    let ended (u : State) (st : Nat) : Prop := SMap.find b u.busy = none ∧ fld u (b + R.PG_CMD_STATUS) 7 0 = st
    let rsp (d st : Nat) (vals : List Nat) : Nat := msgOf ([(0, 1, 0x12), (1, 1, 1), (2, 2, msgF d 2 2), (4, 1, msgF d 4 1), (6, 1, st), (8, 4, msgF d 8 4)] ++ (List.range vals.length).map (fun i => (16 + 4 * i, 4, vals.getD i 0)))
    (live → lk = 1 → Completes (.codewordLock p) s (fun u => bghLink u p = 2 ∧ fld u (b + R.BGH_STATUS) 31 24 = 0xFF ∧ bghOf u p = { x with last := s.now, ctrl := x.ctrl ++ [ctrlMsg s p 1] }))
    ∧ (∀ lanes, live → lk = 4 → lanes = true ∨ x.last + 10000 ≤ s.now → idle → Completes (.flitGapTimeout p lanes) s (fun u => bghLink u p = (if fld s (b + R.BGH_CTRL) 4 4 = 1 then 1 else 0)
        ∧ fld u (b + R.BGH_STATUS) 31 24 = 0 ∧ flt u 0 ∧ (bghOf u p).replay = x.replay))
    ∧ (∀ d l, front (.ctrl d) l → d % 256 = 1 → lk = 2 → x.offer = none → x.conf = false → pgState s (bghR p) ≠ stFAULT → Completes (.boughReconOffer p) s (fun u => rest u l ∧ (bghOf u p).offer = some d
        ∧ (bghOf u p).ctrl.length = x.ctrl.length + 1 ∧ bghLink u p = 2
        ∧ (x.lost = true ∨ bit d 8 = true → (bghOf u p).replay = [] ∧ (bghOf u p).txSeq = 0 ∧ (bghOf u p).rxSeq = 0 ∧ (bghOf u p).lost = true
          ∧ rd u (b + R.BGH_LOST) = if x.was then satAdd (rd s (b + R.BGH_LOST)) x.replay.length else rd s (b + R.BGH_LOST))
        ∧ (x.lost = false → bit d 8 = false → (bghOf u p).replay = x.replay.dropWhile (fun f => f.seq ≠ bits d 27 16) ∧ (bghOf u p).txSeq = x.txSeq ∧ (bghOf u p).rxSeq = x.rxSeq)))
    ∧ (∀ c d l, front (.ctrl c) l → c % 256 = 2 → lk = 2 → x.offer = some d → pgState s (bghR p) ≠ stFAULT → idle → Completes (.boughReconConfirm p) s (fun u => rest u l ∧ (bghOf u p).cred = offerCreds d
        ∧ (bghOf u p).offer = none ∧ (x.lost = false → bghLink u p = 4) ∧ (x.lost = true → bghLink u p = 3 ∧ (bghOf u p).mgmt = x.mgmt ++ [helloMsg s p])))
    ∧ (∀ d l, front (.mgmt d) l → d % 256 = 0x20 → lk = 3 → idle →
      (helloAgrees (helloMsg s p) d = true → Completes (.hello p) s (fun u => rest u l ∧ bghLink u p = 4 ∧ heldState u (bghR p) = stRUN ∧ (bghOf u p).was = true ∧ (bghOf u p).lost = false
        ∧ rd u (b + R.BGH_PEER_SN 0) = msgF d 16 4 ∧ rd u (b + R.BGH_PEER_LAYER) = msgF d 40 2 * 2 ^ 16 + msgF d 42 2 ∧ (bghRole s p = 1 → rd u (b + R.BGH_FSEQ) = msgF d 48 4)
        ∧ (bghRole s p = 2 → (bghOf u p).fcred = min (msgF d 45 1) 16)))
      ∧ (helloAgrees (helloMsg s p) d = false → Completes (.hello p) s (fun u => rest u l ∧ bghLink u p = 0 ∧ flt u 1 ∧ heldState u (bghR p) = heldState s (bghR p))))
    ∧ (∀ y, SMap.find b s.busy = some y → y.op = 2 → x.began + 100000000 ≤ s.now → Completes (.boughStartTimeout p) s (fun u => bghLink u p = 0 ∧ ended u 7))
    ∧ (∀ lane tx rx, lane < 8 → tx < 65536 → rx < 65536 → Completes (.bghOptWarn p lane tx rx) s (fun u => rd u (b + R.BGH_OPT lane) = tx * 2 ^ 16 + rx ∧ bghOf u p = x))
    ∧ (live → idle → Completes (.opticalEngineOutOfRange p) s (fun u => flt u 5 ∧ bghLink u p = 0 ∧ (bghOf u p).dark = true ∧ fld u (b + R.BGH_STATUS) 31 24 = 0))
    ∧ (∀ len data pz l, front (.frame len data pz) l → let next := rd s (b + R.BGH_FSEQ)
      let mseq := data / 256 ^ 8 % 2 ^ 32
      (∀ a k, bghStand s 12 = some (a, k) → frameReason s a k next len data pz = 0 → let g := standNum s a k 16 2 % 4096
        let c := standNum s a k 18 1 % 64
        let d := dpaOf g (standNum s a k 24 4 + mseq % max 1 (standNum s a k 15 1) * standNum s a k 28 4)
        pz = [] → takesSignal s g = true → tok s g c < 65535 → SMap.get [] (thrKey g c) s.tokq = [] → (∀ x ∈ granules d len, reach s x = .ok) → rangePoison s d len = false → 0 < len →
        Completes (.activationFrame p) s (fun u => rest u l ∧ memBytes u d len = toBytes len data ∧ (∀ e, e < d ∨ d + len ≤ e → memByte u e = memByte s e)
          ∧ rd u (b + R.BGH_FSEQ) = (mseq + 1) % 2 ^ 32 ∧ tok u g c = tok s g c + 1 ∧ rd u (b + R.BGH_CNT 7) = satAdd (rd s (b + R.BGH_CNT 7)) 1))
      ∧ (∀ a k, bghStand s 12 = some (a, k) → frameReason s a k next len data pz ≠ 0 → Completes (.activationFrame p) s (fun u => rest u l ∧ flt u 2 ∧ (bghOf u p).fback = x.fback + 1
          ∧ (∀ e, memByte u e = memByte s e) ∧ rd u (b + R.BGH_FSEQ) = next))
      ∧ (bghStand s 12 = none → Completes (.activationFrame p) s (fun u => rest u l ∧ flt u 2 ∧ (bghOf u p).fback = x.fback + 1 ∧ ∀ e, memByte u e = memByte s e)))
    ∧ (∀ n l, front (.cred n) l → bghStand s 13 = none → Completes (.frameCredit p) s (fun u => bghOf u p = { x with inbox := l, fcred := min (x.fcred + n) 16 }))
    ∧ (∀ d l, front (.mgmt d) l → d % 256 = 0x10 → let ctl (n : Nat) : Nat := fld s (b + R.BGH_CTRL) n n
      (ctl 2 = 0 → Completes (.regRd p) s (fun u => bghOf u p = { x with inbox := l, mgmt := x.mgmt ++ [rsp d 3 []] }))
      ∧ (ctl 2 = 1 → msgF d 4 1 = 0 → msgF d 8 4 % 4 = 0 → Completes (.regRd p) s (fun u => rest u l ∧ (bghOf u p).mgmt = x.mgmt ++ [rsp d 0 [busRead s (boughOrigin p d) (msgF d 8 4)]])))
    ∧ (∀ d l, front (.mgmt d) l → d % 256 = 0x11 → let ctl (n : Nat) : Nat := fld s (b + R.BGH_CTRL) n n
      let off := msgF d 8 4
      let o := boughOrigin p d
      (ctl 2 = 1 → ctl 3 = 0 → Completes (.regWr p) s (fun u => bghOf u p = { x with inbox := l, mgmt := x.mgmt ++ [rsp d 2 []] } ∧ u.regs = s.regs))
      ∧ (∀ r new, ctl 2 = 1 → ctl 3 = 1 → msgF d 4 1 = 0 → off % 4 = 0 → Free s o 1 → Page.ofOff off = some r → r.t ∉ [.CORE, .SAP, .EVQ, .TFLT, .DFLT, .BGH] → judge s o off 4 (msgF d 16 4) = .apply new →
          isFlow off = false → Completes (.regWr p) s (fun u => rest u l ∧ (bghOf u p).mgmt = x.mgmt ++ [rsp d 0 []] ∧ rd u off = new % 2 ^ 32)))
    ∧ (∀ d l y, front (.mgmt d) l → d % 256 = 0x12 → SMap.find b s.busy = some y → y.op = 0x12 →
      (∀ t wr at0, x.remote = some (t, wr, at0) → t = msgF d 2 2 → Completes (.regRsp p) s (fun u => rest u l ∧ (bghOf u p).remote = none ∧ ended u (if msgF d 6 1 = 0 then 1 else 7)
        ∧ (msgF d 6 1 = 0 → wr = false → rd u (b + R.BGH_RACC_DATA) = msgF d 16 4)))
      ∧ (x.remote = none → Completes (.regRsp p) s (fun u => bghOf u p = { x with inbox := l } ∧ u.busy = s.busy)))
    ∧ (∀ y t wr at0, SMap.find b s.busy = some y → y.op = 0x12 → x.remote = some (t, wr, at0) → at0 + 1000 * fld s (b + R.BGH_TIMEOUT) 15 0 ≤ s.now → Completes (.remoteTimeout p) s (fun u =>
        (bghOf u p).remote = none ∧ ended u 7))
    ∧ (∀ o arg, Accepted s o (bghR p) 0x12 arg → Completes (.remote o p arg) s (fun u => Taken s u o (bghR p) 0x12 arg 2 ∧ (bghOf u p).remote = some (x.tag, bit arg 8, s.now)
        ∧ (bghOf u p).mgmt = x.mgmt ++ [msgOf [(0, 1, if bit arg 8 then 0x11 else 0x10), (1, 1, 1), (2, 2, x.tag), (8, 4, rd s (b + R.BGH_RACC_OFF)), (16, 4, if bit arg 8 then rd s (b + R.BGH_RACC_DATA) else 0)]]))
    ∧ (∀ o arg, Accepted s o (bghR p) 0x10 arg → Completes (.linkRetrain o p arg) s (fun u => Taken s u o (bghR p) 0x10 arg 2 ∧ bghLink u p = 1))
    ∧ (∀ o arg, Accepted s o (bghR p) 2 arg → (bghRole s p ≠ 0 → Completes (.start o (pageNo (bghR p)) arg) s (fun u => Taken s u o (bghR p) 2 arg 2 ∧ bghLink u p = 1 ∧ (bghOf u p).began = s.now))
      ∧ (bghRole s p = 0 → Completes (.start o (pageNo (bghR p)) arg) s (fun u => Taken s u o (bghR p) 2 arg 7 ∧ bghLink u p = lk)))
    ∧ (∀ o arg, Accepted s o (bghR p) 6 arg → x.offer = none → Completes (.clearFault o (pageNo (bghR p)) arg) s (fun u => Taken s u o (bghR p) 6 arg 1
        ∧ heldState u (bghR p) = if x.was then stRUN else stIDLE))
    ∧ (∀ y, SMap.find b s.busy = some y → y.op = 1 ∨ (y.op = 3 ∧ x.frame = none) → Completes (.commandCompletion (pageNo (bghR p)) true) s (fun u => ended u 1 ∧ heldState u (bghR p) = stIDLE))

/-- R459 to R471, R505, R544: the host's configuration accesses, its reads and writes of device memory through BAR2 with their retries, its doorbells
and MSI-X table, and what its link does. No earlier request of the host waits, and the journal holds none of its writes back.
Choices of the model: log 7, log 20, log 58, log 60. -/
def Obligations.HostRequests : Prop :=
  ∀ (s : State) (rid : Nat), Calm s → hostHeld s = false → (∀ n, n < 7 → SourceOff s hifR n) →
    let o := hostOf rid
    let none_ : Prop := s.hif.waiting = []
    let plus (u : State) (off : Nat) : Prop := rd u (hifB + off) = satAdd (rd s (hifB + off)) 1
    let flt (u : State) (n : Nat) : Prop := bit (rd u (hifB + R.PG_FLT)) n = true
    let fine (d n : Nat) : Prop := (∀ x ∈ granules d (max n 1), reach s x = .ok) ∧ rangePoison s d n = false
    let stored (u : State) (d n be v : Nat) : Prop := (∀ i, i < n → memByte u (d + i) = if bit be i then BitVec.ofNat 8 (v / 256 ^ i) else memByte s (d + i)) ∧ ∀ a, a < d ∨ d + n ≤ a → memByte u a = memByte s a
    let link (u : State) (rate width : Nat) (fm : Bool) (top n : Nat) : Prop := rd u (hifB + R.HIF_LINK) = rate * 2 ^ 29 + width * 2 ^ 24 + b2n fm * 2 ^ 23 + top * 2 ^ 20 + n
    let still : Prop := s.hif.copies = [] ∧ s.stream = [] ∧ s.evq.pba = [] ∧ s.evq.hold = []
    (∀ co, (cfgAnswers s = false → Completes (.configRead co) s (fun u => u.out = s.out ++ [.cfgCpl (co / 4 * 4) 0 1]))
      ∧ (cfgAnswers s = true → none_ → Completes (.configRead co) s (fun u => u.out = s.out ++ [.cfgCpl (co / 4 * 4) (cfgRd s (co / 4 * 4)) 0])))
    ∧ (∀ co be val, let off := co / 4 * 4
      (cfgAnswers s = false → Completes (.configWrite rid co be val) s (fun u => u.out = s.out ++ [.cfgCpl off 0 1] ∧ u.cfg = s.cfg))
      ∧ (cfgAnswers s = true → none_ → Free s o 1 → off ∉ [4, 0xB0, rebarControl] → Completes (.configWrite rid co be val) s (fun u => cfgRd u off = byteMerge (cfgRd s off) val be
          ∧ (∃ l, u.jnl.store = s.jnl.store ++ { entryOf s o (0x20000000 + off) (cfgRd s off) (byteMerge (cfgRd s off) val be) 0 false with seq := nextSeq s } :: l) ∧ ∀ a, a ≠ off → cfgRd u a = cfgRd s a))
      ∧ (cfgAnswers s = true → none_ → Free s o 1 → off = rebarControl → 8 ≤ bits val 13 8 → bits val 13 8 ≤ 21 → be = 15 → bits (cfgRd s off) 13 8 ≠ bits val 13 8 → Completes (.configWrite rid co be val) s (fun u =>
          rd u (hifB + R.HIF_WIN_SIZE) = 20 + bits val 13 8 ∧ rd u (hifB + R.HIF_WIN_BASE_LO) = 0 ∧ rd u (hifB + R.HIF_WIN_BASE_HI) = 0)))
    ∧ (∀ bo n, inWindow s bo n = true → none_ → let d := winDpa s bo
      (fine d n → Completes (.bar2Read rid bo n) s (fun u => u.out = s.out ++ [.bar2Cpl d n (memNum s d n) 0] ∧ plus u R.HIF_CNT_BAR2_RD ∧ ∀ a, memByte u a = memByte s a))
      ∧ ((∀ x ∈ granules d (max n 1), reach s x = .ok) → rangePoison s d n = true → fld s (hifB + R.HIF_CTRL) 1 1 = 0 → Completes (.bar2Read rid bo n) s (fun u => u.out = s.out ++ [.bar2Cpl d n 0 2]
          ∧ plus u R.HIF_CNT_POISON_OUT ∧ flt u 3))
      ∧ (reachRange s d n = .retry → Completes (.bar2Read rid bo n) s (fun u => u.out = s.out ∧ u.hif.waiting = [.rd2 (orgWord o) d n (some (s.now, s.now))] ∧ plus u R.HIF_CNT_RETRY))
      ∧ (∀ be v, fine d n → 0 < n → Completes (.bar2Write rid bo n be v false) s (fun u => stored u d n be v ∧ plus u R.HIF_CNT_BAR2_WR ∧ u.hif = s.hif))
      ∧ (∀ be v, fine d n → n = 32 → d % 32 = 0 → be % 2 = 1 → Completes (.bar2Write rid bo n be v true) s (fun u => cwPoison u (d / 32) = true ∧ plus u R.HIF_CNT_POISON_IN ∧ flt u 2)))
    ∧ (∀ g d n t0 t1, s.hif.waiting = [.rd2 g d n (some (t0, t1))] → t1 + 10000 ≤ s.now →
      (reachRange s d n = .retry → Completes (.bar2Retry 0) s (fun u => u.hif.waiting = [.rd2 g d n (some (t0, s.now))] ∧ plus u R.HIF_CNT_RETRY))
      ∧ (fine d n → Completes (.bar2Retry 0) s (fun u => u.hif.waiting = [] ∧ u.out = s.out ++ [.bar2Cpl d n (memNum s d n) 0]))
      ∧ (t0 + 1000 * fld s (hifB + R.HIF_REQ_TIMEOUT) 15 0 ≤ s.now → Completes (.hifReqTimeoutExpiry 0) s (fun u => u.hif.waiting = [] ∧ u.out = s.out ++ [.bar2Cpl d n 0 2] ∧ flt u 1)))
    ∧ (∀ g d n be v t0 t1, s.hif.waiting = [.wr2 g d n be v false (some (t0, t1))] → 
      (t1 + 10000 ≤ s.now → fine d n → 0 < n → Completes (.bar2Retry 0) s (fun u => u.hif.waiting = [] ∧ stored u d n be v))
      ∧ (t0 + 1000 * fld s (hifB + R.HIF_REQ_TIMEOUT) 15 0 ≤ s.now → Completes (.hifReqTimeoutExpiry 0) s (fun u => u.hif.waiting = [] ∧ flt u 1 ∧ ∀ a, memByte u a = memByte s a)))
    ∧ (∀ mo size val, (∀ off new, doorbell mo = some off → none_ → Free s o 2 → s.jnl.wins = [] → judge s o off size val = .apply new → Completes (.doorbellWrite rid mo size val) s (fun u => rd u off = new % 2 ^ 32))
      ∧ (doorbell mo = none → Completes (.doorbellWrite rid mo size val) s (fun u => Apart id [] s u)))
    ∧ (∀ mo val, none_ → Free s o 2 → s.evq.pba = [] →
      (mo < 0x400 → mo % 4 = 0 → Completes (.msixTableWrite rid mo 4 val) s (fun u => SMap.get 0 (mo / 4) u.msix = BitVec.ofNat 32 val ∧ u.jnl.store = s.jnl.store
        ++ [{ entryOf s o (0x10000000 + mo) (tableDw s mo) (val % 2 ^ 32) 0 false with seq := nextSeq s }]))
      ∧ (mo < 0x400 → mo % 8 = 0 → Completes (.msixTableWrite rid mo 8 val) s (fun u => SMap.get 0 (mo / 4) u.msix = BitVec.ofNat 32 val ∧ SMap.get 0 (mo / 4 + 1) u.msix = BitVec.ofNat 32 (val / 2 ^ 32)))
      ∧ (mo = 0x1000 ∨ mo = 0x1004 → Completes (.msixTableWrite rid mo 4 val) s (fun u => u.msix = s.msix ∧ u.evq.pba = [] ∧ u.jnl.store = s.jnl.store
        ++ [{ entryOf s o (0x10000000 + mo) (tableDw s mo) (val % 2 ^ 32) 2 false with seq := nextSeq s }])))
    ∧ (linkUp s = true → still → (∀ down, Completes (.hotReset down) s (fun u => u.cfg = [] ∧ rd u (hifB + R.HIF_WIN_SIZE) = 28
        ∧ (down = true → linkUp u = false ∧ (pgState s hifR = stRUN → flt u 0)) ∧ (down = false → rd u (hifB + R.HIF_LINK) = rd s (hifB + R.HIF_LINK))))
      ∧ (SourceOff s clkR 3 → Completes .refclkLost s (fun u => linkUp u = false ∧ u.cfg = [] ∧ bit (rd u (clkB + R.CLK_STATUS)) 30 = false ∧ bit (rd u (clkB + R.PG_FLT)) 3 = true)))
    ∧ (∀ rate width fm top, linkOk rate width fm top = true → still →
      (mayTrain s = true → linkUp s = false → SMap.find hifB s.busy = none → Completes (.pcieLinkUp rate width fm top) s (fun u => link u rate width fm top (fld s (hifB + R.HIF_LINK) 15 0)))
      ∧ (∀ b, mayTrain s = true → SMap.find hifB s.busy = some b → b.op = 0x11 → rate ≤ b.arg → Completes (.pcieLinkUp rate width fm top) s (fun u =>
          link u rate width fm top (min (fld s (hifB + R.HIF_LINK) 15 0 + 1) 0xFFFF) ∧ SMap.find hifB u.busy = none))
      ∧ (linkUp s = true → bit (rd s (hifB + R.HIF_CTRL)) 0 = true → sitesSettled s = true → bootPhase s = 2 → s.boot.linkUp = false → top = fld s (hifB + R.HIF_LINK) 22 20 → fld s (hifB + R.HIF_LINK) 31 29 ≤ rate →
          Completes (.linkUpwardRetrain rate width fm) s (fun u => link u rate width fm top (min (fld s (hifB + R.HIF_LINK) 15 0 + 1) 0xFFFF) ∧ u.boot.linkUp = true)))
    ∧ Completes .ecrcFailure s (fun u => plus u R.HIF_CNT_ECRC ∧ flt u 6)
    ∧ (∀ q arg, Accepted s q hifR 0x11 arg → Completes (.hifLinkRetrain q arg) s (fun u => Taken s u q hifR 0x11 arg 2 ∧ rd u (hifB + R.HIF_LINK) = rd s (hifB + R.HIF_LINK)))
    ∧ (∀ q val, Free s q 2 → (judge s q (hifB + R.HIF_WIN_BASE_LO) 4 val = .stage → stagedAt s q (hifB + R.HIF_WIN_BASE_LO) = none → Completes (.hifWinBaseWrite q false val) s (fun u =>
          u.staged = s.staged ++ [{ org := orgWord q, off := hifB + R.HIF_WIN_BASE_LO, val := val, time := s.now }] ∧ rd64 u (hifB + R.HIF_WIN_BASE_LO) = rd64 s (hifB + R.HIF_WIN_BASE_LO)))
        ∧ (∀ lo hi, judge s q (hifB + R.HIF_WIN_BASE_HI) 4 val = .applyPair lo hi → Completes (.hifWinBaseWrite q true val) s (fun u => rd64 u (hifB + R.HIF_WIN_BASE_LO) = lo % 2 ^ 32 + hi % 2 ^ 32 * 2 ^ 32)))

/-- R472 to R475, R478, R481 to R483, R489, R491: a copy queue asks for its next descriptor, takes it, copies in or out, reports and signals, or gives
up after HIF_CPL_TIMEOUT; its commands; the registers of the event rings, and the message of a ring.
Choices of the model: log 20, log 59, log 63. -/
def Obligations.CopyEngine : Prop :=
  ∀ (s : State) (q : Nat), Calm s → q < 4 → (∀ n, n < 7 → SourceOff s hifR n) →
    let b := hifB
    let reg (u : State) (off : Nat) : Nat := rd u (b + off)
    let flt (u : State) (n : Nat) : Prop := bit (reg u R.PG_FLT) n = true
    let fresh : Prop := ∀ x ∈ s.hif.stale, x.1 ≠ q
    let ended (u : State) : Prop := copyOf u q = none ∧ reg u (R.CQ_CONS q) = (reg s (R.CQ_CONS q) + 1) % 2 ^ 32
    let told (u : State) (c : Copy) (st : Nat) : Prop := hostOpen s = true → rd64 s (b + R.CQ_SHADOW_LO q) + 4 ≤ cqAddr s q c.n + 28 ∨ cqAddr s q c.n + 28 < rd64 s (b + R.CQ_SHADOW_LO q) → hostNum u (cqAddr s q c.n + 28) 1 = st
      ∧ hostNum u (rd64 s (b + R.CQ_SHADOW_LO q)) 4 = (reg s (R.CQ_CONS q) + 1) % 2 ^ 32
    (pgState s hifR = stRUN → bit (reg s (R.CQ_CTRL q)) 0 = true → bit (reg s (R.CQ_CTRL q)) 1 = false → copyOf s q = none → hostOpen s = true → reg s (R.CQ_PROD q) ≠ reg s (R.CQ_CONS q) →
      Completes (.copyStart q) s (fun u => copyOf u q = some { q := q, n := reg s (R.CQ_CONS q), since := some s.now } ∧ (∀ k, k ≠ q → copyOf u k = copyOf s k) ∧ Apart (fun x => { x with hif := {} }) [] s u))
    ∧ (∀ c, copyOf s q = some c → c.q = q → c.desc = none → c.since.isSome = true → fresh → let d := hostNum s (cqAddr s q c.n) 32
      (copyOk d = true → ∀ n ep, Completes (.hostReadCompletion q n ep) s (fun u => copyOf u q = some { c with desc := some d, since := if cUp d then none else some s.now }))
      ∧ (copyOk d = false → bit d 161 = false → ∀ n ep, Completes (.hostReadCompletion q n ep) s (fun u => ended u ∧ flt u 5 ∧ told u c 1 ∧ ∀ a, memByte u a = memByte s a)))
    ∧ (∀ c d n, copyOf s q = some c → c.q = q → c.desc = some d → c.since.isSome = true → fresh → n % 32 = 0 → 0 < n → n ≤ cLen d - c.pos → let a := cDpa d + c.pos
      a % 32 = 0 → (∀ x ∈ granules a n, reach s x = .ok) → Completes (.hostReadCompletion q n false) s (fun u => memBytes u a n = hostBytes s (cHost d + c.pos) n
        ∧ (∀ e, e < a ∨ a + n ≤ e → memByte u e = memByte s e) ∧ copyOf u q = some { c with pos := c.pos + n, since := if c.pos + n = cLen d then none else some s.now }))
    ∧ (∀ e n ep, s.hif.stale = [e] → e.1 = q → Completes (.hostReadCompletion q n ep) s (fun u => u.hif = { s.hif with stale := [] } ∧ ∀ a, memByte u a = memByte s a))
    ∧ (∀ c d, copyOf s q = some c → c.q = q → c.desc = some d → c.since = none → pgState s hifR = stRUN → hostOpen s = true → bit d 161 = false →
      (cUp d = false → c.pos = cLen d → Completes (.copyCompletion q) s (fun u => ended u ∧ told u c (if c.dead then 4 else if c.pz then 2 else 0) ∧ ∀ a, memByte u a = memByte s a))
      ∧ (cUp d = true → cLen d % 32 = 0 → (∀ x ∈ granules (cDpa d) (max (cLen d) 1), reach s x = .ok) → rangePoison s (cDpa d) (cLen d) = false →
        Completes (.copyCompletion q) s (fun u => ended u ∧ (cHost d + cLen d ≤ rd64 s (b + R.CQ_SHADOW_LO q) → cHost d + cLen d ≤ cqAddr s q c.n → hostBytes u (cHost d) (cLen d) = memBytes s (cDpa d) (cLen d)))))
    ∧ (∀ c d, copyOf s q = some c → c.q = q → c.desc = some d → c.since = none → pgState s hifR = stRUN → hostOpen s = true → bit d 161 = true → cUp d = false → c.pos = cLen d → c.dead = false →
      let g := bits d 187 176
      let k := bits d 173 168
      siteEnabled s (g / 64) = true → takesSignal s g = true → tok s g k < 65535 → SMap.get [] (thrKey g k) s.tokq = [] → Completes (.copyCompletion q) s (fun u => ended u ∧ tok u g k = tok s g k + 1))
    ∧ (∀ c t, copyOf s q = some c → c.q = q → c.since = some t → (c.desc.any (fun d => bit d 161)) = false → t + 1000000 * fld s (b + R.HIF_CPL_TIMEOUT) 5 0 ≤ s.now → Completes (.hifCplTimeoutExpiry 0 q) s (fun u =>
        ended u ∧ bit (reg u (R.CQ_CTRL q)) 1 = true ∧ flt u 4))
    ∧ (∀ g n e, g < 4096 → n < 4 → (streamOf s g).bursts.find? (·.ring = n) = some e → e.ring = n → bit (rd s (coreB g + R.RING_CTRL n)) 1 = true → e.time + 1000000 * fld s (b + R.HIF_CPL_TIMEOUT) 5 0 ≤ s.now →
        SourceOff s ⟨.CORE, g⟩ cTimeout → Completes (.hifCplTimeoutExpiry 1 (4 * g + n)) s (fun u => (streamOf u g).stopped = (streamOf s g).stopped ++ [n] ∧ bit (rd u (coreB g + R.PG_FLT)) cTimeout = true))
    ∧ (jnlDrains s = true → s.jnl.store ≠ [] → SourceOff s jnlR 0 → Completes (.hifCplTimeoutExpiry 2 0) s (fun u => bit (rd u (jnlB + R.PG_FLT)) 0 = true ∧ u.jnl = s.jnl))
    ∧ (∀ o val, Free s o 2 → s.jnl.wins = [] → judge s o (b + R.CQ_PROD q) 4 val = .apply val → val < 2 ^ 32 → Completes (.cqProdWrite o q val) s (fun u => reg u (R.CQ_PROD q) = val))
    ∧ (∀ o arg, Accepted s o hifR 0x10 arg → arg = q → copyOf s q = none → Completes (.cqReset o arg) s (fun u => Taken s u o hifR 0x10 arg 2 ∧ reg u (R.CQ_CONS q) = reg s (R.CQ_PROD q) ∧ bit (reg u (R.CQ_CTRL q)) 1 = false))
    ∧ (∀ o n val, n < 64 → Free s o 2 → s.jnl.wins = [] → val < 2 ^ 32 → (judge s o (evqB + R.ER_CONS n) 4 val = .apply val → Completes (.erConsWrite o n val) s (fun u => rd u (evqB + R.ER_CONS n) = val))
      ∧ (judge s o (evqB + R.ER_PROD n) 4 val = .apply val → ringHeld s n = false → Completes (.erProdWrite o n val) s (fun u => rd u (evqB + R.ER_PROD n) = val)))
    ∧ (∀ n, n < 64 →
      let may : Prop := msixEnabled s = true ∧ msixMasked s = false ∧ busMaster s = true ∧ linkUp s = true ∧ bit (msixDw s n 3) 0 = false
      (n ∉ s.evq.pba → msixDue s n = true → may → Completes (.msixMessage n) s (fun u => u.out = s.out ++ [.msix n (msixDw s n 0 + msixDw s n 1 * 2 ^ 32) (msixDw s n 2)] ∧ SMap.get (0, 0) n u.evq.counted = (0, 0)))
      ∧ (n ∉ s.evq.pba → msixDue s n = true → msixEnabled s = true → bit (msixDw s n 3) 0 = true → Completes (.msixMessage n) s (fun u => u.out = s.out ∧ u.evq.pba = s.evq.pba ++ [n]))
      ∧ (n ∈ s.evq.pba → msixDue s n = false → may → Completes (.msixMessage n) s (fun u => u.out = s.out ++ [.msix n (msixDw s n 0 + msixDw s n 1 * 2 ^ 32) (msixDw s n 2)] ∧ n ∉ u.evq.pba))
      ∧ (n ∉ s.evq.pba → msixDue s n = false → Completes (.msixMessage n) s (fun u => u.out = s.out ∧ u.evq = s.evq)))

/-- R460, R487, R488: the SPDM requests are answered in the order the connection allows, with slot 0's digest and certificate, and the six
measurements; a request that its state does not allow, or another, gets an ERROR; DOE Discovery names its two objects. What a digest is, is free.
Choices of the model: log 61, log 62. -/
def Obligations.SpdmRequests : Prop :=
  ∀ (s : State), Calm s → cfgAnswers s = true →
    let st := spdmState s
    let tells (i : Instr) (code param : Nat) (l : List Nat) (st' : Nat) : Prop := Completes i s (fun u => u.out = s.out ++ [.spdm code param l] ∧ spdmState u = st' ∧ Apart (fun x => { x with out := [] }) [] s u)
    let signed (u : State) : Prop := fld u (hifB + R.HIF_SPDM) 31 16 = min (fld s (hifB + R.HIF_SPDM) 31 16 + 1) 65535
    tells .getVersion 0x04 0 [0x1300] 1 ∧ tells .spdmUnsupportedRequest 0x7F 7 [] st
    ∧ (st = 1 → tells .getCapabilities 0x61 0 [4096] 2) ∧ (st ≠ 1 → tells .getCapabilities 0x7F 4 [] st)
    ∧ (st = 2 → tells .negotiateAlgorithms 0x63 0 [0x80, 0x02, 0x04] 3) ∧ (st ≠ 2 → tells .negotiateAlgorithms 0x7F 4 [] st)
    ∧ (3 ≤ st → tells .getDigests 0x01 1 [certDigest s] st) ∧ (st < 3 → tells .getDigests 0x7F 4 [] st)
    ∧ (∀ slot nonce, (3 ≤ st → slot = 0 → tells (.getCertificate slot) 0x02 0 [certChain s] st ∧ Completes (.challenge slot nonce) s (fun u => signed u ∧ spdmState u = 4
          ∧ u.out = s.out ++ [.spdm 0x03 0 [certDigest s, Config.digest 8 nonce (certDigest s)]]))
        ∧ (3 ≤ st → slot ≠ 0 → tells (.getCertificate slot) 0x7F 1 [] st ∧ tells (.challenge slot nonce) 0x7F 1 [] st)
        ∧ (st < 3 → tells (.getCertificate slot) 0x7F 4 [] st ∧ tells (.challenge slot nonce) 0x7F 4 [] st))
    ∧ (∀ nonce, 3 ≤ st → tells (.getMeasurements 0 false nonce) 0x60 6 [] st
        ∧ (∀ i, 1 ≤ i → i ≤ 6 → tells (.getMeasurements i false nonce) 0x60 1 [measurement s i] st)
        ∧ tells (.getMeasurements 255 false nonce) 0x60 6 ((List.range 6).map (fun i => measurement s (i + 1))) st
        ∧ (∀ i sg, 6 < i → i ≠ 255 → tells (.getMeasurements i sg nonce) 0x7F 1 [] st)
        ∧ (∀ i, 1 ≤ i → i ≤ 6 → Completes (.getMeasurements i true nonce) s (fun u => signed u ∧ ∃ g, u.out = s.out ++ [.spdm 0x60 1 [measurement s i, g]])))
    ∧ Completes (.doeDiscovery 0) s (fun u => u.out = s.out ++ [.discovery 0 1 0 1]) ∧ Completes (.doeDiscovery 1) s (fun u => u.out = s.out ++ [.discovery 1 1 1 0])

/-- R494 to R514: core islands step towards their effective frequency; an island without edges, off its frequency or silent in a handshake is lost,
recorded, counted and answered by its fixed action; device time goes on, is slewed and exchanged over PTM, and holdover begins and ends.
Choices of the model: log 4, log 38. -/
def Obligations.Clocks : Prop :=
  ∀ (s : State), Calm s → (∀ n, n < 5 → SourceOff s clkR n) → SourceOff s timR 0 → SourceOff s ⟨.EVQ, 0⟩ 0 →
    let creg (u : State) (off : Nat) : Nat := rd u (clkB + off)
    let cplus (u : State) (off : Nat) : Prop := creg u off = satAdd (creg s off) 1
    let holdover (u : State) (b : Bool) : Prop := bit (creg u R.CLK_STATUS) 31 = !b ∧ bit (creg u R.CLK_STATUS) 29 = b ∧ bit (rd u (timB + R.TIM_STATUS)) 0 = b
    let rate (u : State) : Prop := fld u (timB + R.TIM_RATE) 15 0 = wrap 16 (slewRate (slewDiff u)) ∧ (bit (rd u (timB + R.TIM_STATUS)) 1 = true ↔ slewRate (slewDiff u) ≠ 0)
    (∀ dt, Completes (.timeCorrection dt) s (fun u => u.now = s.now + dt ∧ rate u ∧ (s.clk.leaving = 0 → u.clk = s.clk)
        ∧ (s.clk.leaving ≠ 0 → u.clk.leaving = if s.clk.leaving.natAbs ≤ 100 then 0 else s.clk.leaving - slewRate s.clk.leaving * (dt : Int) / 100000000)
        ∧ Apart (fun x => { x with now := 0, clk := {} }) [timR] s u))
    ∧ (∀ host delay, (fld s (timB + R.TIM_CTRL) 0 0 = 0 → ∀ ok, Completes (.ptmExchange host delay ok) s (fun u => Apart id [] s u))
      ∧ (fld s (timB + R.TIM_CTRL) 0 0 = 1 → SMap.find timB s.busy = none →
        Completes (.ptmExchange host delay true) s (fun u => rd64 u (timB + R.TIM_PTM_OFFSET_LO) = (host + 2 ^ 64 - s.now % 2 ^ 64) % 2 ^ 64 ∧ rd64 u (timB + R.TIM_PTM_AT_LO) = s.now % 2 ^ 64
          ∧ rd u (timB + R.TIM_PTM_STATUS) = 2 ^ 31 + min delay 0xFFFF ∧ u.clk = { s.clk with missed := 0 } ∧ bit (rd u (timB + R.TIM_STATUS)) 2 = false ∧ rate u
          ∧ Apart (fun x => { x with clk := {} }) [timR] s u)
        ∧ Completes (.ptmExchange host delay false) s (fun u => u.clk = { s.clk with missed := s.clk.missed + 1 } ∧ u.now = s.now
          ∧ (s.clk.missed = 2 → bit (rd u (timB + R.TIM_STATUS)) 2 = true ∧ bit (rd u (timB + R.PG_FLT)) 0 = true) ∧ Apart (fun x => { x with clk := {} }) [timR] s u)))
    ∧ (∀ o arg, Accepted s o timR 0x10 arg → fld s (timB + R.TIM_CTRL) 0 0 = 1 → Completes (.ptmNow o arg) s (fun u => Taken s u o timR 0x10 arg 2))
    ∧ Completes .sysrefLost s (fun u => holdover u true ∧ bit (creg u R.PG_FLT) 2 = true ∧ Apart id [clkR, timR] s u)
    ∧ (∀ d, Completes (.sysrefReturn d) s (fun u => holdover u false ∧ rate u ∧ u.clk = (if bit (rd s (timB + R.TIM_STATUS)) 0 then { s.clk with leaving := d } else s.clk)
        ∧ Apart (fun x => { x with clk := {} }) [clkR, timR] s u))
    ∧ Completes .refclkReturn s (fun u => creg u R.CLK_STATUS = creg s R.CLK_STATUS ||| 2 ^ 30 ∧ Apart id [clkR] s u)
    ∧ (∀ g, g < 4096 → let c := freqCur s g
      let t := freqTarget s g
      let moves : Prop := domOn s (g / 64) (g % 64) .core = true ∧ islandLost s 0 (g / 64) (g % 64) = false ∧ c ≠ t
      let n := if c < t then c + 1 else c - 1
      (moves → Completes (.freqStep g) s (fun u => freqCur u g = n ∧ (∀ h, h ≠ g → freqCur u h = freqCur s h) ∧ creg u R.CLK_CNT_FREQ_CHANGE = satAdd (creg s R.CLK_CNT_FREQ_CHANGE) (if n = t then 1 else 0)
        ∧ Apart (fun x => { x with clk := {} }) [clkR] s u))
      ∧ (¬ moves → Completes (.freqStep g) s (fun u => Apart id [] s u)))
    ∧ (∀ o arg, Accepted s o clkR 0x10 arg → Completes (.freqSet o arg) s (fun u => Taken s u o clkR 0x10 arg 2
        ∧ ∀ g, SMap.get 36 g u.clk.set = if g ∈ freqScope s arg then arg % 64 else SMap.get 36 g s.clk.set))
    ∧ (∀ o arg, Accepted s o clkR 0x11 arg → arg < 64 → pgState s ⟨.TILE, arg⟩ ≠ stRETIRED → Completes (.tileReset o arg) s (fun u => Taken s u o clkR 0x11 arg 2
        ∧ heldState u ⟨.TILE, arg⟩ = stRESET ∧ ∀ c k, c < 64 → k < 64 → pgState s ⟨.CORE, arg * 64 + c⟩ ≠ stOFF → pgState s ⟨.CORE, arg * 64 + c⟩ ≠ stRETIRED → (thr u (arg * 64 + c) k).state = tFREE))
    ∧ (∀ kind site idx ok edges, islandExists s kind site idx = true → islandOn s kind site idx = true → site < 64 →
      let is : Nat × Nat × Nat := (kind, site, idx)
      let noted (cause : Nat) (u : State) : Prop := creg u R.CLK_LAST = (cause * 2 ^ 30 + kind * 2 ^ 16 + site * 2 ^ 9 + idx) % 2 ^ 32 ∧ cplus u (if cause = 2 then R.CLK_CNT_HS_TIMEOUT else R.CLK_CNT_LOST)
        ∧ bit (creg u R.PG_FLT) (if cause = 2 then 1 else 0) = true ∧ (u.clk.losses.lookup is).getD 0 = (s.clk.losses.lookup is).getD 0 + 1 ∧ u.clk.set = s.clk.set
      let gone (i : Instr) (cause : Nat) : Prop := islandLost s kind site idx = false →
        (kind = 0 → Completes i s (fun u => noted cause u ∧ islandLost u kind site idx = true ∧ leafOf u (site * 64 + idx) = {} ∧ arrOf u (site * 64 + idx) = {} ∧ ∀ k, k < 64 → (thr u (site * 64 + idx) k).state = tFREE))
        ∧ (kind = 1 → Completes i s (fun u => noted cause u ∧ islandLost u kind site idx = true ∧ fenced u site = true))
        ∧ (kind = 2 → ok = true → Completes i s (fun u => noted cause u ∧ islandLost u kind site idx = false ∧ (chanAt u (site * 64 + idx / 8) (idx % 8)).hold = none ∧ ∀ a, memByte u a = memByte s a))
        ∧ (kind = 3 → ok = true → Completes i s (fun u => noted cause u ∧ islandLost u kind site idx = false))
        ∧ (kind = 5 → Completes i s (fun u => noted cause u ∧ islandLost u kind site idx = false ∧ Apart (fun x => { x with lost := [], clk := {} }) [clkR] s u))
      gone (.islandClockLost kind site idx ok) 0 ∧ gone (.handshakeTimeout kind site idx ok) 2
      ∧ (kind < 5 → offFrequency s kind site idx edges = true → gone (.clockMonitorWindow kind site idx edges ok) 1)
      ∧ (offFrequency s kind site idx edges = false → Completes (.clockMonitorWindow kind site idx edges ok) s (fun u => Apart id [] s u))
      ∧ (islandLost s kind site idx = true → Completes (.islandClockLost kind site idx ok) s (fun u => Apart id [] s u))
      ∧ (kind = 4 → islandLost s kind site idx = false → Completes (.islandClockLost kind site idx ok) s (fun u => fld u (trkB + R.TRK_RESET_CAUSE) 15 0 = 16 ∧ ∀ a, memByte u a = 0)))

/-- R518, R526 to R529: the input monitors set and release PWR_STATE, count and report; the governor moves the module's frequency cap and a site's own
by the step rule; a fast cut takes the cap to code 0; overcurrent and silent telemetry raise their faults. Voltages in mV, power in W.
Choices of the model: log 42. -/
def Obligations.PowerInput : Prop :=
  ∀ (s : State) (a b bus : Nat), Calm s → (∀ n, n < 6 → SourceOff s pwrR n) → EventOff s pwrR 0 → EventOff s pwrR 1 → EventOff s pwrR 2 → EventOff s pwrR 3 →
    let reg (u : State) (off : Nat) : Nat := rd u (pwrB + off)
    let plus (u : State) (off : Nat) : Prop := reg u off = satAdd (reg s off) 1
    let flt (u : State) (n : Nat) : Prop := bit (reg u R.PG_FLT) n = true
    let seen (u : State) : Prop := reg u R.PWR_VIN = min b 0xFFFF * 2 ^ 16 + min a 0xFFFF ∧ fld u (pwrB + R.PWR_VBUS) 15 0 = min bus 0xFFFF
    let stands (u : State) (n : Nat) (v : Bool) : Prop := pwrBit u n = v ∧ ∀ m, m < 5 → m ≠ n → pwrBit u m = pwrBit s m
    let near (u : State) : Prop := Apart (fun x => { x with pwr := {} }) [pwrR] s u
    let asIs (u : State) : Prop := (∀ n, n < 5 → pwrBit u n = pwrBit s n) ∧ u.pwr = s.pwr ∧ near u
    let capCode (u : State) : Nat := fld u (pwrB + R.PWR_LIMIT) 21 16
    let lim (u : State) (n : Nat) : Prop := fld u (pwrB + R.PWR_LIMIT) 15 0 = n % 2 ^ 16
    let cut (u : State) : Prop := capCode u = 0 ∧ fld u (pwrB + R.PWR_LIMIT) 31 29 = 4 ∧ plus u R.PWR_CNT_FAST_CUT
    Completes (.undervoltageWarning a b bus) s (fun u => seen u ∧ (bus < 42000 → pwrBit s 0 = false → stands u 0 true ∧ plus u R.PWR_CNT_UV ∧ near u) ∧ (42000 ≤ bus ∨ pwrBit s 0 = true → asIs u))
    ∧ Completes (.brownOut a b bus) s (fun u => seen u ∧ (bus < 40000 → pwrBit s 1 = false → stands u 1 true ∧ lim u (pLim s bus).1 ∧ near u) ∧ (40000 ≤ bus ∨ pwrBit s 1 = true → asIs u))
    ∧ Completes (.overvoltageWarning a b bus) s (fun u => seen u ∧ (58000 < max a b → s.pwr.past = false → stands u 3 true ∧ u.pwr = { s.pwr with past := true } ∧ near u) ∧ (max a b ≤ 58000 ∨ s.pwr.past = true → asIs u))
    ∧ (∀ pair, pair < 2 → let mine := if pair = 0 then a else b
      let other := if pair = 0 then b else a
      let gone (u : State) (limit : Nat) : Prop := pwrBit u 2 = true ∧ bit u.pwr.lost pair = true ∧ plus u R.PWR_CNT_PAIR_LOST ∧ flt u 1 ∧ lim u limit ∧ (limit < fld s (pwrB + R.PWR_POWER) 15 0 → cut u)
        ∧ (fld s (pwrB + R.PWR_POWER) 15 0 ≤ limit → capCode u = capCode s)
      let single := (pLim { s with pwr := { s.pwr with lost := s.pwr.lost + 2 ^ pair } } bus).1
      Completes (.pairLost pair a b bus) s (fun u => seen u
        ∧ (40000 ≤ other → (mine < 38000 ∨ mine + 3000 < other) → bit s.pwr.lost pair = false → s.pwr.lost < 4 → gone u single ∧ u.pwr.opened = s.pwr.opened ∧ near u)
        ∧ (other < 40000 ∨ (38000 ≤ mine ∧ other ≤ mine + 3000) ∨ bit s.pwr.lost pair = true → asIs u))
      ∧ Completes (.pairOvervoltage pair a b bus) s (fun u => seen u
        ∧ (62000 < mine → bit s.pwr.opened pair = false → s.pwr.lost < 4 → s.pwr.opened < 4 → bit u.pwr.opened pair = true ∧ pwrBit u 3 = true ∧ flt u 2 ∧ (bit s.pwr.lost pair = false → gone u single) ∧ near u)
        ∧ (mine ≤ 62000 ∨ bit s.pwr.opened pair = true → asIs u)))
    ∧ (∀ c, s.pwr.lost < 4 → s.pwr.opened < 4 → Completes (.inputConditionRelease c a b bus) s (fun u => seen u ∧ near u
        ∧ (c = 0 → stands u 0 (pwrBit s 0 && decide (bus < 43000))) ∧ (c = 1 → stands u 1 (pwrBit s 1 && decide (bus < 40500)))
        ∧ (c = 2 ∨ c = 3 → let p := c - 2
          let free : Prop := max a b - min a b ≤ 300 ∧ bit s.pwr.lost p = true ∧ bit s.pwr.opened p = false
          (free → bit u.pwr.lost p = false ∧ bit u.pwr.lost (1 - p) = bit s.pwr.lost (1 - p) ∧ stands u 2 (decide (u.pwr.lost ≠ 0))) ∧ (¬ free → asIs u))
        ∧ (c = 4 → max a b ≤ 57500 → u.pwr = { s.pwr with past := false } ∧ stands u 3 (decide (s.pwr.opened ≠ 0)))
        ∧ (c = 5 ∨ c = 6 → let p := c - 5
          let free : Prop := bit s.pwr.opened p = true ∧ (if p = 0 then a else b) ≤ 57500
          (free → bit u.pwr.opened p = false ∧ bit u.pwr.opened (1 - p) = bit s.pwr.opened (1 - p) ∧ stands u 3 (s.pwr.past || decide (u.pwr.opened ≠ 0))) ∧ (¬ free → asIs u))
        ∧ (6 < c → asIs u)))
    ∧ (∀ ia ib, Completes (.pairOvercurrent ia ib) s (fun u => reg u R.PWR_IIN = min ib 0xFFFF * 2 ^ 16 + min ia 0xFFFF ∧ (1200 < max ia ib → flt u 4) ∧ Apart id [pwrR] s u))
    ∧ (∀ avg, s.pwr.silent = [] → (∀ x, x < 64 → siteEnabled s x = true → fld s (tpwrB x + R.TPWR_CAP) 15 0 = 0) → avg < 2 ^ 16 → capCode s ≤ 48 →
      let p := pLim s bus
      let low : Prop := 100 * avg < 95 * p.1
      Completes (.powerGovernorTick a b bus avg []) s (fun u => seen u ∧ lim u p.1 ∧ fld u (pwrB + R.PWR_POWER) 15 0 = avg
        ∧ (105 * p.1 < 100 * avg → capCode u = capCode s - 4) ∧ (p.1 < avg → 100 * avg ≤ 105 * p.1 → capCode u = capCode s - 1)
        ∧ (low → capCode u = if s.pwr.below.getD s.now + 1000000 ≤ s.now then min (capCode s + 1) 48 else capCode s) ∧ (avg ≤ p.1 → ¬ low → capCode u = capCode s)
        ∧ (capCode u < capCode s → fld u (pwrB + R.PWR_LIMIT) 31 29 = p.2) ∧ ∀ x, x < 64 → siteEnabled s x = true → fld u (tpwrB x + R.TPWR_FCAP) 5 0 = 48))
    ∧ (∀ site avg r1 r2 r3, site < 64 → siteEnabled s site = true → 0 < fld s (tpwrB site + R.TPWR_CAP) 15 0 → r2 < 2 ^ 32 → EventOff s (tpwrR site) 1 →
      let cap := 10 * fld s (tpwrB site + R.TPWR_CAP) 15 0
      let w := bits r2 15 0
      let low := decide (100 * w < 95 * cap) && decide ((SMap.find site s.pwr.siteBelow).getD s.now + 1000000 ≤ s.now)
      Completes (.powerGovernorTick a b bus avg [(site, r1, r2, r3)]) s (fun u => rd u (tpwrB site + R.TPWR_P0) = r1 % 2 ^ 32 ∧ rd u (tpwrB site + R.TPWR_P1) = r2 ∧ rd u (tpwrB site + R.TPWR_RAIL) = r3 % 2 ^ 32
        ∧ site ∉ u.pwr.silent ∧ fld u (tpwrB site + R.TPWR_FCAP) 5 0 = stepRule (fld s (tpwrB site + R.TPWR_FCAP) 5 0) w cap low % 64))
    ∧ (∀ n, let longer (t : Nat) : Prop := t + 10000000 ≤ s.now
      let due : Prop := 8600 < n ∨ ∃ t, s.pwr.above = some t ∧ longer t
      (due → s.pwr.siteAbove = [] → Completes (.fastCut n) s (fun u => cut u ∧ u.pwr = { s.pwr with above := none, below := none } ∧ near u))
      ∧ (¬ due → (∀ e ∈ s.pwr.siteAbove, ¬ longer e.2) → Completes (.fastCut n) s (fun u => capCode u = capCode s ∧ u.pwr = s.pwr ∧ fld u (pwrB + R.PWR_POWER) 31 16 = max (fld s (pwrB + R.PWR_POWER) 31 16) (min n 0xFFFF) ∧ near u))
      ∧ (∀ site t, ¬ due → s.pwr.siteAbove = [(site, t)] → longer t → site < 64 → EventOff s (tpwrR site) 1 → Completes (.fastCut n) s (fun u => fld u (tpwrB site + R.TPWR_FCAP) 5 0 = 0 ∧ capCode u = capCode s
          ∧ plus u R.PWR_CNT_FAST_CUT ∧ u.pwr.siteAbove = [])))
    ∧ (∀ site, site < 64 → siteEnabled s site = true → SourceOff s (tpwrR site) 1 → (site ∉ s.pwr.silent → Completes (.telemetryLoss site) s (fun u => u.pwr = { s.pwr with silent := s.pwr.silent ++ [site] }
        ∧ bit (rd u (tpwrB site + R.PG_FLT)) 1 = true ∧ siteCap u site = 0 ∧ Apart (fun x => { x with pwr := {} }) [tpwrR site] s u))
      ∧ (site ∈ s.pwr.silent → Completes (.telemetryLoss site) s (fun u => Apart id [] s u)))

/-- R521 to R523, R530 to R537, R691: a stage or a rail that fails darkens its sites or domains; STAGE_RESTART, DOM_SET and CORES_APPLY are taken;
power-fail discards, saves its record where a slot is ready and takes the rails down; so does PWR_EN going low.
Choices of the model: log 41, log 42. -/
def Obligations.PowerDomains : Prop :=
  ∀ (s : State), Calm s → (∀ n, n < 6 → SourceOff s pwrR n) → SourceOff s ⟨.EVQ, 0⟩ 0 →
    let held : Prop := bit (rd s (pwrB + R.PWR_CTRL)) 0 = true
    let slotReady : Prop := bit (rd s (pwrB + R.PWR_SAVE_STATUS)) 30 = true
    let into := if SMap.find 0 s.pwr.slots = none then 0 else 1
    let dark (u : State) (x : Nat) : Prop := domOn u x 0 .common = false ∧ domOn u x 0 .memory = false ∧ (∀ c, c < 64 → domOn u x c .core = false) ∧ fenced u x = true
      ∧ (domOn s x 0 .memory = true → (∀ d, d / 2 ^ 35 = x → memByte u d = 0) ∧ inService u x = false)
    let lost (i : Instr) (cause : Nat) (ok : Bool) : Prop := Completes i s (fun u => u.pins.pwrgd = false ∧ pwrBit u 4 = true ∧ bit (rd u (pwrB + R.PG_FLT)) 0 = true
      ∧ u.pwr.discarded = s.pwr.discarded + s.jnl.bp.held.length ∧ u.jnl.bp.held = [] ∧ (∀ a, memByte u a = memByte s a)
      ∧ (held → slotReady → bit (rd u (pwrB + R.PWR_SAVE_STATUS)) 30 = false ∧ ∃ r, u.pwr.slots = SMap.put into ((match newestSave s with | some (_, q) => (q + 1) % 2 ^ 32 | none => 1), r, ok) s.pwr.slots
          ∧ r / 256 ^ 4 % 256 = cause ∧ r / 256 ^ 8 % 256 ^ 8 = s.now % 256 ^ 8 ∧ r / 256 ^ 20 % 256 ^ 4 = (s.pwr.discarded + s.jnl.bp.held.length) % 256 ^ 4 ∧ r / 256 ^ 24 % 256 ^ 4 = nextSeq s)
      ∧ (held → ¬ slotReady → u.pwr.slots = s.pwr.slots ∧ bit (rd u (pwrB + R.PG_FLT)) 5 = true) ∧ (¬ held → u.pwr.slots = s.pwr.slots))
    (∀ a b bus ok, (bus < 38000 ∨ max a b < 38000 → lost (.powerFail a b bus ok) (if s.pwr.opened = 3 then 2 else 0) ok) ∧ (38000 ≤ bus → 38000 ≤ max a b → Completes (.powerFail a b bus ok) s (fun u => Apart id [] s u)))
    ∧ (∀ ok, (2 ≤ fld s (trkB + R.TRK_FW_STATE) 7 0 → lost (.pwrEnLow ok) 1 ok) ∧ (fld s (trkB + R.TRK_FW_STATE) 7 0 < 2 → Completes (.pwrEnLow ok) s (fun u => u.pins = { s.pins with pwrEn := false, pwrgd := false }
        ∧ Apart (fun x => { x with pins := {} }) [] s u)))
    ∧ Completes .carrierBusDischarged s (fun u => u.pins = { s.pins with v50 := false, thermtrip := false, pwrgd := false } ∧ Apart (fun x => { x with pins := {} }) [] s u)
    ∧ (∀ stage cause, stage < 16 → Completes (.stageFault stage cause) s (fun u => bit (rd u (pwrB + R.PWR_STAGES)) (16 + stage) = true ∧ bit (rd u (pwrB + R.PG_FLT)) 3 = true
        ∧ (∀ x, x ∈ stageSites stage → dark u x ∧ domOn u x 0 .root = false) ∧ ∀ d, d / 2 ^ 35 ∉ stageSites stage → memByte u d = memByte s d))
    ∧ (∀ site c mv, site < 64 → c < 64 → SourceOff s (tpwrR site) 0 → let flt (u : State) : Prop := bit (rd u (tpwrB site + R.PG_FLT)) 0 = true
      Completes (.railFault site 0 c mv) s (fun u => flt u ∧ domOn u site c .core = false ∧ (∀ k, k < 64 → k ≠ c → domOn u site k .core = domOn s site k .core)
          ∧ (domOn s site c .core = true → leafOf u (site * 64 + c) = {} ∧ ∀ k, k < 64 → (thr u (site * 64 + c) k).state = tFREE) ∧ ∀ d, memByte u d = memByte s d)
      ∧ Completes (.railFault site 1 c mv) s (fun u => flt u ∧ domOn u site 0 .common = false ∧ (∀ k, k < 64 → domOn u site k .core = false) ∧ domOn u site 0 .memory = domOn s site 0 .memory ∧ ∀ d, memByte u d = memByte s d)
      ∧ (domOn s site 0 .memory = true → Completes (.railFault site 2 c mv) s (fun u => flt u ∧ dark u site ∧ domOn u site 0 .root = domOn s site 0 .root ∧ ∀ d, d / 2 ^ 35 ≠ site → memByte u d = memByte s d)))
    ∧ (∀ o arg, (Accepted s o pwrR 0x10 arg → Completes (.stageRestart o arg) s (fun u => Taken s u o pwrR 0x10 arg 2 ∧ rd u (pwrB + R.PWR_STAGES) = rd s (pwrB + R.PWR_STAGES)))
      ∧ (Accepted s o pwrR 0x11 arg → s.pwr.found.isSome = true → Completes (.saveRelease o arg) s (fun u => Taken s u o pwrR 0x11 arg 2 ∧ u.pwr = s.pwr))
      ∧ (Accepted s o pwrR 0x11 arg → s.pwr.found = none → Completes (.saveRelease o arg) s (fun u => rd u (pwrB + R.PG_CMD_STATUS) % 256 = 7 ∧ u.pwr = s.pwr))
      ∧ ∀ site, site < 64 → (Accepted s o (tpwrR site) 0x10 arg → coresRefuse s site = false → Completes (.coresApply o site arg) s (fun u => Taken s u o (tpwrR site) 0x10 arg 2))
        ∧ (Accepted s o (tpwrR site) 0x10 arg → coresRefuse s site = true → Completes (.coresApply o site arg) s (fun u => rd u (tpwrB site + R.PG_CMD_STATUS) % 256 = 7
            ∧ ∀ c, c < 64 → domOn u site c .core = domOn s site c .core))
        ∧ (Accepted s o (tpwrR site) 0x11 arg → domRefuse s site arg = false → Completes (.domSet o site arg) s (fun u => Taken s u o (tpwrR site) 0x11 arg 2)))
    ∧ (∀ ok b, (SMap.find pwrB s.busy = some b → b.op = 0x10 → b.arg < 16 → bit (rd s (pwrB + R.PWR_STAGES)) (16 + b.arg) = true → Completes (.commandCompletion (pageNo pwrR) ok) s (fun u => SMap.find pwrB u.busy = none
        ∧ (ok = true → bit (rd u (pwrB + R.PWR_STAGES)) (16 + b.arg) = false ∧ ∀ x, x ∈ stageSites b.arg → phys s x = 0 → fld u (tpwrB x + R.TPWR_DOM) 0 0 = 1)))
      ∧ (SMap.find pwrB s.busy = some b → b.op = 0x11 → ∀ n, s.pwr.found = some n → Completes (.commandCompletion (pageNo pwrR) true) s (fun u => u.pwr.found = none ∧ SMap.find n u.pwr.slots = none
          ∧ bit (rd u (pwrB + R.PWR_SAVE_STATUS)) 30 = true))
      ∧ ∀ site, site < 64 → phys s site = 0 → SMap.find (tpwrB site) s.busy = some b → (b.op = 0x10 → coresRefuse s site = false → Completes (.commandCompletion (pageNo (tpwrR site)) true) s (fun u => ∀ c, c < 64 → domOn u site c .core = coreReq s site c))
        ∧ (b.op = 0x11 → bit b.arg 1 = false → Completes (.commandCompletion (pageNo (tpwrR site)) true) s (fun u => domOn u site 0 .memory = false ∧ domOn u site 0 .common = false ∧ ∀ c, c < 64 → domOn u site c .core = false))
        ∧ (b.op = 0x11 → bit b.arg 1 = true → domOn s site 0 .memory = false → Completes (.commandCompletion (pageNo (tpwrR site)) true) s (fun u => domOn u site 0 .memory = true ∧ (bit b.arg 0 = true → domOn u site 0 .common = true)
            ∧ siteSub u site = 1 ∧ site ∈ u.boot.alone)))

/-- R510, R542 to R560, R564 to R568, R573, R575, R694 to R699: input power, cold start and the reset pins; a site's steps of bring-up, its holds, its
time limit and its failure; saved training settings; and a licence that is staged, installed, cancelled and activated.
Choices of the model: log 31, log 34, log 43, log 45. -/
def Obligations.BringUp : Prop :=
  ∀ (s : State), Maps s →
    let fw (u : State) : Nat := fld u (trkB + R.TRK_FW_STATE) 7 0
    let fresh : Prop := s.pins.pwrgd = true ∧ fw s = 0 ∧ fld s (trkB + R.TRK_RESET_CAUSE) 31 16 = 0 ∧ s.pins.resetN = true
    let boots (u : State) : Prop := (bootSlot s = none → fw u = 3 ∧ bootPhase u = 5) ∧ (∀ k, bootSlot s = some k → s.lic.pending = none → fw u = 2 ∧ fld u (fwuB + R.FWU_RUNNING) 0 0 = k
      ∧ (∀ x, x < 64 → siteEnabled u x = (decide (phys u x = 0) && s.lic.active.isSome)) ∧ (if s.pins.perstN then bootPhase u = 2 ∧ u.boot.waves = chunks8 8 (enabledSites u) else bootPhase u = 1))
    let empty (u : State) : Prop := u.mem = [] ∧ u.poison = [] ∧ u.threads = [] ∧ u.busy = []
    let quiet : Prop := SourceOff s bootR 0 ∧ SourceOff s licR 1 ∧ SourceOff s pwrR 5 ∧ SourceOff s ⟨.EVQ, 0⟩ 0
    let pinsOnly (u : State) : Prop := Apart (fun x => { x with pins := {} }) [] s u
    let low (i : Instr) (n : Nat) (p : Pins) : Prop := s.pins.pwrgd = true → s.jnl.bp.held = [] → Completes i s (fun u => u.pins = p
      ∧ (pinHeld s = true → bit (rd u (trkB + R.TRK_RESET_CAUSE)) n = true ∧ Apart (fun x => { x with pins := {} }) [⟨.TRK, 0⟩] s u)
      ∧ (pinHeld s = false → rd u (trkB + R.TRK_RESET_CAUSE) = resetCause s (2 ^ n) ∧ empty u ∧ fw u = 0))
    let up (i : Instr) : Prop := perstReady s = true → s.pins.perstN = false → (s.pins.early = true ∨ i = .perstNRelease) → s.pins.resetN = true → fw s = 2 → Completes i s (fun u => u.pins = { s.pins with perstN := true, early := false }
      ∧ heldState u hifR = stIDLE ∧ bootPhase u = 2 ∧ u.boot.waves = chunks8 8 (enabledSites s) ∧ rd u (bootB + R.BOOT_T_PERST) = s.now / 1000000 % 2 ^ 32)
    Completes .inputPowerApplied s (fun u => u.pins = { s.pins with v50 := true } ∧ pinsOnly u)
    ∧ (s.pins.v50 = true → s.pins.pwrgd = false → s.pins.resetN = true → Completes .coldStart s (fun u => u.pins.pwrgd = true ∧ u.pins.pwrEn = true ∧ u.now = 0 ∧ empty u ∧ boots u))
    ∧ (s.pins.v50 = true → fresh → s.pins.perstN = false → quiet → Completes .coldStart s boots)
    ∧ (s.pins.v50 = false ∨ (s.pins.pwrgd = true ∧ ¬ fresh) → Completes .coldStart s (fun u => Apart id [] s u))
    ∧ (s.pins.resetN = true → low .resetNAssert 1 { s.pins with resetN := false }) ∧ (s.pins.resetN = false → Completes .resetNAssert s (fun u => Apart id [] s u))
    ∧ (s.pins.perstN = true → low .perstNAssert 2 { s.pins with perstN := false, early := false }) ∧ (s.pins.perstN = false → Completes .perstNAssert s (fun u => u.pins = { s.pins with early := false } ∧ pinsOnly u))
    ∧ (s.pins.resetN = false → s.pins.pwrgd = true → (fw s = 0 → s.pins.perstN = true → quiet → Completes .resetNRelease s (fun u => u.pins = { s.pins with resetN := true } ∧ boots u))
      ∧ (s.pins.perstN = false → Completes .resetNRelease s (fun u => u.pins = { s.pins with resetN := true } ∧ pinsOnly u)))
    ∧ up .perstNRelease ∧ up .perstNHoldoffEnd ∧ (perstReady s = false → s.pins.perstN = false → Completes .perstNRelease s (fun u => u.pins = { s.pins with early := true } ∧ pinsOnly u))
    ∧ (s.pins.early = false → Completes .perstNHoldoffEnd s (fun u => Apart id [] s u))
    ∧ (Calm s → SourceOff s ⟨.EVQ, 0⟩ 0 → (∀ n, n < 3 → SourceOff s bootR n) → SourceOff s licR 0 →
      (∀ site bad fail, site < 64 → siteEnabled s site = true → fld s (tthB site + R.TTHM_STATE) 8 8 = 0 → bootPhase s = 2 → bootFailed s site = false → inService s site = false → SourceOff s ⟨.TILE, site⟩ 0 → SourceOff s ⟨.TILE, site⟩ 1 →
        let sub (u : State) (n : Nat) : Prop := siteSub u site = n ∧ u.boot.steps = s.boot.steps.filter (·.1 ≠ site) ++ [(site, s.now)]
        let failed (u : State) (n : Nat) : Prop := siteSub u site = 8 ∧ bootFailed u site = true ∧ domOn u site 0 .memory = false ∧ underWay u site = false ∧ (n < 32 → bit (rd u (Page.tile .TILE site + R.PG_FLT)) n = true)
        (underWay s site = false → waveMay s site = true → site ∉ s.boot.alone → s.boot.holdAt = none →
          (waveHeld s = false → Completes (.tileWave site bad fail) s (fun u => sub u 1 ∧ domOn u site 0 .memory = true ∧ domOn u site 0 .common = true ∧ domOn u site 0 .root = true))
          ∧ (waveHeld s = true → ((s.boot.waves.getD ((waveOf s site).getD 0) []).any (underWay s)) = false → Completes (.tileWave site bad fail) s (fun u => u.boot = { s.boot with holdAt := some s.now } ∧ bit (rd u (bootB + R.BOOT_STATUS)) 27 = true)))
        ∧ (underWay s site = true → (siteSub s site = 1 → Completes (.tileWave site bad fail) s (fun u => sub u 2))
          ∧ (siteSub s site = 2 → fail = none → Completes (.tileWave site bad fail) s (fun u => sub u 3 ∧ rd u (bcstB site + R.BCST_TP_VER) = runVersion s ∧ (trainsInFull s site bad = true → site ∈ u.boot.freed)))
          ∧ (∀ ch, siteSub s site = 2 → fail = some ch → ch < 512 → Completes (.tileWave site bad fail) s (fun u => failed u 0))
          ∧ (siteSub s site = 3 → Completes (.tileWave site bad fail) s (fun u => sub u 4 ∧ (∀ c k, c < 64 → k < 8 → chState u (site * 64 + c) k = 2) ∧ (s.jnl.bp.held = [] → jRoom s 2 128 = true → ∀ c, c < 64 → heldState u (slcR (site * 64 + c)) = stRUN)))
          ∧ (siteSub s site = 4 → Completes (.tileWave site bad fail) s (fun u => sub u 5 ∧ ∀ c, c < 64 → domOn u site c .core = true))
          ∧ (siteSub s site = 5 → Completes (.tileWave site bad fail) s (fun u => siteSub u site = 6 ∧ inService u site = true ∧ underWay u site = false ∧ fenced u site = false ∧ (∀ d, d / 2 ^ 35 = site → memByte u d = 0)
              ∧ (s.jnl.bp.held = [] → jRoom s 2 1 = true → heldState u ⟨.TILE, site⟩ = stRUN)))
          ∧ (∀ e, s.boot.steps.find? (·.1 = site) = some e → (e.2 + stepLimit (siteSub s site) < s.now → Completes (.tileStepTimeout site) s (fun u => failed u 1))
            ∧ (s.now ≤ e.2 + stepLimit (siteSub s site) → Completes (.tileStepTimeout site) s (fun u => Apart id [] s u)))))
      ∧ (∀ t, s.boot.holdAt = some t → (waveHeld s = false → Completes .thermalHoldRelease s (fun u => u.boot = { s.boot with holdAt := none } ∧ bit (rd u (bootB + R.BOOT_STATUS)) 27 = false))
        ∧ (waveHeld s = true → Completes .thermalHoldRelease s (fun u => Apart id [] s u))
        ∧ (t + 10000000000 < s.now → Completes .bootWaveStall s (fun u => bit (rd u (bootB + R.PG_FLT)) 1 = true ∧ Apart id [bootR] s u)))
      ∧ (∀ o arg, (Accepted s o bootR 0x10 arg → Completes (.settingsSave o arg) s (fun u => Taken s u o bootR 0x10 arg 2)) ∧ (Accepted s o bootR 0x11 arg → Completes (.settingsErase o arg) s (fun u => Taken s u o bootR 0x11 arg 2))
        ∧ (Accepted s o licR 0x10 arg → Completes (.licInstall o arg) s (fun u => Taken s u o licR 0x10 arg 2 ∧ u.lic = s.lic))
        ∧ (Accepted s o licR 0x11 arg → s.lic.pending.isSome = true → Completes (.licCancel o arg) s (fun u => Taken s u o licR 0x11 arg 2))
        ∧ (Accepted s o licR 0x11 arg → s.lic.pending = none → Completes (.licCancel o arg) s (fun u => rd u (licB + R.PG_CMD_STATUS) % 256 = 7 ∧ u.lic = s.lic))
        ∧ (Accepted s o licR 0x12 arg → Completes (.licStageClear o arg) s (fun u => Taken s u o licR 0x12 arg 1 ∧ stageLen u = 0 ∧ ∀ i, i < 256 → rd u (licB + R.LIC_STAGE i) = 0)))
      ∧ (∀ b, SMap.find bootB s.busy = some b → (b.op = 0x11 → Completes (.commandCompletion (pageNo bootR) true) s (fun u => u.boot = { s.boot with records := [] }))
        ∧ (b.op = 0x10 → Completes (.commandCompletion (pageNo bootR) true) s (fun u => (∀ k, siteEnabled s (k / 512) = true → k < 32768 → fld s (slcB (k / 8) + R.CH_STATUS (k % 8)) 25 25 = 1 → SMap.find k u.boot.records = some (layerT s (k / 8) (k % 8)))
            ∧ { u.boot with records := [] } = { s.boot with records := [] }))
        ∧ (b.op = 0x10 → Completes (.commandCompletion (pageNo bootR) false) s (fun u => u.boot = s.boot ∧ bit (rd u (bootB + R.PG_FLT)) 2 = true)))
      ∧ (∀ b, SMap.find licB s.busy = some b → (b.op = 0x11 → Completes (.commandCompletion (pageNo licR) true) s (fun u => u.lic = { s.lic with pending := none }))
        ∧ (b.op = 0x10 → stageReason s = 0 → s.lic.active ≠ some (stagedBlob s) → Completes (.commandCompletion (pageNo licR) true) s (fun u => u.lic = { s.lic with pending := some (stagedBlob s) } ∧ bit (rd u (licB + R.LIC_STATE)) 1 = true))
        ∧ (b.op = 0x10 → stageReason s ≠ 0 → Completes (.commandCompletion (pageNo licR) false) s (fun u => u.lic = s.lic ∧ fld u (licB + R.LIC_STATE) 31 24 = stageReason s))))

/-- R610 to R633: sensor readings, breakage, guarding, halts and trips; the caps of logic, flow and the canopy model; the coolant's estimate, its loss and
its end; the ring counters and their record. Temperatures in 0.25 °C, but for a sample's in thousandths and a coolant's in hundredths.
Choices of the model: log 39, log 40. -/
def Obligations.Thermal : Prop :=
  ∀ (s : State), Calm s → (∀ n, n < 6 → SourceOff s thmR n) → (∀ x n, x < 64 → n < 4 → SourceOff s (tthR x) n) → SourceOff s ⟨.EVQ, 0⟩ 0 →
    let reg (u : State) (off : Nat) : Nat := rd u (thmB + off)
    let plus (u : State) (off : Nat) : Prop := reg u off = satAdd (reg s off) 1
    let flt (u : State) (n : Nat) : Prop := bit (reg u R.PG_FLT) n = true
    let cap (u : State) : Nat := fld u (thmB + R.THM_STATUS) 21 16
    let tripped (u : State) (x : Nat) : Prop := bit (rd u (tthB x + R.TTHM_STATE)) 8 = true
    let allHalted (u : State) : Prop := ∀ x q, x < 64 → q < 4 → siteEnabled s x = true → quadHalted u x q = true
    let resumed (u : State) : Prop := thmBit u 2 = false ∧ ∀ x q, x < 64 → q < 4 → siteEnabled s x = true → quadHalted u x q = false
    let saved (u : State) : Prop := u.thm = { s.thm with saved := s.tth.map (fun e => (e.1, e.2.counts)) } ∧ reg u R.THM_RING_SAVE = (reg s R.THM_RING_SAVE + 1) % 2 ^ 32
    (∀ site n mc, site < 64 → n < 40 → siteEnabled s site = true → let q := if n < 32 then n % 4 else (n - 32) / 2
      let x := tthOf s site
      let w := if n % 2 = 0 then n + 1 else n - 1
      Completes (.sensorSample site n mc) s (fun u => fld u (tthB site + R.TTHM_SENS n) 31 16 = wrap 16 (mc / 250) ∧ SMap.find n (tthOf u site).last = some s.now ∧ n ∉ (tthOf u site).lostSb
        ∧ ((mc < -20000 ∨ 150000 < mc) → sensBroken u site n = true ∧ (sensBroken s site n = false → bit (rd u (tthB site + R.PG_FLT)) 2 = true))
        ∧ (-20000 ≤ mc → mc ≤ 150000 → sensBroken s site n = false → x.refs.lookup n = none → sensBroken u site n = false)
        ∧ ((400 ≤ effStack u site q ∨ 432 ≤ effLogic u site q) → ¬ tripped s site → quadHalted s site q = false → quadHalted u site q = true ∧ bit (rd u (tthB site + R.PG_FLT)) 0 = true)
        ∧ (effStack u site q < 400 → effLogic u site q < 432 → ∀ p, p < 4 → quadHalted u site p = quadHalted s site p)
        ∧ ((420 ≤ effStack u site q ∨ 448 ≤ effLogic u site q) → ¬ tripped s site → tripped u site ∧ u.pins.thermtrip = true ∧ allHalted u ∧ domOn u site 0 .memory = false ∧ fenced u site = true ∧ thmBit u 3 = true ∧ plus u R.THM_CNT_TRIP)
        ∧ (effStack u site q < 420 → effLogic u site q < 448 → u.pins = s.pins ∧ (tripped u site ↔ tripped s site))
        ∧ (32 ≤ n → -20000 ≤ mc → mc ≤ 150000 → sensBroken s site n = false → sensBroken s site w = false → sensGuarded s site n = false → x.refs.lookup n = none → SMap.find n x.dis = some 9 → 24 < (sext 16 (wrap 16 (mc / 250)) - sensRaw s site w).natAbs →
            sensGuarded u site n = true ∧ sensGuarded u site w = true ∧ bit (rd u (tthB site + R.PG_FLT)) 3 = true)))
    ∧ (∀ site q, site < 64 → q < 4 → let free : Prop := quadHalted s site q = true ∧ thmBit s 2 = false ∧ thmBit s 3 = false ∧ effStack s site q < 388 ∧ effLogic s site q < 420 ∧ ∃ t, SMap.find q (tthOf s site).cool = some t ∧ t + 10000000 ≤ s.now
      (free → Completes (.haltRelease site q) s (fun u => ∀ p, p < 4 → quadHalted u site p = if p = q then false else quadHalted s site p)) ∧ (¬ free → Completes (.haltRelease site q) s (fun u => Apart id [] s u)))
    ∧ (∀ cc, Completes (.coolantSample 2 cc false) s (fun u => fld u (thmB + R.THM_TH_OPT) 15 0 = wrap 16 (cc / 25) ∧ Apart id [thmR] s u) ∧ Completes (.coolantSample 3 cc true) s (fun u => fld u (thmB + R.THM_TH_OPT) 31 16 = 0x8000 ∧ Apart id [thmR] s u)
      ∧ (∀ i op, i < 2 → Completes (.coolantSample i cc op) s (fun u => fld u (thmB + R.THM_TH) (16 * i + 15) (16 * i) = wrap 16 (cc / 25) ∧ Apart (fun x => { x with thm := {} }) [thmR] s u
          ∧ (s.thm.broken < 4 → bit s.thm.broken i = false → ((op = true ∨ cc < -2000 ∨ 12000 < cc) → bit u.thm.broken i = true ∧ flt u 2 ∧ thmBit u 5 = true) ∧ (op = false → -2000 ≤ cc → cc ≤ 12000 → reg s R.THM_TH = 0 → bit u.thm.broken i = false)))))
    ∧ (∀ site, site < 64 → siteEnabled s site = true → Completes (.logicCapTick site) s (fun u => (∀ q, q < 4 → fld u (tthB site + R.TTHM_CAP) (8 * q + 5) (8 * q)
          = min (capCode (if predOn s then max (effLogic s site q) (predLogic s site q) else effLogic s site q)) (fld s (tthB site + R.TTHM_CAP) (8 * q + 5) (8 * q) + 1) % 64) ∧ Apart id [tthR site] s u)
      ∧ Completes (.canopyModelTick site) s (fun u => u.freeCtr = s.freeCtr + 5 ∧ (∀ q, q < 4 → ((tthOf u site).nodes.lookup q).isSome = true
          ∧ (bit (rd u (tthB site + R.TTHM_STATE)) (4 + q) = true → predDram u site q = sext 16 (wrap 16 (effStack u site q + 8)) ∧ predLogic u site q = sext 16 (wrap 16 (effLogic u site q + 8))))
          ∧ (let r (i : Nat) : Nat := fld u (tthB site + R.TTHM_R) (8 * i + 7) (8 * i)
            50 ≤ r 0 ∧ r 0 ≤ 200 ∧ 20 ≤ r 1 ∧ r 1 ≤ 80 ∧ 80 ≤ r 2 ∧ r 2 ≤ 255 ∧ 30 ≤ r 3 ∧ r 3 ≤ 120)))
    ∧ (∀ ph, let x := reg s R.THM_TH
      let dt := sext 16 (bits x 31 16) - sext 16 (bits x 15 0)
      let c : Nat := if s.thm.broken ≠ 0 then flowMin s * 8 / 10 else if dt < 2 then 2 * ph else (4 * (ph : Int) / dt).toNat
      let counts : Prop := s.thm.broken ≠ 0 ∨ 300 ≤ ph
      let since (k ns : Nat) : Prop := ∃ t, SMap.find k s.thm.since = some t ∧ t + ns ≤ s.now
      Completes (.flowEstimate ph) s (fun u => reg u R.THM_HEAT = min ph 0xFFFF ∧ Apart (fun x => { x with thm := {} }) [thmR] s u ∧ (¬ counts → reg u R.THM_FLOW = reg s R.THM_FLOW)
        ∧ (counts → flowWk u = min c 0xFFFF ∧ (bit (reg u R.THM_FLOW) 31 = true ↔ s.thm.broken = 0 ∧ 300 ≤ ph ∧ 2 ≤ dt)
          ∧ (thmBit s 0 = false → 4 * c < 5 * flowMin s → since 0 1000000000 → thmBit u 0 = true ∧ plus u R.THM_CNT_FLOW_WARN) ∧ (thmBit s 0 = false → 5 * flowMin s ≤ 4 * c → thmBit u 0 = false)
          ∧ (thmBit s 0 = true → 13 * flowMin s ≤ 10 * c → since 0 10000000000 → thmBit u 0 = false)
          ∧ (thmBit s 1 = false → c < flowMin s → since 1 1000000000 → thmBit u 1 = true ∧ flt u 1) ∧ (thmBit s 1 = true → flowMin s ≤ c → since 1 10000000000 → thmBit u 1 = false) ∧ (thmBit s 1 = true → c < flowMin s → thmBit u 1 = true))))
    ∧ (let ph := fld s (thmB + R.THM_HEAT) 15 0
      let low := decide (100 * ph < 95 * pFlow s) && decide (s.thm.below.getD s.now + 1000000 ≤ s.now)
      Completes .flowCapTick s (fun u => cap u = (if thmBit s 2 then 0 else if thmBit s 1 then stepRule (cap s) ph (pFlow s) low else min (cap s + 1) 48) % 64 ∧ Apart (fun x => { x with thm := {} }) [thmR] s u))
    ∧ (∀ p l, tripPredicted s = p :: l → s.thm.broken = 0 → thmBit s 2 = false → 300 < dtRise s → Completes .suddenStopTest s (fun u => thmBit u 2 = true ∧ u.thm = { s.thm with lostAt := s.now, fit := none } ∧ allHalted u ∧ cap u = 0 ∧ plus u R.THM_CNT_FLOW_LOST ∧ flt u 0))
    ∧ (tripPredicted s = [] ∨ s.thm.broken ≠ 0 ∨ thmBit s 2 = true ∨ dtRise s ≤ 300 → Completes .suddenStopTest s (fun u => Apart id [] s u))
    ∧ (let auto : Prop := bit (reg s R.THM_CTRL) 1 = true ∧ resumeReady s = true
      (auto → Completes .flowAutoResume s resumed) ∧ (¬ auto → Completes .flowAutoResume s (fun u => Apart id [] s u)))
    ∧ Completes .ringCountTick s (fun u => (∀ x, x < 64 → siteEnabled s x = true → ∀ v, (tthOf s x).top = some v → let l := turn (tthOf s x).residue v
          (tthOf u x).residue = (rainflow l.length l (tthOf s x).counts).1 ∧ (tthOf u x).counts = (rainflow l.length l (tthOf s x).counts).2 ∧ (tthOf u x).top = none)
        ∧ (∀ x, siteEnabled s x = false ∨ (tthOf s x).top = none → tthOf u x = tthOf s x) ∧ reg u R.THM_CNT_FLOW_LOW_S = satAdd (reg s R.THM_CNT_FLOW_LOW_S) (b2n (thmBit s 1)))
    ∧ Completes (.ringSaveTimer true) s saved ∧ Completes (.ringSaveTimer false) s (fun u => u.thm = s.thm ∧ flt u 5)
    ∧ (∀ o arg, (Accepted s o thmR 0x10 arg → resumeReady s = true → Completes (.flowResume o arg) s (fun u => Taken s u o thmR 0x10 arg 2 ∧ resumed u))
      ∧ (Accepted s o thmR 0x10 arg → resumeReady s = false → Completes (.flowResume o arg) s (fun u => reg u R.PG_CMD_STATUS % 256 = 7 ∧ thmBit u 2 = thmBit s 2))
      ∧ (Accepted s o thmR 0x11 arg → Completes (.ringSave o arg) s (fun u => Taken s u o thmR 0x11 arg 2 ∧ u.thm = s.thm))
      ∧ (Accepted s o thmR 0x12 arg → Completes (.modelReset o arg) s (fun u => Taken s u o thmR 0x12 arg 1 ∧ ∀ x, x < 64 → rd u (tthB x + R.TTHM_R) = 60 * 2 ^ 24 + 160 * 2 ^ 16 + 40 * 2 ^ 8 + 100)))
    ∧ (∀ b, SMap.find thmB s.busy = some b → b.op = 0x11 → Completes (.commandCompletion (pageNo thmR) true) s saved)

/-- R638: raising a source that is not enabled sets its PG_FLT bit and nothing else: no collector counts it, FAULT_N is as it was, and
every other register and all other state is unchanged. -/
def Obligations.DisabledSource : Prop :=
  ∀ (s : State) (r : Page.Ref) (n org : Nat), n < 32 → bit (Page.fltMask r.t) n = true → SourceOff s r n →
    let u := (raise r n org).run s
    let flt := Page.base r + R.PG_FLT
    bit (rd u flt) n = true ∧ (∀ k, k ≠ n → bit (rd u flt) k = bit (rd s flt) k) ∧ { u with regs := s.regs } = s
    ∧ (Maps s → ∀ off, off ≠ flt → rd u off = rd s off)

/-- R645, R648, R650 to R652, R656: the millisecond's snapshot of a page's ledgers and its checks, a mismatch and a snapshot that does not come;
a trap served, the trap log cleared, and a first-fault latch cleared.
Choices of the model: log 19, log 69. -/
def Obligations.Ledgers : Prop :=
  ∀ (s : State), Calm s → (∀ n, n < 65 → SourceOff s (ldgR n) 0 ∧ SourceOff s (ldgR n) 2) → SourceOff s ⟨.EVQ, 0⟩ 0 →
    let there (late : List (Nat × Nat)) (n id : Nat) : Bool := ldgOpen s n id && !late.contains (n, id)
    let next (late : List (Nat × Nat)) (n : Nat) : Ldg := { ldgOf s n with snap := takeSnap s n (there late n), late := (ldgIds n).filter (fun id => late.contains (n, id)) }
    let diff (late : List (Nat × Nat)) (n id i k : Nat) : Nat := ldgDiff (openRefusals s) id k (snapTerm (next late n) id i)
    let checked (late : List (Nat × Nat)) (n id i k : Nat) : Prop := id ∈ ldgIds n ∧ there late n id = true ∧ i < ldgCount id ∧ credChecked s n id i = true ∧ k < 2
    let base (n : Nat) : Nat := Page.base (ldgR n)
    (∀ late, (∀ n, n < 65 → ldgRuns s n = true → ∀ id i k, checked late n id i k → diff late n id i k = 0) → Completes (.ledgerSnapshot late) s (fun u =>
        (∀ n, n < 65 → ldgOf u n = (if ldgRuns s n then next late n else ldgOf s n) ∧ (ldgRuns s n = true → rd64 u (base n + R.LDG_SNAP_T_LO) = s.now / 1000000 * 1000000 % 2 ^ 64))
        ∧ Apart (fun x => { x with ldg := [] }) ((List.range 65).map ldgR) s u))
    ∧ (∀ n id i k, n < 65 → ldgRuns s n = true → (∀ m, m < 65 → m ≠ n → ldgRuns s m = false) → checked [] n id i k → diff [] n id i k ≠ 0 → (∀ jd j l, checked [] n jd j l → (jd, j, l) ≠ (id, i, k) → diff [] n jd j l = 0) →
      (((ldgOf s n).diffs.lookup (id, i, k) = none ∨ bit (rd s (base n + R.LDG_MISMATCH)) (id % 32) = false) → Completes (.ledgerSnapshot []) s (fun u => bit (rd u (base n + R.LDG_MISMATCH)) (id % 32) = true
          ∧ rd u (base n + R.LDG_CNT_MISMATCH) = satAdd (rd s (base n + R.LDG_CNT_MISMATCH)) 1 ∧ bit (rd u (base n + R.PG_FLT)) 0 = true ∧ ((id, i, k), diff [] n id i k) ∈ (ldgOf u n).diffs ∧ (ldgOf u n).snap = (next [] n).snap))
      ∧ ((ldgOf s n).diffs.lookup (id, i, k) = some (diff [] n id i k) → bit (rd s (base n + R.LDG_MISMATCH)) (id % 32) = true → Completes (.ledgerSnapshot []) s (fun u => ldgOf u n = next [] n ∧ rd u (base n + R.LDG_CNT_MISMATCH) = rd s (base n + R.LDG_CNT_MISMATCH))))
    ∧ (∀ n l, n < 65 → (l ∈ (ldgOf s n).late → rd64 s (base n + R.LDG_SNAP_T_LO) + 100000 ≤ s.now → Completes (.ledgerSnapTimeout n l) s (fun u => ldgOf u n = { ldgOf s n with late := (ldgOf s n).late.filter (· ≠ l) }
          ∧ bit (rd u (base n + R.PG_FLT)) 2 = true ∧ Apart (fun x => { x with ldg := [] }) [ldgR n] s u))
      ∧ (l ∉ (ldgOf s n).late ∨ s.now < rd64 s (base n + R.LDG_SNAP_T_LO) + 100000 → Completes (.ledgerSnapTimeout n l) s (fun u => Apart id [] s u)))
    ∧ (∀ e l, s.flt.unserved = e :: l → fld s (trkB + R.TRK_FW_STATE) 7 0 = 2 → Completes .trapService s (fun u => u.flt = { s.flt with unserved := l } ∧ bit (rd u (dfltB + R.PG_EVT)) 0 = true ∧ Apart id [] s u))
    ∧ (s.flt.unserved = [] ∨ fld s (trkB + R.TRK_FW_STATE) 7 0 ≠ 2 → Completes .trapService s (fun u => Apart id [] s u ∧ u.flt = s.flt))
    ∧ (∀ o arg, Accepted s o ⟨.DFLT, 0⟩ 0x10 arg → Completes (.trapClear o arg) s (fun u => Taken s u o ⟨.DFLT, 0⟩ 0x10 arg 1 ∧ u.flt.traps = [] ∧ u.flt.unserved = [] ∧ u.flt.next = s.flt.next))
    ∧ (∀ o n, n < 65 → Free s o 1 → let c := Page.base (collectorR n)
      bit (rd s (c + R.PG_CTRL)) 0 = false → answers s (collectorR n) = true → bit (rd s (c + R.TFLT_FIRST)) 31 = true → Completes (.firstFaultClear o n) s (fun u =>
        bit (rd u (c + R.TFLT_FIRST)) 31 = false ∧ bit (rd u (c + R.TFLT_FIRST)) 30 = false ∧ rd u (c + R.TFLT_COUNT) = 0 ∧ fld u (c + R.TFLT_FIRST) 20 0 = fld s (c + R.TFLT_FIRST) 20 0))

/-- R126, R181, R217, R262, R298, R333, R380, R456, R491, R514, R539, R634, R656: each page's CLEAR_COUNTS, accepted, takes its counters to 0 and what it
holds beside them to its reset value, and is done at once.
Choices of the model: log 9. -/
def Obligations.CountersCleared : Prop :=
  ∀ (s : State) (o : Origin) (n arg : Nat),
    let clears (i : Instr) (r : Page.Ref) (op : Nat) (offs ff : List Nat) : Prop := Accepted s o r op arg → Completes i s (fun u => Taken s u o r op arg 1
      ∧ (∀ x ∈ offs, rd u (Page.base r + x) = 0) ∧ ∀ x ∈ ff, fld u (Page.base r + x) 31 24 = 0xFF)
    clears (.coreClearCounts o n arg) ⟨.CORE, n⟩ 0x12 (regRun R.CORE_CNT_LEAF_HIT 7) [R.CORE_DESC_FINFO]
    ∧ clears (.arrClearCounts o n arg) ⟨.MXU, n⟩ 0x11 (R.MXU_SKID_MAX :: regRun R.MXU_CNT_PASS 10) [R.MXU_ABORT_N, R.MXU_ABORT_S]
    ∧ clears (.mvClearCounts o n arg) ⟨.MXU, n⟩ 0x21 (regRun R.MXU_MV_CNT_RUN 7) [R.MXU_MV_ABORT] ∧ clears (.attClearCounts o n arg) ⟨.MXU, n⟩ 0x31 (regRun R.MXU_ATT_CNT_RUNS 8) [R.MXU_ATT_ABORT]
    ∧ clears (.dspClearCounts o n arg) ⟨.DSP, n⟩ 0x12 (regRun R.DSP_CNT_ROUNDS 12) [R.DSP_LAST_ABORT] ∧ clears (.kvmClearCounts o n arg) ⟨.KVM, n⟩ 0x11 (regRun R.KVM_CNT_ALLOC 8) []
    ∧ clears (.pfxClearCounts o n arg) ⟨.PFX, n⟩ 0x12 (regRun R.PFX_CNT_FIND 7) [] ∧ clears (.slcClearCounts o n arg) (slcR n) 0x11 (regRun R.SLC_CNT_CLS0 8 ++ (List.range 8).flatMap (fun k => regRun (R.CH_CNT_RD k) 9)) []
    ∧ clears (.sapClearCounts o n arg) ⟨.SAP, n⟩ 0x12 (regRun R.SAP_CNT_CALLS 3 ++ (List.range 8).flatMap (fun k => regRun (R.SU_CNT_CALLS k) 5)) []
    ∧ clears (.rtrClearCounts o n arg) ⟨.RTR, n⟩ 0x11 (regRun R.RTR_CNT_FWD 12) [] ∧ clears (.xprClearCounts o n arg) ⟨.XPR, n⟩ 0x11 (regRun R.XPR_CNT_TX 4) []
    ∧ clears (.bghClearCounts o n arg) ⟨.BGH, n⟩ 0x11 (R.BGH_LOST :: regRun (R.BGH_CNT 0) 8) [] ∧ clears (.hifClearCounts o arg) hifR 0x12 (regRun R.HIF_CNT_BAR0_RD 8) []
    ∧ clears (.clkClearCounts o arg) clkR 0x12 (regRun R.CLK_CNT_LOST 3) [] ∧ clears (.pwrClearCounts o arg) pwrR 0x12 (regRun R.PWR_CNT_UV 4) []
    ∧ clears (.tpwrClearCounts o n arg) (tpwrR n) 0x12 (regRun R.TPWR_CNT_ON 2) [] ∧ clears (.fusClearCounts o arg) fusR 0x14 (regRun R.FUS_CNT_CE 4) []
    ∧ clears (.thmClearCounts o arg) thmR 0x13 (regRun R.THM_CNT_FLOW_WARN 4) [] ∧ clears (.ldgClearCounts o n arg) (ldgR n) 0x10 [R.LDG_CNT_MISMATCH, R.LDG_CNT_RECON] []
    ∧ clears (.fwuClearCounts o arg) fwuR 0x14 (regRun R.FWU_CNT_CHUNKS 3) [] ∧ clears (.bcstClearCounts o n arg) ⟨.BCST, n⟩ 0x10 (regRun R.BCST_CNT_RX 4) []
    ∧ clears (.mgtClearCounts o arg) ⟨.MGT, 0⟩ 0x10 (regRun R.MGT_CNT_RX 5) []

/-- R32, R662 to R676: IMAGE_WRITE takes and verifies an image and programs the idle slot; SVN_COMMIT raises the floor; a sap broadcast's chunks, reductions,
repair rounds, replies, fences and activation; its abort; and JTAG, which reaches nothing of this state.
Choices of the model: log 64, log 65, log 66, log 67, log 72, log 73, log 75. -/
def Obligations.Firmware : Prop :=
  ∀ (s : State), Calm s → (∀ n, n < 2 → SourceOff s fwuR n) →
    let reg (u : State) (off : Nat) : Nat := rd u (fwuB + off)
    let ends (op : Nat) (ok : Bool) (P : State → Prop) : Prop := ∀ b, SMap.find fwuB s.busy = some b → b.op = op → Completes (.commandCompletion (pageNo fwuR) ok) s P
    let side (u : State) : Prop := Apart (fun x => { x with fwu := {}, bcst := [] }) (fwuR :: (List.range 64).map bcstR) s u
    let a := (imgRange s).1
    let len := (imgRange s).2
    let lost : Prop := 2 ^ 41 < a + len ∨ rangePoison s a len = true ∨ reachRange s a (max len 1) ≠ .ok
    let d := memNum s a len
    (∀ o arg, (Accepted s o fwuR 0x10 arg → Completes (.imageWrite o arg) s (fun u => Taken s u o fwuR 0x10 arg 2 ∧ ∃ w, u.fwu = { s.fwu with img := some { slot := idleSlot s, svn := imgF d 12 4, ver := imgF d 16 4, why := w } } ∧ reg u R.FWU_STATUS = w * 2 ^ 24
          ∧ (lost → w = 6) ∧ (¬ lost → w = imgReason s len d) ∧ (bit (rd u (slotReg (idleSlot s))) 31 = (decide (w ≠ 0) && bit (rd s (slotReg (idleSlot s))) 31)) ∧ rd u (slotReg (runSlot s)) = rd s (slotReg (runSlot s))))
      ∧ (Accepted s o fwuR 0x11 arg → Completes (.svnCommit o arg) s (fun u => Taken s u o fwuR 0x11 arg 2)) ∧ (Accepted s o fwuR 0x13 arg → Completes (.bcastAbort o arg) s (fun u => Taken s u o fwuR 0x13 arg 2 ∧ u.fwu = s.fwu))
      ∧ (Accepted s o fwuR 0x12 arg → bcUnread s = true → Completes (.bcastSap o arg) s (fun u => reg u R.PG_CMD_STATUS % 256 = 7 ∧ u.fwu = s.fwu))
      ∧ (Accepted s o fwuR 0x12 arg → bcUnread s = false → let w := bcWords s
        let k := (fld s (fwuB + R.FWU_BC_STATE) 31 16 + 1) % 65536
        Completes (.bcastSap o arg) s (fun u => Taken s u o fwuR 0x12 arg 2 ∧ u.fwu.bc = some { id := k, targets := (List.range 64).filter (bit (rd64 s (fwuB + R.FWU_BC_SITES_LO))), n := (w.2 + 63) / 64, start := w.1, words := w.2, units := fld s (fwuB + R.FWU_BC_UNITS) 7 0, cores := rd64 s (fwuB + R.FWU_BC_CORES_LO), data := memNum s (rd64 s (fwuB + R.FWU_BC_SRC_LO) % 2 ^ 41) (4 * w.2), since := s.now }
          ∧ (∀ x, x < 64 → bit (rd64 s (fwuB + R.FWU_BC_SITES_LO)) x = true → rcvOf u x = { id := k, n := (w.2 + 63) / 64, phase := 1, holds := true }) ∧ rd64 u (fwuB + R.FWU_BC_FENCED_LO) = 0 ∧ reg u R.FWU_BC_STATE = k * 2 ^ 16 + 2 ^ 12)))
    ∧ (∀ x, s.fwu.img = some x → x.slot < 2 → (x.why = 0 → ends 0x10 true (fun u => u.fwu = { s.fwu with img := none } ∧ rd u (slotReg x.slot) = (2 ^ 31 + x.svn * 2 ^ 16 + (fld s (slotReg (runSlot s)) 15 0 + 1) % 65536) % 2 ^ 32 ∧ rd u (slotVer x.slot) = x.ver % 2 ^ 32)
          ∧ ends 0x10 false (fun u => u.fwu = { s.fwu with img := none } ∧ reg u R.FWU_STATUS = 5 * 2 ^ 24 ∧ bit (reg u R.PG_FLT) 0 = true))
        ∧ (x.why ≠ 0 → ends 0x10 false (fun u => u.fwu = { s.fwu with img := none } ∧ reg u R.FWU_STATUS = reg s R.FWU_STATUS ∧ rd u (slotReg (idleSlot s)) = rd s (slotReg (idleSlot s)))))
    ∧ ends 0x11 true (fun u => fld u (fwuB + R.FWU_MIN_SVN) 7 0 = max (fld s (fwuB + R.FWU_MIN_SVN) 7 0) (fld s (fwuB + R.FWU_RUNNING) 31 24))
    ∧ Completes .jtagTestAccess s (fun u => Apart id [] s u)
    ∧ (∀ site b, site < 64 → SMap.find fwuB s.busy = some b → b.op = 0x13 → (rcvOf s site).holds = true → rcvUp s site = true → colReach s site = true → Completes (.bcAbort site) s (fun u =>
        rcvOf u site = { rcvOf s site with parts := [], n := 0, phase := 6, reply := none, holds := false } ∧ (∀ x, x ≠ site → rcvOf u x = rcvOf s x) ∧ u.fwu = s.fwu ∧ side u))
    ∧ (∀ b, s.fwu.bc = some b → let now (u : State) (c : Bcast) : Prop := u.fwu = { s.fwu with bc := some c }
      let same (u : State) : Prop := Apart id [] s u
      let live := bcLive s b
      (∀ site c flip, site < 64 → let x := rcvOf s site
        let got := chunkOf b c ^^^ flip % 256 ^ 256
        let plus (u : State) (off : Nat) : Prop := rd u (bcstB site + off) = satAdd (rd s (bcstB site + off)) 1
        (chunkComes s b site c = false → Completes (.chunk site c flip) s same)
        ∧ (chunkComes s b site c = true → Completes (.chunk site c flip) s (fun u => plus u R.BCST_CNT_RX ∧ u.fwu = s.fwu ∧ side u ∧ (∀ y, y ≠ site → rcvOf u y = rcvOf s y)
            ∧ (got = chunkOf b c → (∀ p ∈ x.parts, p.1 ≠ c) → rcvOf u site = { x with id := b.id, n := b.n, parts := x.parts ++ [(c, got)], phase := b.phase, holds := true })
            ∧ (got = chunkOf b c → (∃ p ∈ x.parts, p.1 = c) → rcvOf u site = x ∧ plus u R.BCST_CNT_DUP)
            ∧ (crc32c (toBytes 256 got) ≠ crc32c (toBytes 256 (chunkOf b c)) → rcvOf u site = x ∧ plus u R.BCST_CNT_CRC))))
      ∧ (∀ site, site < 64 → let own := if live.contains site then missing s b site else []
        let others : Prop := ∃ c, c < 8 ∧ c ≠ site % 8 ∧ live.any (· % 8 = c) = true ∧ colMsg s b c = none
        let sends (i : Instr) (m : List Nat × List Nat) : Prop := Completes i s (fun u => now u { b with sent := b.sent ++ [(site, m)] } ∧ side u)
        (mayReduce s b site = true → others → (northOf s site = none → sends (.reduce site) ((List.range b.n).filter own.contains, if own.isEmpty then [] else [site]))
          ∧ (∀ n, (northOf s site).isSome = true → northMsg s b site = some n → sends (.reduce site) ((List.range b.n).filter (fun c => own.contains c || n.1.contains c), n.2 ++ if own.isEmpty then [] else [site]))
          ∧ ((northOf s site).isSome = true → northMsg s b site = none → Completes (.reduce site) s same
            ∧ (b.since + 20000 ≤ s.now → let above := live.filter (fun x => decide (x % 8 = site % 8 ∧ site < x))
              (above ≠ [] → sends (.reduceTimeout site) (List.range b.n, above ++ if own.isEmpty then [] else [site])))))
        ∧ (mayReduce s b site = true → live = [site] → (colFrom s (site % 8) 0).head? = some site → northOf s site = none → colReach s site = true → b.sent = [] →
          (own = [] → b.conf = [] → Completes (.reduce site) s (fun u => now u { b with phase := 3, since := s.now, sent := [] }))
          ∧ (own ≠ [] → b.round < 3 → Completes (.reduce site) s (fun u => now u { b with phase := 2, since := s.now, sent := [], round := b.round + 1, chunks := own, sites := [site], repaired := b.repaired + own.length })))
        ∧ (b.phase = 3 → live.contains site = true → rcvUp s site = true → colReach s site = true → missing s b site = [] → b.conf.contains site = false → Completes (.prepare site) s (fun u => u.fwu = s.fwu ∧ side u
            ∧ rcvOf u site = { rcvOf s site with phase := 3, reply := some (decide (bcDigest b (staged s site) = bcDigest b b.data)) }))
        ∧ (replyOf s b site = some true → Completes (.confirm site) s (fun u => rcvOf u site = { rcvOf s site with reply := none } ∧ ((∀ x ∈ live, x = site ∨ x ∈ b.conf) → now u { b with conf := b.conf ++ [site], phase := 4, since := s.now, sent := [] })
            ∧ ((∃ x ∈ live, x ≠ site ∧ x ∉ b.conf) → now u { b with conf := b.conf ++ [site] })))
        ∧ (replyOf s b site = some false → Completes (.deny site) s (fun u => rcvOf u site = { rcvOf s site with reply := none, fenced := true } ∧ getBit64 u (fwuB + R.FWU_BC_FENCED_LO) site = true ∧ bit (reg u R.PG_FLT) 1 = true
            ∧ ((∃ x ∈ live, x ≠ site ∧ x ∉ b.conf) → now u { b with fenced := b.fenced ++ [site] }) ∧ (live = [site] → now u { b with fenced := b.fenced ++ [site], phase := 6, since := s.now, sent := [] })))
        ∧ (b.phase = 4 → (bcTargets s b).contains site = true → rcvUp s site = true → colReach s site = true → b.acted.contains site = false → pwrBit s 4 = false →
            let cs := (maskCores b.cores).map (fun c => site * 64 + c)
            let op : EOp := { op := loadOp, th := 0, own := b.id, a := staged s site, b := (b.words - 1) * 2 ^ 20 + b.start * 2 ^ 8 + b.units, d := b2n (b.fenced.contains site), time := s.now }
            Completes (.activate site) s (fun u => now u { b with entered := b.entered + cs.length, acted := b.acted ++ [site] } ∧ rcvOf u site = { rcvOf s site with phase := 4, holds := false, parts := [], n := 0 }
              ∧ ∀ g, (sapOf u g) = if g ∈ cs ∧ takesLoad s g = true then { sapOf s g with port := (sapOf s g).port ++ [op] } else sapOf s g)))
      ∧ (s.now < b.since + 1000 * fld s (fwuB + R.FWU_BC_TIMEOUT) 15 0 → Completes .broadcastRoundTimeout s same)
      ∧ (b.since + 1000 * fld s (fwuB + R.FWU_BC_TIMEOUT) 15 0 ≤ s.now → b.phase = 3 → b.targets.all (· < 64) = true → live.all (fun x => !b.conf.contains x) = true → live ≠ [] → Completes .broadcastRoundTimeout s (fun u =>
          now u { b with fenced := b.fenced ++ live, phase := 6, since := s.now, sent := [] } ∧ (∀ x ∈ live, getBit64 u (fwuB + R.FWU_BC_FENCED_LO) x = true) ∧ bit (reg u R.PG_FLT) 1 = true)))

/-- R677 to R680, R685: a message on a binding that is enabled is counted and answered: MCTP control, PLDM base, sensors and events, the effecter, the PDR
repository and the FRU table; on another binding nothing happens. The codes are those of the DMTF standards, log 68.
Choices of the model: log 68, log 71, log 74. -/
def Obligations.ManagementMessages : Prop :=
  ∀ (s : State) (k : Nat), Calm s → SourceOff s mgtR 0 → s.mgt.seen = (coolState s, serviceState s) →
    let reg (u : State) (off : Nat) : Nat := rd u (mgtB + off)
    let plus (u : State) (off n : Nat) : Prop := reg u off = satAdd (reg s off) n
    let heard (i : Instr) (bad : Nat) (o : Out) (m : Mgt) : Prop := (mgtHears s k = true → Completes i s (fun u => u.out = s.out ++ [o] ∧ u.mgt = m ∧ plus u R.MGT_CNT_RX 1 ∧ plus u R.MGT_CNT_TX 1 ∧ plus u R.MGT_CNT_BAD bad ∧ Apart (fun x => { x with out := [] }) [mgtR] s u))
      ∧ (mgtHears s k = false → Completes i s (fun u => u.mgt = s.mgt ∧ Apart id [] s u ∧ u.out = s.out))
    let tells (i : Instr) (typ cmd cc : Nat) (l : List Nat) : Prop := heard i (if cc = 0 then 0 else 1) (.pldm k typ cmd cc l) s.mgt
    let mctp (mc d cc : Nat) (l : List Nat) : Prop := heard (.mctpControl k mc d) (if cc = 0 then 0 else 1) (.mctp k mc cc l) s.mgt
    (∀ d, (d = 0 ∨ 255 ≤ d → mctp 1 d 2 []) ∧ (0 < d → d < 255 → mctp 1 d 0 [d] ∧ (mgtHears s k = true → Completes (.mctpControl k 1 d) s (fun u => eidOf u k = d ∧ ∀ j, j < 2 → j ≠ k → eidOf u j = eidOf s j)))
        ∧ mctp 2 d 0 [eidOf s k] ∧ (d ∈ [0, 1, 0x7F, 0xFF] → mctp 4 d 0 [0xF1F3F100]) ∧ (d ∉ [0, 1, 0x7F, 0xFF] → mctp 4 d 0x80 []) ∧ mctp 5 d 0 [0, 1, 0x7F] ∧ mctp 6 d 0 [1, reg s R.MGT_VDM_ID] ∧ ∀ mc, mc ∉ [1, 2, 4, 5, 6] → mctp mc d 5 [])
    ∧ tells (.getTid k) 0 2 0 [s.mgt.tid] ∧ (∀ n, (n = 0 ∨ 255 ≤ n → tells (.setTid k n) 0 1 2 []) ∧ (0 < n → n < 255 → heard (.setTid k n) 0 (.pldm k 0 1 0 []) { s.mgt with tid := n }))
    ∧ tells (.getPldmTypes k) 0 4 0 [0, 2, 4, 5]
    ∧ (∀ typ, (typ ∈ [0, 2, 4, 5] → tells (.getPldmVersion k typ) 0 3 0 [if typ = 2 then 0xF1F2F000 else if typ = 4 then 0xF1F0F000 else 0xF1F1F000] ∧ ∃ l, tells (.getPldmCommands k typ) 0 5 0 l ∧ ∀ c, c ∉ l → tells (.pldmUnsupported k typ c) typ c 5 [])
      ∧ (typ ∉ [0, 2, 4, 5] → tells (.getPldmVersion k typ) 0 3 0x83 [] ∧ tells (.getPldmCommands k typ) 0 5 0x83 [] ∧ ∀ c, tells (.pldmUnsupported k typ c) typ c 5 []))
    ∧ (∀ n, (∀ v, sensorRead s n = some v → tells (.getSensorReading k n) 2 0x11 0 [v]) ∧ (sensorRead s n = none → tells (.getSensorReading k n) 2 0x11 0x80 [])
      ∧ tells (.getStateSensorReadings k n) 2 0x21 (if n = 10 ∨ n = 11 then 0 else 0x80) (if n = 10 then [coolState s] else if n = 11 then [serviceState s] else [])
      ∧ tells (.getNumericEffecterValue k n) 2 0x32 (if n = 200 then 0 else 0x80) (if n = 200 then [capW s] else []) ∧ (n ≠ 200 → ∀ v, tells (.setNumericEffecterValue k n v) 2 0x31 0x80 []))
    ∧ (mgtHears s k = true → Free s (bmc s k) 2 → s.jnl.wins = [] → ∀ v, (∀ new, judge s (bmc s k) (pwrB + R.PWR_CAP) 4 v = .apply new → Completes (.setNumericEffecterValue k 200 v) s (fun u => rd u (pwrB + R.PWR_CAP) = new % 2 ^ 32 ∧ u.out.getLast? = some (.pldm k 2 0x31 0 [])))
        ∧ (∀ r, judge s (bmc s k) (pwrB + R.PWR_CAP) 4 v = .refuse r → Completes (.setNumericEffecterValue k 200 v) s (fun u => rd u (pwrB + R.PWR_CAP) = rd s (pwrB + R.PWR_CAP) ∧ u.out.getLast? = some (.pldm k 2 0x31 2 []))))
    ∧ tells (.getPdrRepositoryInfo k) 2 0x50 0 [12 + (goodSites s).length] ∧ (∀ n r, (pdrs s)[n - 1]? = some r → 0 < n → tells (.getPdr k n) 2 0x51 0 [if n < (pdrs s).length then n + 1 else 0, r.1, r.2.1, r.2.2])
    ∧ (∀ n, (pdrs s).length < n → tells (.getPdr k n) 2 0x51 0x82 [])
    ∧ (s.mgt.events = [] → ∀ a, tells (.pollForPlatformEventMessage k a) 2 0x0B 0 [0]) ∧ (∀ e l, s.mgt.events = e :: l → tells (.pollForPlatformEventMessage k 0) 2 0x0B 0 [e.1, e.2.1, e.2.2.1, e.2.2.2])
    ∧ (∀ e f l, s.mgt.events = e :: f :: l → e.1 ≠ 0 → (∀ x ∈ f :: l, x.1 ≠ e.1) → heard (.pollForPlatformEventMessage k e.1) 0 (.pldm k 2 0x0B 0 [f.1, f.2.1, f.2.2.1, f.2.2.2]) { s.mgt with events := f :: l })
    ∧ tells (.eventMessageBufferSize k) 2 0x0D 0 [64] ∧ (∀ e, heard (.setEventReceiver k e) 0 (.pldm k 2 0x04 0 []) { s.mgt with receiver := if e = 0 then none else some (k, e) })
    ∧ tells (.getFruRecordTableMetadata k) 4 1 0 [2, 641] ∧ tells (.getFruRecordTable k) 4 2 0 (generalRecord s ++ oemRecord s)
    ∧ (∀ c, (mgtHears s k = true → Completes (.mgtBusTimeout k c) s (fun u => bit (reg u R.PG_FLT) 0 = true ∧ bit (reg u R.PG_EVT) 0 = true ∧ Apart id [mgtR] s u)) ∧ (mgtHears s k = false → Completes (.mgtBusTimeout k c) s (fun u => Apart id [] s u)))

/-- R664, R681, R682: a PLDM update goes through its states, asks for its data 1,024 bytes at a time, verifies and applies a component, and ends; IMAGE_WRITE and
it exclude each other; a vendor-defined request reads or writes registers as class 1.
Choices of the model: log 66, log 68, log 72. -/
def Obligations.UpdatesAndRegisterAccess : Prop :=
  ∀ (s : State) (k : Nat), Calm s → s.mgt.seen = (coolState s, serviceState s) → mgtHears s k = true →
    let x := s.mgt.upd
    let reg (u : State) (off : Nat) : Nat := rd u (mgtB + off)
    let out (l : List Out) (u : State) : Prop := u.out = s.out ++ l
    let quiet (u : State) : Prop := Apart (fun x => { x with out := [] }) [mgtR] s u
    let ans (cmd cc : Nat) (l : List Nat) : List Out := [.pldm k 5 cmd cc l]
    let upd (y : Update) (u : State) : Prop := u.mgt = { s.mgt with upd := { y with bnd := k, last := s.now } }
    let goTo (n : Nat) (y : Update) : Update := { y with state := n, prev := x.state }
    let runs (i : Instr) (l : List Out) (y : Update) : Prop := Completes i s (fun u => out l u ∧ upd y u ∧ quiet u)
    let only (i : Instr) (l : List Out) : Prop := Completes i s (fun u => out l u ∧ u.mgt = s.mgt ∧ quiet u)
    let guard (i : Instr) (cmd : Nat) (ok : Prop) : Prop := (x.state = 0 → only i (ans cmd 0x80 [])) ∧ (x.state ≠ 0 → ¬ ok → runs i (ans cmd 0x84 []) x)
    only (.queryDeviceIdentifiers k) (ans 1 0 [reg s R.MGT_VDM_ID])
    ∧ only (.getFirmwareParameters k) (ans 2 0 [0xFFFF, 1, runVersion s, if bit (rd s (slotReg (idleSlot s))) 31 then rd s (slotVer (idleSlot s)) else 0, 0xFFFF, 2, (s.lic.active.map Blob.counter).getD 0, (s.lic.pending.map Blob.counter).getD 0])
    ∧ (x.state ≠ 0 ∨ imgBusy s = true → only (.requestUpdate k) (ans 0x10 0x81 [])) ∧ (x.state = 0 → imgBusy s = false → runs (.requestUpdate k) (ans 0x10 0 []) { state := 1, prev := 0 })
    ∧ (∀ c last, guard (.passComponentTable k c last) 0x13 (x.state = 1) ∧ (x.state = 1 → runs (.passComponentTable k c last) (ans 0x13 0 [if c = 1 ∨ c = 2 then 0 else 1]) (if last then goTo 2 x else x)))
    ∧ (∀ c n, guard (.updateComponent k c n) 0x14 (x.state = 2) ∧ (x.state = 2 → let good : Prop := (c = 1 ∨ c = 2) ∧ 0 < n ∧ n ≤ 16777216
        (good → runs (.updateComponent k c n) (ans 0x14 0 [0] ++ [.pldmReq k 5 0x15 [0, min 1024 n]]) (goTo 3 { x with comp := c, size := n, pos := 0, data := 0 })) ∧ (¬ good → runs (.updateComponent k c n) (ans 0x14 0 [1]) x)))
    ∧ (∀ n d, let all := x.data + d % 256 ^ n * 256 ^ x.pos
      (x.state ≠ 3 ∨ n ≠ min 1024 (x.size - x.pos) → only (.requestFirmwareData k n d) [])
      ∧ (x.state = 3 → n = min 1024 (x.size - x.pos) → x.pos + n < x.size → runs (.requestFirmwareData k n d) [.pldmReq k 5 0x15 [x.pos + n, min 1024 (x.size - (x.pos + n))]] { x with pos := x.pos + n, data := all })
      ∧ (x.state = 3 → n = min 1024 (x.size - x.pos) → x.size ≤ x.pos + n → x.comp = 1 → let why := imgReason s x.size all
        let done : Update := { x with state := 2, prev := 3, pos := x.pos + n, data := 0 }
        (why ≠ 0 → runs (.requestFirmwareData k n d) [.pldmReq k 5 0x16 [0], .pldmReq k 5 0x17 [why]] done)
        ∧ (why = 0 → EventOff s fwuR 0 → Completes (.requestFirmwareData k n d) s (fun u => out [.pldmReq k 5 0x16 [0], .pldmReq k 5 0x17 [0], .pldmReq k 5 0x18 [0]] u ∧ upd done u
            ∧ rd u (slotReg (idleSlot s)) = (2 ^ 31 + imgF all 12 4 * 2 ^ 16 + (fld s (slotReg (runSlot s)) 15 0 + 1) % 65536) % 2 ^ 32 ∧ rd u (slotVer (idleSlot s)) = imgF all 16 4)))
      ∧ (x.state = 3 → n = min 1024 (x.size - x.pos) → x.size ≤ x.pos + n → x.comp = 2 → 1024 < x.size → runs (.requestFirmwareData k n d) [.pldmReq k 5 0x16 [0], .pldmReq k 5 0x17 [1]] { x with state := 2, prev := 3, pos := x.pos + n, data := 0 }))
    ∧ (∀ self, guard (.activateFirmware k self) 0x1A (x.state = 2) ∧ (x.state = 2 → self = false → runs (.activateFirmware k self) (ans 0x1A 0 [0]) (goTo 0 x)) ∧ (x.state = 2 → self = true → runs (.activateFirmware k self) (ans 0x1A 0x8C []) x))
    ∧ (x.state = 0 → only (.getStatus k) (ans 0x1B 0 [0, x.prev])) ∧ (x.state ≠ 0 → runs (.getStatus k) (ans 0x1B 0 [x.state, x.prev]) x)
    ∧ guard (.cancelUpdateComponent k) 0x1C (x.state = 3) ∧ (x.state = 3 → runs (.cancelUpdateComponent k) (ans 0x1C 0 []) (goTo 2 { x with data := 0 }))
    ∧ guard (.cancelUpdate k) 0x1D True ∧ (x.state ≠ 0 → runs (.cancelUpdate k) (ans 0x1D 0 []) (goTo 0 { x with data := 0 }))
    ∧ (x.state ≠ 0 → x.last + 120000000000 ≤ s.now → Completes .pldmUpdateTimeout s (fun u => u.mgt = { s.mgt with upd := { x with state := 0, prev := x.state, data := 0 } } ∧ quiet u)) ∧ (x.state = 0 ∨ s.now < x.last + 120000000000 → only .pldmUpdateTimeout [])
    ∧ (∀ iana cnt rsv off d, let mine : Prop := iana = reg s R.MGT_VDM_ID
      let form : Prop := cnt ≤ 15 ∧ rsv = 0 ∧ off % 4 = 0
      (¬ mine → only (.vdmRegRd k iana cnt rsv off) [] ∧ only (.vdmRegWr k iana cnt rsv off d) [])
      ∧ (mine → ¬ form → only (.vdmRegRd k iana cnt rsv off) [.vdm k 1 3 0 off []] ∧ only (.vdmRegWr k iana cnt rsv off d) [.vdm k 2 3 0 off []])
      ∧ (mine → form → (∃ l, l.length = cnt + 1 ∧ Completes (.vdmRegRd k iana cnt rsv off) s (out [.vdm k 1 0 (cnt + 1) off l]) ∧ (cnt = 0 → Page.ofOff off ≠ some mgtR → l = [busRead s (bmc s k) off]))
        ∧ (bit (reg s R.MGT_CTRL) 2 = false → only (.vdmRegWr k iana cnt rsv off d) [.vdm k 2 2 0 off []])
        ∧ (∀ r, bit (reg s R.MGT_CTRL) 2 = true → cnt = 0 → Page.ofOff off = some r → r.t ∉ [.CORE, .SAP, .EVQ, .TFLT, .DFLT, .MGT] → Free s (bmc s k) 2 → s.jnl.wins = [] →
          (∀ new, judge s (bmc s k) off 4 (d % 2 ^ 32) = .apply new → Completes (.vdmRegWr k iana cnt rsv off d) s (fun u => rd u off = new % 2 ^ 32 ∧ u.out.getLast? = some (.vdm k 2 0 1 off [])))
          ∧ (∀ why, judge s (bmc s k) off 4 (d % 2 ^ 32) = .refuse why → r.t ∉ [.JNL] → R.PG_FLT ≤ off % 0x1000 → Completes (.vdmRegWr k iana cnt rsv off d) s (fun u => rd u off = rd s off ∧ u.out.getLast? = some (.vdm k 2 1 0 off []))))))
end

