-- ==== Sys2Proof/Laws/Decide.lean ====
section
/-! SUPPORT. Sys2Proof/Laws/Decide.lean: the conditions of the statements as tests that can be evaluated on a given state. -/
namespace Sys2Proof.Machine
open Sys2Proof

/-- Are the sparse maps in canonical form? -/
def mapsTest (s : State) : Bool :=
  Memory.wf s.mem && Memory.wf s.host && SMap.wf RegTable.reset s.regs && SMap.wf (fun _ => false) s.poison && SMap.sorted s.latch
  && SMap.sorted s.busy && SMap.sorted s.deadWin && SMap.wf (fun _ => ({} : Thread)) s.threads && SMap.wf (fun _ => ({} : Leaf)) s.leaf
  && SMap.wf (fun _ => []) s.tokq && SMap.wf (fun _ => ({} : Stream)) s.stream && SMap.wf (fun _ => ({} : Arr)) s.arr
  && SMap.wf (fun _ => ({} : Mv)) s.mv && SMap.wf (fun _ => ({} : Dsp)) s.dsp && SMap.wf (fun _ => ({} : Port)) s.port
  && SMap.wf (fun _ => ({} : Slc)) s.slc && SMap.wf (fun _ => ({} : Sap)) s.sap && SMap.wf (fun _ => ({} : Att)) s.att
  && SMap.wf (fun _ => ({} : Pfx)) s.pfx && SMap.wf (fun _ => ({} : Rtr)) s.rtr && SMap.wf (fun _ => ({} : Snd)) s.snd
  && SMap.wf (fun _ => ({} : Bgh)) s.bgh && SMap.wf (fun _ => ({} : Rcv)) s.bcst && SMap.wf (fun _ => ({} : Tth)) s.tth
  && SMap.wf (fun _ => 0) s.led && SMap.wf (fun _ => ({} : Ldg)) s.ldg && SMap.wf (fun _ => 0) s.cfg && SMap.wf (fun _ => 0) s.msix
theorem maps_of_test {s : State} (h : mapsTest s = true) : Maps s := by
  simp only [mapsTest, Bool.and_eq_true] at h
  obtain ⟨⟨⟨⟨⟨⟨⟨⟨⟨⟨⟨⟨⟨⟨⟨⟨⟨⟨⟨⟨⟨⟨⟨⟨⟨⟨⟨h1, h2⟩, h3⟩, h4⟩, h5⟩, h6⟩, h7⟩, h8⟩, h9⟩, h10⟩, h11⟩, h12⟩, h13⟩, h14⟩, h15⟩, h16⟩, h17⟩, h18⟩, h19⟩, h20⟩, h21⟩, h22⟩, h23⟩, h24⟩, h25⟩, h26⟩, h27⟩, h28⟩ := h
  exact ⟨h1, h2, h3, h4, h5, h6, h7, h8, h9, h10, h11, h12, h13, h14, h15, h16, h17, h18, h19, h20, h21, h22, h23, h24, h25, h26, h27, h28⟩

/-- Is the state calm? -/
def calmTest (s : State) : Bool := mapsTest s && s.pins.pwrgd && decide (s.evq.hold.length + 64 ≤ 4096)
theorem calm_of_test {s : State} (h : calmTest s = true) : Calm s := by
  simp only [calmTest, Bool.and_eq_true, decide_eq_true_eq] at h
  exact ⟨maps_of_test h.1.1, h.1.2, h.2⟩

/-- Is a write carried out as it comes? -/
def freeTest (s : State) (o : Origin) (n : Nat) : Bool :=
  decide (fld s (Page.trunk .PWR + R.PWR_STATE) 4 4 = 0) && !mustWait s o && (decide (o.cls ≠ 0) || !hostBlocked s) && jRoom s o.cls n
theorem free_of_test {s : State} {o : Origin} {n : Nat} (h : freeTest s o n = true) : Free s o n := by
  simp only [freeTest, Bool.and_eq_true, Bool.or_eq_true, decide_eq_true_eq, Bool.not_eq_true'] at h
  obtain ⟨⟨⟨h1, h2⟩, h3⟩, h4⟩ := h
  exact ⟨h1, h2, fun hc => h3.resolve_left (fun hn => hn hc), h4⟩

/-- Is a command accepted? -/
def acceptedTest (s : State) (o : Origin) (r : Page.Ref) (op arg : Nat) : Bool :=
  calmTest s && freeTest s o 1 && decide (op < 256) && decide (Page.ofOff (Page.base r) = some r) && Page.hasCmd r.t
  && decide (judgeCmd s r (arg * 256 + op) = .accept)
theorem accepted_of_test {s : State} {o : Origin} {r : Page.Ref} {op arg : Nat} (h : acceptedTest s o r op arg = true) : Accepted s o r op arg := by
  simp only [acceptedTest, Bool.and_eq_true, decide_eq_true_eq] at h
  obtain ⟨⟨⟨⟨⟨h1, h2⟩, h3⟩, h4⟩, h5⟩, h6⟩ := h
  exact ⟨calm_of_test h1, free_of_test h2, h3, h4, h5, h6⟩

/-- Is a thread ready to issue an instruction? -/
def readyTest (s : State) (g th w : Nat) (sh : Shape) : Bool :=
  decide (g < 4096) && decide (th < 64) && mapsTest s && s.pins.pwrgd && mayIssue s g th && decide (fetchFault s g (thr s g th).pc = none)
  && (decide (fCond w = 0) || (decide (pendOf (thr s g th) [fP w] = []) && !(thr s g th).bad (fP w)
    && ((decide (fCond w = 1) && decide ((thr s g th).get (fP w) ≠ 0)) || (decide (fCond w = 2) && decide ((thr s g th).get (fP w) = 0)))))
  && !sh.bad w && decide (pendOf (thr s g th) (sh.uses w) = [])
theorem ready_of_test {s : State} {g th w : Nat} {sh : Shape} (h : readyTest s g th w sh = true) : Ready s g th w sh := by
  simp only [readyTest, Bool.and_eq_true, Bool.or_eq_true, decide_eq_true_eq, Bool.not_eq_true'] at h
  obtain ⟨⟨⟨⟨⟨⟨⟨⟨h1, h2⟩, h3⟩, h4⟩, h5⟩, h6⟩, h7⟩, h8⟩, h9⟩ := h
  exact ⟨h1, h2, maps_of_test h3, h4, h5, h6, h7.imp id (fun h => ⟨h.1.1, h.1.2, h.2⟩), h8, h9⟩

end Sys2Proof.Machine
end

