-- ==== Sys2Proof/Laws/State.lean ====
section
/-! SUPPORT. Sys2Proof/Laws/State.lean: what each atomic change leaves of each field. -/
namespace Sys2Proof.Machine

@[simp] theorem applyAll_nil (s : State) : applyAll [] s = s := rfl
@[simp] theorem applyAll_cons (a : Act) (l : List Act) (s : State) : applyAll (a :: l) s = applyAll l (a.apply s) := rfl
@[simp] theorem reset_pending : State.reset.pending = [] := rfl

end Sys2Proof.Machine
end

