-- ==== Sys2Proof/Laws/Run.lean ====
section
/-! SUPPORT. Sys2Proof/Laws/Run.lean: what running each combinator of meanings leaves, and what a meaning answers. -/
namespace Sys2Proof.Machine
open Sys2Proof

theorem applyAll_append (l m : List Act) (s : State) : applyAll (l ++ m) s = applyAll m (applyAll l s) := by
  induction l generalizing s with
  | nil => rfl
  | cons a l ih => exact ih (a.apply s)

@[simp] theorem run_skip (s : State) : skip.run s = s := (rfl)
@[simp] theorem run_act (a : Act) (s : State) : (act a).run s = a.apply s := rfl
@[simp] theorem run_andThen (u v : Upd) (s : State) : (andThen u v).run s = v.run (u.run s) := applyAll_append ..
@[simp] theorem run_seqs_nil (s : State) : (seqs []).run s = s := (rfl)
@[simp] theorem run_seqs_cons (u : Upd) (us : List Upd) (s : State) : (seqs (u :: us)).run s = (seqs us).run (u.run s) := by
  cases us with
  | nil => rfl
  | cons v vs => exact run_andThen u (seqs (v :: vs)) s
@[simp] theorem run_read (f : State → Upd) (s : State) : (read f).run s = (f s).run s := (rfl)
@[simp] theorem run_when_true (u : Upd) : when true u = u := (rfl)
@[simp] theorem run_when_false (u : Upd) : when false u = skip := (rfl)
theorem run_when (c : Bool) (u : Upd) (s : State) : (when c u).run s = if c then u.run s else s := by cases c <;> rfl
theorem run_either (c : Bool) (u v : Upd) (s : State) : (either c u v).run s = if c then u.run s else v.run s := by cases c <;> rfl
@[simp] theorem run_each_nil (f : α → Upd) (s : State) : (each [] f).run s = s := rfl
@[simp] theorem run_each_cons (a : α) (l : List α) (f : α → Upd) (s : State) : (each (a :: l) f).run s = (each l f).run ((f a).run s) :=
  run_seqs_cons (f a) (l.map f) s
@[simp] theorem run_onSome_some (a : α) (f : α → Upd) : onSome (some a) f = f a := rfl
@[simp] theorem run_onSome_none (f : α → Upd) : onSome none f = skip := rfl

/-- Whatever every atomic change keeps, every meaning keeps. -/
theorem run_keeps {P : State → Prop} (h : ∀ (a : Act) (s : State), P s → P (a.apply s)) (u : Upd) (s : State) (hs : P s) : P (u.run s) := by
  have k : ∀ (l : List Act) (s : State), P s → P (applyAll l s) := by
    intro l
    induction l with
    | nil => intro s hs; exact hs
    | cons a l ih => intro s hs; exact ih _ (h a s hs)
  exact k (u s) s hs

/-- A meaning answers a next state, and whatever every atomic change keeps, it keeps. -/
theorem done_keeps {P : State → Prop} (h : ∀ (a : Act) (s : State), P s → P (a.apply s)) (u : Upd) (s : State) (hs : P s) :
    ∃ t, done u s = .next t ∧ P t := by
  refine ⟨_, rfl, ?_⟩
  split
  · exact run_keeps h _ _ hs
  · exact hs

/-- The same of a meaning that holds with the rails off. -/
theorem always_keeps {P : State → Prop} (h : ∀ (a : Act) (s : State), P s → P (a.apply s)) (u : Upd) (s : State) (hs : P s) :
    ∃ t, always u s = .next t ∧ P t := ⟨_, rfl, run_keeps h _ _ hs⟩

/-- With power, a meaning runs, and then the endpoint looks at its state sensors. -/
theorem done_run (u : Upd) (s : State) (h : s.pins.pwrgd = true) : done u s = .next (mgtWatch.run (u.run s)) := by
  simp [done, h]
/-- Without, the LQ1 does nothing. -/
theorem done_off (u : Upd) (s : State) (h : s.pins.pwrgd = false) : done u s = .next s := by simp [done, h]

/-- What looking at the state sensors changes: the endpoint's record alone. -/
theorem mgtWatch_run (s : State) : ∃ m, mgtWatch.run s = { s with mgt := m } := by
  unfold Upd.run mgtWatch
  dsimp only
  split
  · exact ⟨s.mgt, rfl⟩
  · exact ⟨_, rfl⟩

end Sys2Proof.Machine
end

