-- ==== Sys2Proof/Laws/Keep.lean ====
section
/-! SUPPORT. Sys2Proof/Laws/Keep.lean: the sparse maps keep their canonical form, and what every atomic change keeps. -/
namespace Sys2Proof
namespace SMap

theorem above_trans {j k : Nat} (h : j < k) (m : List (Nat × α)) : above k m = true → above j m = true := by
  induction m with
  | nil => intro _; rfl
  | cons e m ih =>
    obtain ⟨a, v⟩ := e
    simp only [above, Bool.and_eq_true, decide_eq_true_eq]
    rintro ⟨h1, h2⟩
    exact ⟨by omega, ih h2⟩

theorem above_put {j k : Nat} (v : α) (m : List (Nat × α)) (h : j < k) (hm : above j m = true) : above j (put k v m) = true := by
  induction m with
  | nil => simp [put, above, h]
  | cons e m ih =>
    obtain ⟨a, w⟩ := e
    simp only [above, Bool.and_eq_true, decide_eq_true_eq] at hm
    unfold put
    split
    · simp [above, h, hm.1, hm.2]
    · split
      · simp [above, h, hm.2]
      · simp [above, hm.1, ih hm.2]

theorem above_dropIf {j : Nat} (p : Nat → Bool) (m : List (Nat × α)) (hm : above j m = true) : above j (dropIf p m) = true := by
  induction m with
  | nil => rfl
  | cons e m ih =>
    obtain ⟨a, w⟩ := e
    simp only [above, Bool.and_eq_true, decide_eq_true_eq] at hm
    unfold dropIf at ih ⊢
    rw [List.filter_cons]
    split
    · simp [above, hm.1, ih hm.2]
    · exact ih hm.2

theorem del_eq (k : Nat) (m : List (Nat × α)) : del k m = dropIf (fun x => decide (x = k)) m := by
  simp [del, dropIf]

theorem sorted_put (k : Nat) (v : α) (m : List (Nat × α)) (hm : sorted m = true) : sorted (put k v m) = true := by
  induction m with
  | nil => rfl
  | cons e m ih =>
    obtain ⟨a, w⟩ := e
    simp only [sorted, Bool.and_eq_true] at hm
    unfold put
    split
    · rename_i h
      simp [sorted, above, h, hm.1, hm.2, above_trans h m hm.1]
    · split
      · rename_i h
        subst h
        simp [sorted, hm.1, hm.2]
      · rename_i h1 h2
        simp only [sorted, Bool.and_eq_true]
        exact ⟨above_put v m (by omega) hm.1, ih hm.2⟩

theorem sorted_dropIf (p : Nat → Bool) (m : List (Nat × α)) (hm : sorted m = true) : sorted (dropIf p m) = true := by
  induction m with
  | nil => rfl
  | cons e m ih =>
    obtain ⟨a, w⟩ := e
    simp only [sorted, Bool.and_eq_true] at hm
    have := above_dropIf p m hm.1
    have h2 := ih hm.2
    unfold dropIf at this h2 ⊢
    rw [List.filter_cons]
    split
    · simp only [sorted, Bool.and_eq_true]; exact ⟨this, h2⟩
    · exact h2

theorem sorted_del (k : Nat) (m : List (Nat × α)) (hm : sorted m = true) : sorted (del k m) = true := by
  rw [del_eq]; exact sorted_dropIf _ m hm

theorem all_put (P : Nat × α → Bool) (k : Nat) (v : α) (m : List (Nat × α)) (hv : P (k, v) = true) (hm : m.all P = true) : (put k v m).all P = true := by
  induction m with
  | nil => simp [put, hv]
  | cons e m ih =>
    obtain ⟨a, w⟩ := e
    simp only [List.all_cons, Bool.and_eq_true] at hm
    unfold put
    split
    · simp [hv, hm.1, hm.2]
    · split
      · simp [hv, hm.2]
      · simp [hm.1, ih hm.2]

theorem all_dropIf (P : Nat × α → Bool) (p : Nat → Bool) (m : List (Nat × α)) (hm : m.all P = true) : (dropIf p m).all P = true := by
  unfold dropIf
  rw [List.all_eq_true] at hm ⊢
  intro x hx
  exact hm x (List.mem_filter.mp hx).1

theorem wf_set [DecidableEq α] (d : Nat → α) (k : Nat) (v : α) (m : List (Nat × α)) (h : wf d m = true) : wf d (set (d k) k v m) = true := by
  simp only [wf, Bool.and_eq_true] at h ⊢
  unfold set
  split
  · rw [del_eq]; exact ⟨sorted_dropIf _ m h.1, all_dropIf _ _ m h.2⟩
  · rename_i hv
    exact ⟨sorted_put k v m h.1, all_put _ k v m (by simpa using hv) h.2⟩

theorem wf_dropIf [DecidableEq α] (d : Nat → α) (p : Nat → Bool) (m : List (Nat × α)) (h : wf d m = true) : wf d (dropIf p m) = true := by
  simp only [wf, Bool.and_eq_true] at h ⊢
  exact ⟨sorted_dropIf p m h.1, all_dropIf _ p m h.2⟩

/-! ## Reading after writing -/

theorem find_put (k j : Nat) (v : α) (m : List (Nat × α)) : find j (put k v m) = if k = j then some v else find j m := by
  induction m with
  | nil => simp [put, find]
  | cons e m ih =>
    obtain ⟨a, w⟩ := e
    unfold put
    split
    · simp [find]
    · split
      · rename_i h
        subst h
        simp only [find]
        split <;> rfl
      · rename_i h1 h2
        simp only [find, ih]
        split
        · rename_i h
          have : ¬ k = j := by omega
          simp [this]
        · rfl

theorem find_del (k j : Nat) (m : List (Nat × α)) : find j (del k m) = if k = j then none else find j m := by
  unfold del
  induction m with
  | nil => simp [find]
  | cons e m ih =>
    obtain ⟨a, w⟩ := e
    rw [List.filter_cons]
    by_cases h : a = k
    · subst h
      simp only [ne_eq, not_true_eq_false, decide_false, Bool.false_eq_true, if_false, ih, find]
      split <;> rfl
    · simp only [ne_eq, h, not_false_eq_true, decide_true, if_true, find, ih]
      split
      · rename_i h2
        have : ¬ k = j := by omega
        simp [this]
      · rfl

/-- Reading a sparse map after writing it. -/
theorem get_set [DecidableEq α] (d : α) (k j : Nat) (v : α) (m : List (Nat × α)) :
    get d j (set d k v m) = if k = j then v else get d j m := by
  unfold get set
  split
  · rename_i h
    rw [find_del k j m]
    split
    · simp [h]
    · rfl
  · rw [find_put k j v m]
    split <;> rfl

end SMap

namespace Machine

theorem unhold_length (r : Nat) (l : List (Nat × EvRec)) : (unhold r l).length ≤ l.length := by
  induction l with
  | nil => exact Nat.le_refl _
  | cons e l ih => unfold unhold; split <;> simp <;> omega

/-- Every atomic change keeps the invariant of the sparse maps. -/
theorem act_maps (a : Act) (s : State) (h : Maps s) : Maps (a.apply s) := by
  cases a
  case jPush e => unfold Act.apply; dsimp only; split <;> exact { h with }
  case jOpen w => unfold Act.apply; dsimp only; split <;> exact { h with }
  case jWins ws => unfold Act.apply; dsimp only; split <;> exact { h with }
  case evHold r e => unfold Act.apply; dsimp only; split <;> exact { h with }
  case reg off v => exact { h with regs := SMap.wf_set RegTable.reset off v _ h.regs }
  case regsReset p => exact { h with regs := SMap.wf_dropIf RegTable.reset p _ h.regs }
  case mem k b => exact { h with mem := SMap.wf_set (fun _ => 0) k b _ h.mem }
  case memClear p => exact { h with mem := SMap.wf_dropIf (fun _ => 0) p _ h.mem, poison := SMap.wf_dropIf (fun _ => false) (fun c => p (c * 32)) s.poison h.poison }
  case host k b => exact { h with host := SMap.wf_set (fun _ => 0) k b _ h.host }
  case poison c b => exact { h with poison := SMap.wf_set (fun _ => false) c b _ h.poison }
  case latch k v => exact { h with latch := SMap.sorted_put k v _ h.latch }
  case dropLatch p => exact { h with latch := SMap.sorted_dropIf p _ h.latch }
  case busy pg b => cases b with
    | none => exact { h with busy := SMap.sorted_del pg _ h.busy }
    | some b => exact { h with busy := SMap.sorted_put pg b _ h.busy }
  case deadWin k w => cases w with
    | none => exact { h with deadWin := SMap.sorted_del k _ h.deadWin }
    | some b => exact { h with deadWin := SMap.sorted_put k b _ h.deadWin }
  case thread k x => exact { h with threads := SMap.wf_set (fun _ => {}) k x _ h.threads }
  case leaf k x => exact { h with leaf := SMap.wf_set (fun _ => {}) k x _ h.leaf }
  case tokq k x => exact { h with tokq := SMap.wf_set (fun _ => []) k x _ h.tokq }
  case stream k x => exact { h with stream := SMap.wf_set (fun _ => {}) k x _ h.stream }
  case arr k x => exact { h with arr := SMap.wf_set (fun _ => {}) k x _ h.arr }
  case mv k x => exact { h with mv := SMap.wf_set (fun _ => {}) k x _ h.mv }
  case dsp k x => exact { h with dsp := SMap.wf_set (fun _ => {}) k x _ h.dsp }
  case port k x => exact { h with port := SMap.wf_set (fun _ => {}) k x _ h.port }
  case slc k x => exact { h with slc := SMap.wf_set (fun _ => {}) k x _ h.slc }
  case sap k x => exact { h with sap := SMap.wf_set (fun _ => {}) k x _ h.sap }
  case att k x => exact { h with att := SMap.wf_set (fun _ => {}) k x _ h.att }
  case pfx k x => exact { h with pfx := SMap.wf_set (fun _ => {}) k x _ h.pfx }
  case rtr k x => exact { h with rtr := SMap.wf_set (fun _ => {}) k x _ h.rtr }
  case snd k x => exact { h with snd := SMap.wf_set (fun _ => {}) k x _ h.snd }
  case bgh k x => exact { h with bgh := SMap.wf_set (fun _ => {}) k x _ h.bgh }
  case bcst k x => exact { h with bcst := SMap.wf_set (fun _ => {}) k x _ h.bcst }
  case tth k x => exact { h with tth := SMap.wf_set (fun _ => {}) k x _ h.tth }
  case led k x => exact { h with led := SMap.wf_set (fun _ => 0) k x _ h.led }
  case ldg k x => exact { h with ldg := SMap.wf_set (fun _ => {}) k x _ h.ldg }
  case cfg k x => exact { h with cfg := SMap.wf_set (fun _ => 0) k x _ h.cfg }
  case cfgClear => exact { h with cfg := rfl }
  case msix k x => exact { h with msix := SMap.wf_set (fun _ => 0) k x _ h.msix }
  all_goals exact { h with }

/-- Every atomic change keeps the bounds of the journal and of the hold store. -/
theorem act_bounds (a : Act) (s : State) (h : Bounds s) : Bounds (a.apply s) := by
  obtain ⟨h4, h4', h5⟩ := h
  cases a
  case busy pg b => cases b <;> exact ⟨h4, h4', h5⟩
  case deadWin k w => cases w <;> exact ⟨h4, h4', h5⟩
  case jPush e =>
    unfold Act.apply; dsimp only; split
    · rename_i h
      refine ⟨?_, h4', h5⟩
      simp only [Jnl.fill, List.length_append, List.length_singleton] at h ⊢; omega
    · exact ⟨h4, h4', h5⟩
  case jOpen w =>
    unfold Act.apply; dsimp only; split
    · rename_i h
      refine ⟨?_, ?_, h5⟩ <;> simp only [Jnl.fill, List.length_append, List.length_singleton] at h ⊢ <;> omega
    · exact ⟨h4, h4', h5⟩
  case jWins ws =>
    unfold Act.apply; dsimp only; split
    · rename_i h
      refine ⟨?_, ?_, h5⟩ <;> simp only [Jnl.fill] at h4 h ⊢ <;> omega
    · exact ⟨h4, h4', h5⟩
  case jDrain n =>
    refine ⟨?_, h4', h5⟩
    simp only [Act.apply, Jnl.fill, List.length_drop] at h4 ⊢; omega
  case jCold => exact ⟨Nat.zero_le _, Nat.zero_le _, h5⟩
  case evHold r e =>
    unfold Act.apply; dsimp only; split
    · rename_i h
      refine ⟨h4, h4', ?_⟩
      simp only [List.length_append, List.length_singleton]; omega
    · exact ⟨h4, h4', h5⟩
  case evUnhold r => exact ⟨h4, h4', Nat.le_trans (unhold_length r _) h5⟩
  case evClear => exact ⟨h4, h4', Nat.zero_le _⟩
  all_goals exact ⟨h4, h4', h5⟩

/-- No atomic change touches the command queue. -/
theorem act_pending (a : Act) (s : State) : (a.apply s).pending = s.pending := by
  cases a
  case busy pg b => cases b <;> rfl
  case deadWin k w => cases w <;> rfl
  case jPush e => unfold Act.apply; dsimp only; split <;> rfl
  case jOpen w => unfold Act.apply; dsimp only; split <;> rfl
  case jWins ws => unfold Act.apply; dsimp only; split <;> rfl
  case evHold r e => unfold Act.apply; dsimp only; split <;> rfl
  all_goals rfl

end Machine
end Sys2Proof
end

