-- ==== Sys2Proof/Laws/Only.lean ====
section
/-! SUPPORT. Sys2Proof/Laws/Only.lean: frames. A meaning whose atomic changes all meet a test leaves alone whatever no such change touches. -/
namespace Sys2Proof.Machine
open Sys2Proof

/-- Every atomic change that the meaning makes meets `q`. -/
def Only (q : Act → Bool) (u : Upd) : Prop := ∀ (s : State) (a : Act), a ∈ u s → q a = true

theorem only_skip (q : Act → Bool) : Only q skip := by intro s a h; cases h
theorem only_act {q : Act → Bool} {a : Act} (h : q a = true) : Only q (act a) := by
  intro s b hb; simp only [act, List.mem_singleton] at hb; subst hb; exact h
theorem only_andThen {q : Act → Bool} {u v : Upd} (hu : Only q u) (hv : Only q v) : Only q (andThen u v) := by
  intro s a h
  rcases List.mem_append.mp h with h | h
  · exact hu s a h
  · exact hv _ a h
theorem only_seqs {q : Act → Bool} {l : List Upd} (h : ∀ u ∈ l, Only q u) : Only q (seqs l) := by
  induction l with
  | nil => exact only_skip q
  | cons u l ih =>
    cases l with
    | nil => exact h u (by simp)
    | cons v l => exact only_andThen (h u (by simp)) (ih (fun x hx => h x (by simp [hx])))
theorem only_seqs2 {q : Act → Bool} {u v : Upd} (hu : Only q u) (hv : Only q v) : Only q (seqs [u, v]) := only_andThen hu hv
theorem only_when {q : Act → Bool} {c : Bool} {u : Upd} (h : Only q u) : Only q (when c u) := by
  cases c
  · exact only_skip q
  · exact h
theorem only_either {q : Act → Bool} {c : Bool} {u v : Upd} (hu : Only q u) (hv : Only q v) : Only q (either c u v) := by
  cases c
  · exact hv
  · exact hu
theorem only_read {q : Act → Bool} {f : State → Upd} (h : ∀ s, Only q (f s)) : Only q (read f) := fun s a ha => h s s a ha
theorem only_each {q : Act → Bool} {l : List α} {f : α → Upd} (h : ∀ a, Only q (f a)) : Only q (each l f) := by
  refine only_seqs ?_
  intro u hu
  obtain ⟨a, -, rfl⟩ := List.mem_map.mp hu
  exact h a
theorem only_onSome {q : Act → Bool} {x : Option α} {f : α → Upd} (h : ∀ a, Only q (f a)) : Only q (onSome x f) := by
  cases x
  · exact only_skip q
  · exact h _

/-- What no change that meets `q` touches, the meaning leaves alone. -/
theorem only_frame {q : Act → Bool} {u : Upd} (h : Only q u) {β : Type} (f : State → β)
    (hf : ∀ (a : Act) (s : State), q a = true → f (a.apply s) = f s) (s : State) : f (u.run s) = f s := by
  have k : ∀ (l : List Act) (t : State), (∀ a ∈ l, q a = true) → f (applyAll l t) = f t := by
    intro l
    induction l with
    | nil => intro t _; rfl
    | cons a l ih =>
      intro t hl
      rw [applyAll_cons, ih _ (fun b hb => hl b (by simp [hb])), hf a t (hl a (by simp))]
  exact k (u s) s (fun a ha => h s a ha)

/-- The same of states whose maps are in canonical form. -/
theorem only_frame_maps {q : Act → Bool} {u : Upd} (h : Only q u) {s : State} (hs : Maps s) {β : Type} (f : State → β)
    (hf : ∀ (a : Act) (s : State), Maps s → q a = true → f (a.apply s) = f s) : f (u.run s) = f s := by
  have k : ∀ (l : List Act) (t : State), Maps t → (∀ a ∈ l, q a = true) → f (applyAll l t) = f t := by
    intro l
    induction l with
    | nil => intro t _ _; rfl
    | cons a l ih =>
      intro t ht hl
      rw [applyAll_cons, ih _ (act_maps a t ht) (fun b hb => hl b (by simp [hb])), hf a t ht (hl a (by simp))]
  exact k (u s) s hs (fun a ha => h s a ha)

/-- The register at `off` after another is written. -/
theorem rd_reg (off o : Nat) (v : Word) (s : State) (hm : Maps s) :
    rd ((Act.reg off v).apply s) o = if off = o then v.toNat else rd s o := by
  have h := hm.regs
  simp only [SMap.wf, Bool.and_eq_true] at h
  show ((SMap.find o (SMap.set (RegTable.reset off) off v s.regs)).getD (RegTable.reset o)).toNat = _
  unfold SMap.set
  split
  · rename_i e
    rw [SMap.find_del off o _]
    split
    · rename_i h2; subst h2; simp [e]
    · rfl
  · rw [SMap.find_put off o _ _]
    split
    · simp
    · rfl

end Sys2Proof.Machine
end

