-- ==== Sys2Proof/Laws/Issue.lean ====
section
/-! SUPPORT. Sys2Proof/Laws/Issue.lean: what issuing an instruction does: the fetch changes the leaf store and the core's counters, and
then the instruction's own meaning runs. -/
namespace Sys2Proof.Machine
open Sys2Proof

theorem maps_run (u : Upd) (s : State) (h : Maps s) : Maps (u.run s) := run_keeps act_maps u s h

/-- A thread after one is written. -/
theorem thr_setThr (g th h k : Nat) (t : Thread) (s : State) :
    thr ((setThr g th t).run s) h k = if thrKey g th = thrKey h k then t else thr s h k := by
  exact SMap.get_set {} (thrKey g th) (thrKey h k) t s.threads
theorem thr_setThr_self (g th : Nat) (t : Thread) (s : State) : thr ((setThr g th t).run s) g th = t := by
  simp [thr_setThr]

/-- The changes of a look at the state sensors. -/
def qMgt : Act → Bool
  | .mgt _ => true
  | _ => false
theorem only_mgtWatch : Only qMgt mgtWatch := by
  intro s a h
  simp only [mgtWatch] at h
  split at h
  · cases h
  · rw [List.mem_singleton] at h; subst h; rfl
/-- With power, a meaning runs, and nothing else changes but the endpoint's record: of anything that record leaves alone. -/
theorem done_at {β : Type} (u : Upd) (s : State) (h : s.pins.pwrgd = true) (f : State → β) (hf : ∀ (m : Mgt) (s : State), f ((Act.mgt m).apply s) = f s) :
    ∃ t, done u s = .next t ∧ f t = f (u.run s) := by
  refine ⟨_, done_run u s h, only_frame only_mgtWatch f ?_ _⟩
  intro a s ha
  cases a
  case mgt m => exact hf m s
  all_goals exact absurd ha Bool.false_ne_true

/-- The changes of a fetch: the leaf store and the counters of the core. -/
def qFetch (g : Nat) : Act → Bool
  | .leaf _ _ => true
  | .reg off _ => decide (coreB g + R.CORE_CNT_LEAF_HIT ≤ off ∧ off ≤ coreB g + R.CORE_CNT_NOALLOC)
  | _ => false
/-- Such a change is one of the two. -/
theorem qFetch_cases {g : Nat} {a : Act} (h : qFetch g a = true) : (∃ k l, a = .leaf k l) ∨
    ∃ off v, a = .reg off v ∧ coreB g + R.CORE_CNT_LEAF_HIT ≤ off ∧ off ≤ coreB g + R.CORE_CNT_NOALLOC := by
  cases a
  case leaf k l => exact .inl ⟨k, l, rfl⟩
  case reg off v => exact .inr ⟨off, v, rfl, of_decide_eq_true h⟩
  all_goals exact absurd h Bool.false_ne_true
theorem only_bump {q : Act → Bool} {off n : Nat} (h : ∀ v, q (.reg off v) = true) : Only q (bump off n) := by
  intro s a ha
  simp only [bump, List.mem_singleton] at ha
  subst ha
  exact h _
theorem only_fetchLine (g pc : Nat) : Only (qFetch g) (fetchLine g pc) := by
  have cnt : ∀ o v, R.CORE_CNT_LEAF_HIT ≤ o → o ≤ R.CORE_CNT_NOALLOC → qFetch g (.reg (coreB g + o) v) = true := by
    intro o v h1 h2
    simp only [qFetch, decide_eq_true_eq]
    omega
  refine only_read fun s => only_when ?_
  split
  · refine only_read fun s => ?_
    dsimp only
    split
    · refine only_seqs ?_
      intro u hu
      simp only [List.mem_cons, List.not_mem_nil, or_false] at hu
      rcases hu with rfl | rfl | rfl
      · exact only_when (only_bump (fun v => cnt _ v (by decide) (by decide)))
      · exact only_when (only_bump (fun v => cnt _ v (by decide) (by decide)))
      · exact only_act rfl
    · refine only_seqs ?_
      intro u hu
      simp only [List.mem_cons, List.not_mem_nil, or_false] at hu
      rcases hu with rfl | rfl | rfl
      · exact only_when (only_bump (fun v => cnt _ v (by decide) (by decide)))
      · exact only_when (only_bump (fun v => cnt _ v (by decide) (by decide)))
      · exact only_when (only_act rfl)
  · refine only_when (only_read fun s => ?_)
    dsimp only
    split
    · exact only_act rfl
    · split
      · exact only_act rfl
      · exact only_bump (fun v => cnt _ v (by decide) (by decide))

/-- What a fetch leaves of anything that the leaf store and the core's counters leave alone. -/
theorem fetchLine_frame (g pc : Nat) (s : State) {β : Type} (f : State → β)
    (hf : ∀ (a : Act) (s : State), qFetch g a = true → f (a.apply s) = f s) : f ((fetchLine g pc).run s) = f s :=
  only_frame (only_fetchLine g pc) f hf s

theorem fetchLine_threads (g pc : Nat) (s : State) : ((fetchLine g pc).run s).threads = s.threads :=
  fetchLine_frame g pc s State.threads (fun a _ ha => by
    rcases qFetch_cases ha with ⟨k, l, rfl⟩ | ⟨off, v, rfl, -⟩ <;> rfl)

/-- A ready thread runs the instruction's meaning, in the state the fetch leaves. -/
theorem issue_run {s : State} {g th w : Nat} {sh : Shape} (h : Ready s g th w sh) (body : Thread → Upd) :
    (issue g th w sh body).run s = (body (thr s g th)).run ((fetchLine g (thr s g th).pc).run s) := by
  have hc := h.cond
  have e : thr ((fetchLine g (thr s g th).pc).run s) g th = thr s g th := by
    unfold thr
    rw [fetchLine_threads]
  simp only [issue, run_read, h.may, run_when_true, h.fetch, run_seqs_cons, run_seqs_nil, issueBody, e, h.form, h.regs]
  rcases hc with h0 | ⟨h1, h2, h3⟩
  · simp [h0]
  · simp only [h1, h2]
    rcases h3 with ⟨h4, h5⟩ | ⟨h4, h5⟩ <;> simp [h4, h5]

/-- An instruction whose meaning writes its thread and nothing else. -/
theorem becomes_issue {s : State} {g th w : Nat} {sh : Shape} (h : Ready s g th w sh) (body : Thread → Upd) (x : Thread)
    (hb : body (thr s g th) = setThr g th x) :
    ∃ u, done (issue g th w sh body) s = .next u ∧ Becomes s u g th x := by
  have e := issue_run h body
  rw [hb] at e
  refine ⟨_, done_run _ s h.power, ?_⟩
  obtain ⟨m, hm⟩ := mgtWatch_run ((issue g th w sh body).run s)
  rw [hm, e]
  have hm2 : Maps ((fetchLine g (thr s g th).pc).run s) := maps_run _ _ h.maps
  refine ⟨thr_setThr_self g th x _, ?_, ?_, ?_⟩
  · intro a b hab
    show thr ((setThr g th x).run _) a b = _
    rw [thr_setThr, if_neg (fun h => hab h.symm)]
    unfold thr
    rw [fetchLine_threads]
  · intro off ho
    show rd ((fetchLine g (thr s g th).pc).run s) off = rd s off
    refine only_frame_maps (only_fetchLine g _) h.maps (fun s => rd s off) ?_
    intro a s hs ha
    rcases qFetch_cases ha with ⟨k, l, rfl⟩ | ⟨o, v, rfl, h1, h2⟩
    · rfl
    · show rd _ _ = rd _ _
      rw [rd_reg _ _ _ _ hs, if_neg (by omega)]
  · show exceptThreads ((fetchLine g (thr s g th).pc).run s) = exceptThreads s
    refine fetchLine_frame g _ s exceptThreads ?_
    intro a s ha
    rcases qFetch_cases ha with ⟨k, l, rfl⟩ | ⟨off, v, rfl, -⟩ <;> rfl

end Sys2Proof.Machine
end

