-- ==== Sys2Proof/Laws/Within.lean ====
section
/-! SUPPORT. Sys2Proof/Laws/Within.lean: frames of meanings that raise events. An event may find the hold store full, and then raises a
fault that can reset anything; so a meaning is looked at in states whose hold store has room for the records it can make. -/
namespace Sys2Proof.Machine
open Sys2Proof

/-- The hold store has room for `n` records. -/
def Room (n : Nat) (s : State) : Prop := s.evq.hold.length + n ≤ 4096

/-- Where the hold store has room for `n` records, every atomic change that the meaning makes meets `q`, and it holds at most `n`. -/
def Within (n : Nat) (q : Act → Bool) (u : Upd) : Prop :=
  ∀ s, Room n s → (∀ a ∈ u s, q a = true) ∧ (u.run s).evq.hold.length ≤ s.evq.hold.length + n

/-- The changes that hold a record. -/
def Act.holds : Act → Bool
  | .evHold _ _ => true
  | _ => false

theorem hold_le (a : Act) (s : State) : (a.apply s).evq.hold.length ≤ s.evq.hold.length + (if a.holds then 1 else 0) := by
  cases a
  case busy pg b => cases b <;> exact Nat.le_refl _
  case deadWin k w => cases w <;> exact Nat.le_refl _
  case jPush e => unfold Act.apply; dsimp only; split <;> exact Nat.le_refl _
  case jOpen w => unfold Act.apply; dsimp only; split <;> exact Nat.le_refl _
  case jWins ws => unfold Act.apply; dsimp only; split <;> exact Nat.le_refl _
  case evHold r e =>
    unfold Act.apply; dsimp only; split
    · simp [Act.holds]
    · exact Nat.le_add_right _ _
  case evUnhold r => exact unhold_length r _
  case evClear => exact Nat.zero_le _
  all_goals exact Nat.le_refl _

theorem within_mono {n m : Nat} {q : Act → Bool} {u : Upd} (h : Within n q u) (hm : n ≤ m) : Within m q u := by
  intro s hs
  have := h s (by unfold Room at *; omega)
  exact ⟨this.1, by omega⟩
theorem within_skip (q : Act → Bool) : Within 0 q skip := fun s _ => ⟨fun a h => (by cases h), Nat.le_refl _⟩
theorem within_acts {q : Act → Bool} {u : Upd} (h : ∀ s, ∀ a ∈ u s, q a = true ∧ a.holds = false) : Within 0 q u := by
  intro s _
  refine ⟨fun a ha => (h s a ha).1, ?_⟩
  have k : ∀ (l : List Act) (t : State), (∀ a ∈ l, a.holds = false) → (applyAll l t).evq.hold.length ≤ t.evq.hold.length := by
    intro l
    induction l with
    | nil => intro t _; exact Nat.le_refl _
    | cons a l ih =>
      intro t hl
      have h1 := ih (a.apply t) (fun b hb => hl b (by simp [hb]))
      have h2 := hold_le a t
      rw [hl a (by simp)] at h2
      exact Nat.le_trans h1 h2
  exact k _ _ (fun a ha => (h s a ha).2)
theorem within_act {q : Act → Bool} {a : Act} (h : q a = true) (hh : a.holds = false) : Within 0 q (act a) :=
  within_acts fun s b hb => by simp only [act, List.mem_singleton] at hb; subst hb; exact ⟨h, hh⟩
theorem within_hold {q : Act → Bool} {r : Nat} {e : EvRec} (h : q (.evHold r e) = true) : Within 1 q (act (.evHold r e)) := by
  intro s _
  refine ⟨fun b hb => ?_, hold_le _ s⟩
  simp only [act, List.mem_singleton] at hb; subst hb; exact h
theorem within_andThen {n m : Nat} {q : Act → Bool} {u v : Upd} (hu : Within n q u) (hv : Within m q v) : Within (n + m) q (andThen u v) := by
  intro s hs
  have h1 := hu s (by unfold Room at *; omega)
  have h2 := hv (u.run s) (by unfold Room at *; omega)
  refine ⟨fun a h => ?_, ?_⟩
  · rcases List.mem_append.mp h with h | h
    · exact h1.1 a h
    · exact h2.1 a h
  · rw [run_andThen]
    omega
theorem within_nil (q : Act → Bool) : Within 0 q (seqs []) := within_skip q
theorem within_cons {n m : Nat} {q : Act → Bool} {u : Upd} {us : List Upd} (hu : Within n q u) (hv : Within m q (seqs us)) :
    Within (n + m) q (seqs (u :: us)) := by
  cases us with
  | nil => exact within_mono hu (Nat.le_add_right _ _)
  | cons v l => exact within_andThen hu hv
theorem within_when {n : Nat} {q : Act → Bool} {c : Bool} {u : Upd} (h : Within n q u) : Within n q (when c u) := by
  cases c
  · exact within_mono (within_skip q) (Nat.zero_le _)
  · exact h
theorem within_ite {n m : Nat} {q : Act → Bool} {c : Prop} [Decidable c] {u v : Upd} (hu : Within n q u) (hv : Within m q v) :
    Within (n + m) q (if c then u else v) := by
  split
  · exact within_mono hu (Nat.le_add_right _ _)
  · exact within_mono hv (Nat.le_add_left _ _)
theorem within_either {n m : Nat} {q : Act → Bool} {c : Bool} {u v : Upd} (hu : Within n q u) (hv : Within m q v) : Within (n + m) q (either c u v) :=
  within_ite hu hv
theorem within_read {n : Nat} {q : Act → Bool} {f : State → Upd} (h : ∀ s, Within n q (f s)) : Within n q (read f) := fun s hs => h s s hs
/-- A look at a state whose hold store has the room. -/
theorem within_read_room {n : Nat} {q : Act → Bool} {f : State → Upd} (h : ∀ s, Room n s → Within n q (f s)) : Within n q (read f) :=
  fun s hs => h s hs s hs
theorem within_each {n : Nat} {q : Act → Bool} {l : List α} {f : α → Upd} (h : ∀ a ∈ l, Within n q (f a)) : Within (l.length * n) q (each l f) := by
  unfold each
  induction l with
  | nil => exact within_mono (within_skip q) (Nat.zero_le _)
  | cons a l ih =>
    have := within_cons (h a (by simp)) (ih (fun b hb => h b (by simp [hb])))
    rw [List.map_cons]
    refine within_mono this ?_
    rw [List.length_cons, Nat.succ_mul]
    omega
theorem within_each0 {q : Act → Bool} {l : List α} {f : α → Upd} (h : ∀ a ∈ l, Within 0 q (f a)) : Within 0 q (each l f) :=
  within_mono (within_each h) (by simp)
theorem within_onSome {n : Nat} {q : Act → Bool} {x : Option α} {f : α → Upd} (h : ∀ a, x = some a → Within n q (f a)) : Within n q (onSome x f) := by
  cases x
  · exact within_mono (within_skip q) (Nat.zero_le _)
  · exact h _ rfl

/-- What no change that meets `q` touches, the meaning leaves alone. -/
theorem within_frame {n : Nat} {q : Act → Bool} {u : Upd} (h : Within n q u) {s : State} (hs : Room n s) {β : Type} (f : State → β)
    (hf : ∀ (a : Act) (s : State), q a = true → f (a.apply s) = f s) : f (u.run s) = f s := by
  have k : ∀ (l : List Act) (t : State), (∀ a ∈ l, q a = true) → f (applyAll l t) = f t := by
    intro l
    induction l with
    | nil => intro t _; rfl
    | cons a l ih =>
      intro t hl
      rw [applyAll_cons, ih _ (fun b hb => hl b (by simp [hb])), hf a t (hl a (by simp))]
  exact k (u s) s (h s hs).1
theorem within_frame_maps {n : Nat} {q : Act → Bool} {u : Upd} (h : Within n q u) {s : State} (hs : Room n s) (hm : Maps s) {β : Type} (f : State → β)
    (hf : ∀ (a : Act) (s : State), Maps s → q a = true → f (a.apply s) = f s) : f (u.run s) = f s := by
  have k : ∀ (l : List Act) (t : State), Maps t → (∀ a ∈ l, q a = true) → f (applyAll l t) = f t := by
    intro l
    induction l with
    | nil => intro t _ _; rfl
    | cons a l ih =>
      intro t ht hl
      rw [applyAll_cons, ih _ (act_maps a t ht) (fun b hb => hl b (by simp [hb])), hf a t ht (hl a (by simp))]
  exact k (u s) s hm (h s hs).1
theorem within_room {n m : Nat} {q : Act → Bool} {u : Upd} (h : Within n q u) {s : State} (hs : Room (n + m) s) : Room m (u.run s) := by
  have := (h s (by unfold Room at *; omega)).2
  unfold Room at *
  omega

/-- The changes that raising an event of page `r` makes: PG_EVT and PG_EVT_CNT of the page, the registers of EVQ, the event queues,
terms of ledger 0x20, host memory and what leaves the block. -/
def evAct (r : Page.Ref) : Act → Bool
  | .reg off _ => off = Page.base r + R.PG_EVT || off = Page.base r + R.PG_EVT_CNT || (decide (evqB + 0x100 ≤ off) && decide (off < evqB + 0x1000))
  | .evHold _ _ | .evGap _ | .evCount _ _ | .evPba _ | .led _ _ | .host _ _ | .out _ => true
  | _ => false

theorem fld_lt (s : State) (o hi lo : Nat) : fld s o hi lo < 2 ^ (hi + 1 - lo) := Nat.mod_lt _ (Nat.two_pow_pos _)

theorem only_hostPlace {q : Act → Bool} (h : ∀ a b, q (.host a b) = true) (a : Nat) (bs : List Byte) :
    ∀ s, ∀ x ∈ hostPlace a bs s, q x = true ∧ x.holds = false := by
  induction bs generalizing a with
  | nil => intro s x hx; cases hx
  | cons b bs ih =>
    intro s x hx
    rcases List.mem_cons.mp hx with rfl | hx
    · exact ⟨h a b, rfl⟩
    · exact ih (a + 1) s x hx
theorem within_hostWrite {q : Act → Bool} (h : ∀ a b, q (.host a b) = true) (ho : ∀ o, q (.out o) = true) (a : Nat) (bs : List Byte) :
    Within 0 q (hostWrite a bs) :=
  within_cons (within_acts (only_hostPlace h a bs)) (within_cons (within_act (ho _) rfl) (within_nil q))
theorem within_setReg {q : Act → Bool} {off v : Nat} (h : ∀ w, q (.reg off w) = true) : Within 0 q (setReg off v) := within_act (h _) rfl
theorem within_setFld {q : Act → Bool} {off hi lo v : Nat} (h : ∀ w, q (.reg off w) = true) : Within 0 q (setFld off hi lo v) :=
  within_acts fun s a ha => by simp only [setFld, List.mem_singleton] at ha; subst ha; exact ⟨h _, rfl⟩
theorem within_bump {q : Act → Bool} {off n : Nat} (h : ∀ w, q (.reg off w) = true) : Within 0 q (bump off n) :=
  within_acts fun s a ha => by simp only [bump, List.mem_singleton] at ha; subst ha; exact ⟨h _, rfl⟩
theorem within_bumpFld {q : Act → Bool} {off hi lo n : Nat} (h : ∀ w, q (.reg off w) = true) : Within 0 q (bumpFld off hi lo n) :=
  within_acts fun s a ha => by simp only [bumpFld, List.mem_singleton] at ha; subst ha; exact ⟨h _, rfl⟩
theorem within_ledAdd {q : Act → Bool} (h : ∀ k n, q (.led k n) = true) {id site idx t n : Nat} : Within 0 q (ledAdd id site idx t n) :=
  within_acts fun s a ha => by simp only [ledAdd, List.mem_singleton] at ha; subst ha; exact ⟨h _ _, rfl⟩

theorem evq_within {r : Page.Ref} {q : Act → Bool} (hq : ∀ a, evAct r a = true → q a = true) {o : Nat} (h1 : 0x100 ≤ o) (h2 : o < 0x1000) (w : Word) :
    q (.reg (evqB + o) w) = true := by
  apply hq
  have h3 : evqB + 0x100 ≤ evqB + o := by omega
  have h4 : evqB + o < evqB + 0x1000 := by omega
  simp [evAct, h3, h4]

theorem within_msixSend {r : Page.Ref} {q : Act → Bool} (hq : ∀ a, evAct r a = true → q a = true) (v : Nat) : Within 0 q (msixSend v) := by
  refine within_read fun s => ?_
  split
  · exact within_when (within_act (hq _ rfl) rfl)
  · exact within_cons (within_act (hq _ rfl) rfl) (within_cons (within_act (hq _ rfl) rfl) (within_nil q))
theorem within_msixCheck {r : Page.Ref} {q : Act → Bool} (hq : ∀ a, evAct r a = true → q a = true) (n : Nat) : Within 0 q (msixCheck n) :=
  within_read fun _ => within_when (within_cons (within_act (hq _ rfl) rfl) (within_cons (within_msixSend hq n) (within_nil q)))
theorem within_ringWrite {r : Page.Ref} {q : Act → Bool} (hq : ∀ a, evAct r a = true → q a = true) {n : Nat} (hn : n < 64) (e : EvRec) :
    Within 0 q (ringWrite n e) :=
  within_read fun _ => within_cons (within_hostWrite (fun _ _ => hq _ rfl) (fun _ => hq _ rfl) _ _)
    (within_cons (within_setReg fun w => evq_within hq (by show 0x100 ≤ 0x40c + 0x20 * n; omega) (by show 0x40c + 0x20 * n < 0x1000; omega) w)
    (within_cons (within_hostWrite (fun _ _ => hq _ rfl) (fun _ => hq _ rfl) _ _)
    (within_cons (within_ledAdd (fun _ _ => hq _ rfl))
    (within_cons (within_act (hq _ rfl) rfl) (within_cons (within_msixCheck hq n) (within_nil q))))))

/-- Producing a record, where the hold store has room. -/
theorem within_emit {r : Page.Ref} {q : Act → Bool} (hq : ∀ a, evAct r a = true → q a = true) {n : Nat} (hn : n < 64)
    {drop : Upd} {typ pg org pl flags : Nat} : Within 1 q (emit drop n typ pg org pl flags) := by
  refine within_read_room fun s hs => ?_
  have hroom : s.evq.hold.length < 4096 := by unfold Room at hs; omega
  dsimp only
  rw [if_pos hroom]
  refine within_mono (within_cons (within_setReg fun w => evq_within hq (by show 0x100 ≤ 0xd00 + 0x4 * n; omega) (by show 0xd00 + 0x4 * n < 0x1000; omega) w)
    (within_cons (within_ledAdd (fun _ _ => hq _ rfl))
    (within_cons (n := 1) ?_ (within_nil q)))) (Nat.le_refl _)
  split
  · exact within_mono (within_cons (within_act (hq _ rfl) rfl) (within_cons (within_ringWrite hq hn _) (within_nil q))) (by omega)
  · refine within_mono (within_cons (within_act (hq _ rfl) rfl) (within_cons (within_hold (hq _ rfl)) (within_cons (n := 0) ?_ (within_nil q)))) (Nat.le_refl _)
    exact within_read fun _ => within_when (within_setReg fun w => evq_within hq (by decide) (by decide) w)

/-- Raising an event, where the hold store has room. -/
theorem within_evtW {r : Page.Ref} {q : Act → Bool} (hq : ∀ a, evAct r a = true → q a = true) {drop : Upd} {b typ org pl : Nat} :
    Within 1 q (evtW drop r b typ org pl) := by
  refine within_read fun s => ?_
  have h1 : ∀ w, q (.reg (Page.base r + R.PG_EVT) w) = true := fun w => hq _ (by simp [evAct])
  have h2 : ∀ w, q (.reg (Page.base r + R.PG_EVT_CNT) w) = true := fun w => hq _ (by simp [evAct])
  dsimp only
  split
  · exact within_mono (within_skip q) (Nat.zero_le _)
  · split
    · exact within_mono (within_bump h2) (Nat.zero_le _)
    · exact within_mono (within_cons (within_setFld h1) (within_cons (within_when (within_emit hq (fld_lt s _ 5 0))) (within_nil q))) (Nat.le_refl _)
theorem within_evt {r : Page.Ref} {q : Act → Bool} (hq : ∀ a, evAct r a = true → q a = true) {b typ org pl : Nat} :
    Within 1 q (evt r b typ org pl) := within_evtW hq

end Sys2Proof.Machine
end

