-- ==== Sys2Proof/WellFormed.lean ====
section
/-! DEFINITION. Sys2Proof/WellFormed.lean: which commands are well formed: origins, addresses, register values, core, site,
thread and other numbers lie in the ranges the hardware has (R17, R44, R48, R68, R79, R80). -/
namespace Sys2Proof

/-- An origin of R67 and R68: a class that writes registers, a 12-bit instance, a sap channel. -/
def Origin.ok (o : Origin) : Bool := decide (o.cls < 6) && decide (o.inst < 4096) && decide (o.chan < 8)

/-- The operands lie in the ranges the hardware has. -/
def wellFormed (i : Instr) : Bool :=
  match i with
  | .registerWrite o off size val => o.ok && decide (off < 0x10000000) && decide (size ≤ 8) && decide (val < 2 ^ 32)
  | .misalignedRead o off size => o.ok && decide (off < 0x10000000) && decide (size ≤ 8)
  | .pairLoRead o off => o.ok && decide (off < 0x10000000)
  | .pairLoWrite o off val => o.ok && decide (off < 0x10000000) && decide (val < 2 ^ 32)
  | .pairHiWrite o off val => o.ok && decide (off < 0x10000000) && decide (val < 2 ^ 32)
  | .pairStageExpiry o off => o.ok && decide (off < 0x10000000)
  | .rcFieldRead o off => o.ok && decide (off < 0x10000000)
  | .reset o page arg => o.ok && decide (page < 0x10000) && decide (arg < 2 ^ 24)
  | .start o page arg => o.ok && decide (page < 0x10000) && decide (arg < 2 ^ 24)
  | .drain o page arg => o.ok && decide (page < 0x10000) && decide (arg < 2 ^ 24)
  | .halt o page arg => o.ok && decide (page < 0x10000) && decide (arg < 2 ^ 24)
  | .resume o page arg => o.ok && decide (page < 0x10000) && decide (arg < 2 ^ 24)
  | .clearFault o page arg => o.ok && decide (page < 0x10000) && decide (arg < 2 ^ 24)
  | .commandCompletion page _ => decide (page < 0x10000)
  | .coalesceWindowExpiry o off => o.ok && decide (off < 0x10000000)
  | .jnlRingBurst _ _ => true
  | .jnlConsPoll _ => true
  | .jnlHeldWriteApply => true
  | .jnlHoldLimitExpiry => true
  | .jnlRefusalEnd => true
  | .flushWindows o arg => o.ok && decide (arg < 2 ^ 24)
  | .jnlClearCounts o arg => o.ok && decide (arg < 2 ^ 24)
  | .chipReset o arg => o.ok && decide (arg < 2 ^ 24)
  | .trkFwStopped => true
  | .nop core th w => decide (core < 4096) && decide (th < 64) && decide (w < 2 ^ 64)
  | .endI core th w => decide (core < 4096) && decide (th < 64) && decide (w < 2 ^ 64)
  | .br core th w => decide (core < 4096) && decide (th < 64) && decide (w < 2 ^ 64)
  | .jr core th w => decide (core < 4096) && decide (th < 64) && decide (w < 2 ^ 64)
  | .call core th w => decide (core < 4096) && decide (th < 64) && decide (w < 2 ^ 64)
  | .loop core th w => decide (core < 4096) && decide (th < 64) && decide (w < 2 ^ 64)
  | .waittok core th w => decide (core < 4096) && decide (th < 64) && decide (w < 2 ^ 64)
  | .sigtok core th w => decide (core < 4096) && decide (th < 64) && decide (w < 2 ^ 64)
  | .barrier core th w => decide (core < 4096) && decide (th < 64) && decide (w < 2 ^ 64)
  | .fence core th w => decide (core < 4096) && decide (th < 64) && decide (w < 2 ^ 64)
  | .drainInstruction core th w => decide (core < 4096) && decide (th < 64) && decide (w < 2 ^ 64)
  | .yield core th w => decide (core < 4096) && decide (th < 64) && decide (w < 2 ^ 64)
  | .trap core th w => decide (core < 4096) && decide (th < 64) && decide (w < 2 ^ 64)
  | .rdsys core th w => decide (core < 4096) && decide (th < 64) && decide (w < 2 ^ 64)
  | .waiteng core th w => decide (core < 4096) && decide (th < 64) && decide (w < 2 ^ 64)
  | .ld core th w => decide (core < 4096) && decide (th < 64) && decide (w < 2 ^ 64)
  | .st core th w => decide (core < 4096) && decide (th < 64) && decide (w < 2 ^ 64)
  | .pref core th w => decide (core < 4096) && decide (th < 64) && decide (w < 2 ^ 64)
  | .copy core th w => decide (core < 4096) && decide (th < 64) && decide (w < 2 ^ 64)
  | .fill core th w => decide (core < 4096) && decide (th < 64) && decide (w < 2 ^ 64)
  | .unpin core th w => decide (core < 4096) && decide (th < 64) && decide (w < 2 ^ 64)
  | .cinv core th w => decide (core < 4096) && decide (th < 64) && decide (w < 2 ^ 64)
  | .aadd core th w => decide (core < 4096) && decide (th < 64) && decide (w < 2 ^ 64)
  | .acas core th w => decide (core < 4096) && decide (th < 64) && decide (w < 2 ^ 64)
  | .movi core th w => decide (core < 4096) && decide (th < 64) && decide (w < 2 ^ 64)
  | .movhi core th w => decide (core < 4096) && decide (th < 64) && decide (w < 2 ^ 64)
  | .add core th w => decide (core < 4096) && decide (th < 64) && decide (w < 2 ^ 64)
  | .sub core th w => decide (core < 4096) && decide (th < 64) && decide (w < 2 ^ 64)
  | .mul core th w => decide (core < 4096) && decide (th < 64) && decide (w < 2 ^ 64)
  | .andI core th w => decide (core < 4096) && decide (th < 64) && decide (w < 2 ^ 64)
  | .orI core th w => decide (core < 4096) && decide (th < 64) && decide (w < 2 ^ 64)
  | .xorI core th w => decide (core < 4096) && decide (th < 64) && decide (w < 2 ^ 64)
  | .shl core th w => decide (core < 4096) && decide (th < 64) && decide (w < 2 ^ 64)
  | .shr core th w => decide (core < 4096) && decide (th < 64) && decide (w < 2 ^ 64)
  | .sar core th w => decide (core < 4096) && decide (th < 64) && decide (w < 2 ^ 64)
  | .slt core th w => decide (core < 4096) && decide (th < 64) && decide (w < 2 ^ 64)
  | .sltu core th w => decide (core < 4096) && decide (th < 64) && decide (w < 2 ^ 64)
  | .seq core th w => decide (core < 4096) && decide (th < 64) && decide (w < 2 ^ 64)
  | .minu core th w => decide (core < 4096) && decide (th < 64) && decide (w < 2 ^ 64)
  | .illegalInstruction core th w => decide (core < 4096) && decide (th < 64) && decide (w < 2 ^ 64)
  | .memoryOpCompletion core th slot => decide (core < 4096) && decide (th < 64) && decide (slot < 4)
  | .leafFillArrival core line => decide (core < 4096) && decide (line < 2 ^ 33)
  | .coreMemTimeoutExpiry core who _ => decide (core < 4096) && decide (who < 66)
  | .readRetry core th slot => decide (core < 4096) && decide (th < 64) && decide (slot < 4)
  | .tokenSignalArrival core who _ => decide (core < 4096) && decide (who < 66)
  | .runaheadPrefetch core th w => decide (core < 4096) && decide (th < 64) && decide (w < 2 ^ 64)
  | .killThread o core arg => o.ok && decide (core < 4096) && decide (arg < 2 ^ 24)
  | .leafFlush o core arg => o.ok && decide (core < 4096) && decide (arg < 2 ^ 24)
  | .coreClearCounts o core arg => o.ok && decide (core < 4096) && decide (arg < 2 ^ 24)
  | .coreLeafSplitWrite o core val => o.ok && decide (core < 4096) && decide (val < 2 ^ 32)
  | .coreRunaheadWrite o core val => o.ok && decide (core < 4096) && decide (val < 2 ^ 32)
  | .ringProdWrite o core ring val => o.ok && decide (core < 4096) && decide (ring < 64) && decide (val < 2 ^ 32)
  | .coreTokWrite o core tk val => o.ok && decide (core < 4096) && decide (tk < 64) && decide (val < 2 ^ 32)
  | .wld core th w => decide (core < 4096) && decide (th < 64) && decide (w < 2 ^ 64)
  | .pass core th w => decide (core < 4096) && decide (th < 64) && decide (w < 2 ^ 64)
  | .accz core th w => decide (core < 4096) && decide (th < 64) && decide (w < 2 ^ 64)
  | .accld core th w => decide (core < 4096) && decide (th < 64) && decide (w < 2 ^ 64)
  | .accst core th w => decide (core < 4096) && decide (th < 64) && decide (w < 2 ^ 64)
  | .arrInstructionStart core half pos => decide (core < 4096) && decide (half < 2) && decide (pos < 2 ^ 32)
  | .wldComplete core => decide (core < 4096)
  | .passComplete core half => decide (core < 4096) && decide (half < 2)
  | .mxuFeedTimeoutExpiry core half => decide (core < 4096) && decide (half < 2)
  | .arrHalfReset o core arg => o.ok && decide (core < 4096) && decide (arg < 2 ^ 24)
  | .arrClearCounts o core arg => o.ok && decide (core < 4096) && decide (arg < 2 ^ 24)
  | .mvset core th w => decide (core < 4096) && decide (th < 64) && decide (w < 2 ^ 64)
  | .mvrun core th w => decide (core < 4096) && decide (th < 64) && decide (w < 2 ^ 64)
  | .mvst core th w => decide (core < 4096) && decide (th < 64) && decide (w < 2 ^ 64)
  | .mvz core th w => decide (core < 4096) && decide (th < 64) && decide (w < 2 ^ 64)
  | .mvmeta core th w => decide (core < 4096) && decide (th < 64) && decide (w < 2 ^ 64)
  | .mvLineArrival core line _ => decide (core < 4096) && decide (line < 2 ^ 33)
  | .mvrunComplete core => decide (core < 4096)
  | .mvLineTimeout core => decide (core < 4096)
  | .mvReset o core arg => o.ok && decide (core < 4096) && decide (arg < 2 ^ 24)
  | .mvClearCounts o core arg => o.ok && decide (core < 4096) && decide (arg < 2 ^ 24)
  | .dopen core th w => decide (core < 4096) && decide (th < 64) && decide (w < 2 ^ 64)
  | .dlogit core th w => decide (core < 4096) && decide (th < 64) && decide (w < 2 ^ 64)
  | .dret core th w => decide (core < 4096) && decide (th < 64) && decide (w < 2 ^ 64)
  | .dskip core th w => decide (core < 4096) && decide (th < 64) && decide (w < 2 ^ 64)
  | .bmscan core th w => decide (core < 4096) && decide (th < 64) && decide (w < 2 ^ 64)
  | .placement site handle => decide (site < 64) && decide (handle < 16)
  | .expertBatchSend site handle => decide (site < 64) && decide (handle < 16)
  | .dretArrival core pos => decide (core < 4096) && decide (pos < 2 ^ 32)
  | .tokenCombine site handle tok => decide (site < 64) && decide (handle < 16) && decide (tok < 1024)
  | .roundComplete site handle => decide (site < 64) && decide (handle < 16)
  | .roundAbort o site arg => o.ok && decide (site < 64) && decide (arg < 2 ^ 24)
  | .dspRetry site => decide (site < 64)
  | .dspTimeoutExpiry core handle _ => decide (core < 4096) && decide (handle < 16)
  | .prefetchRequest site pos => decide (site < 64) && decide (pos < 2 ^ 32)
  | .unpinRequest site pos => decide (site < 64) && decide (pos < 2 ^ 32)
  | .pinReleaseAll o site arg => o.ok && decide (site < 64) && decide (arg < 2 ^ 24)
  | .dspClearCounts o site arg => o.ok && decide (site < 64) && decide (arg < 2 ^ 24)
  | .sliceRequest o core so _ _ _ _ _ _ => o.ok && decide (core < 4096) && decide (so < 2 ^ 29)
  | .deadDpaAccess o dpa _ => o.ok && decide (dpa < 2 ^ 41)
  | .slcDeadDpaWindow site => decide (site < 64)
  | .schedulerWindow core => decide (core < 4096)
  | .requestAged core chan => decide (core < 4096) && decide (chan < 8)
  | .rowCloseTimeout core chan bank => decide (core < 4096) && decide (chan < 8) && decide (bank < 16)
  | .throttleBandRelease core => decide (core < 4096)
  | .refreshDue core chan _ => decide (core < 4096) && decide (chan < 8)
  | .refreshBandRelease core chan => decide (core < 4096) && decide (chan < 8)
  | .laneGroupRetrain core chan wire eye => decide (core < 4096) && decide (chan < 8) && decide (wire < 76) && decide (eye < 256)
  | .retrainPeriodExpiry core chan => decide (core < 4096) && decide (chan < 8)
  | .fullChannelRetrain core chan _ => decide (core < 4096) && decide (chan < 8)
  | .holdTimeout core chan => decide (core < 4096) && decide (chan < 8)
  | .pollardValidation site _ _ => decide (site < 64)
  | .slcSidebandLost core chan => decide (core < 4096) && decide (chan < 8)
  | .retrain o core arg => o.ok && decide (core < 4096) && decide (arg < 2 ^ 24)
  | .slcClearCounts o core arg => o.ok && decide (core < 4096) && decide (arg < 2 ^ 24)
  | .scall core th w => decide (core < 4096) && decide (th < 64) && decide (w < 2 ^ 64)
  | .sload core th w => decide (core < 4096) && decide (th < 64) && decide (w < 2 ^ 64)
  | .sabort core th w => decide (core < 4096) && decide (th < 64) && decide (w < 2 ^ 64)
  | .sapCallStart core => decide (core < 4096)
  | .sapCallCompletion core => decide (core < 4096)
  | .sapNop core unit => decide (core < 4096) && decide (unit < 8)
  | .sapEnd core unit => decide (core < 4096) && decide (unit < 8)
  | .sapBr core unit => decide (core < 4096) && decide (unit < 8)
  | .sapLoop core unit => decide (core < 4096) && decide (unit < 8)
  | .bnz core unit => decide (core < 4096) && decide (unit < 8)
  | .bz core unit => decide (core < 4096) && decide (unit < 8)
  | .addi core unit => decide (core < 4096) && decide (unit < 8)
  | .sapAdd core unit => decide (core < 4096) && decide (unit < 8)
  | .sapSub core unit => decide (core < 4096) && decide (unit < 8)
  | .sapMul core unit => decide (core < 4096) && decide (unit < 8)
  | .shli core unit => decide (core < 4096) && decide (unit < 8)
  | .shri core unit => decide (core < 4096) && decide (unit < 8)
  | .andi core unit => decide (core < 4096) && decide (unit < 8)
  | .ori core unit => decide (core < 4096) && decide (unit < 8)
  | .lui core unit => decide (core < 4096) && decide (unit < 8)
  | .arg core unit => decide (core < 4096) && decide (unit < 8)
  | .sys core unit => decide (core < 4096) && decide (unit < 8)
  | .offs core unit => decide (core < 4096) && decide (unit < 8)
  | .fop core unit => decide (core < 4096) && decide (unit < 8)
  | .ldv core unit _ _ => decide (core < 4096) && decide (unit < 8)
  | .stv core unit => decide (core < 4096) && decide (unit < 8)
  | .ldb core unit _ _ => decide (core < 4096) && decide (unit < 8)
  | .vadd core unit => decide (core < 4096) && decide (unit < 8)
  | .vsub core unit => decide (core < 4096) && decide (unit < 8)
  | .vmul core unit => decide (core < 4096) && decide (unit < 8)
  | .vfma core unit => decide (core < 4096) && decide (unit < 8)
  | .vmax core unit => decide (core < 4096) && decide (unit < 8)
  | .vmin core unit => decide (core < 4096) && decide (unit < 8)
  | .vmuls core unit => decide (core < 4096) && decide (unit < 8)
  | .vadds core unit => decide (core < 4096) && decide (unit < 8)
  | .vact core unit => decide (core < 4096) && decide (unit < 8)
  | .vcvt core unit => decide (core < 4096) && decide (unit < 8)
  | .vins core unit => decide (core < 4096) && decide (unit < 8)
  | .vext core unit => decide (core < 4096) && decide (unit < 8)
  | .pacc core unit => decide (core < 4096) && decide (unit < 8)
  | .rsend core unit => decide (core < 4096) && decide (unit < 8)
  | .rwait core unit => decide (core < 4096) && decide (unit < 8)
  | .sapIllegalInstruction core unit => decide (core < 4096) && decide (unit < 8)
  | .sapSuspend core unit => decide (core < 4096) && decide (unit < 8)
  | .sapAtomOverrun core unit _ => decide (core < 4096) && decide (unit < 8)
  | .reductionStepCombine core grp _ => decide (core < 4096) && decide (grp < 16)
  | .reductionResultArrival core unit => decide (core < 4096) && decide (unit < 8)
  | .reductionStepTimeout core grp => decide (core < 4096) && decide (grp < 16)
  | .sapCallTimeout core => decide (core < 4096)
  | .unitCall o core arg => o.ok && decide (core < 4096) && decide (arg < 2 ^ 24)
  | .unitAbort o core arg => o.ok && decide (core < 4096) && decide (arg < 2 ^ 24)
  | .sapClearCounts o core arg => o.ok && decide (core < 4096) && decide (arg < 2 ^ 24)
  | .suProgDataWrite o core unit val => o.ok && decide (core < 4096) && decide (unit < 8) && decide (val < 2 ^ 32)
  | .atq core th w => decide (core < 4096) && decide (th < 64) && decide (w < 2 ^ 64)
  | .atblk core th w => decide (core < 4096) && decide (th < 64) && decide (w < 2 ^ 64)
  | .atend core th w => decide (core < 4096) && decide (th < 64) && decide (w < 2 ^ 64)
  | .atmerge core th w => decide (core < 4096) && decide (th < 64) && decide (w < 2 ^ 64)
  | .attReadTimeout core => decide (core < 4096)
  | .kvappend core th w => decide (core < 4096) && decide (th < 64) && decide (w < 2 ^ 64)
  | .kvcommit core th w => decide (core < 4096) && decide (th < 64) && decide (w < 2 ^ 64)
  | .kvrollback core th w => decide (core < 4096) && decide (th < 64) && decide (w < 2 ^ 64)
  | .kvref core th w => decide (core < 4096) && decide (th < 64) && decide (w < 2 ^ 64)
  | .kvrelease core th w => decide (core < 4096) && decide (th < 64) && decide (w < 2 ^ 64)
  | .kvfork core th w => decide (core < 4096) && decide (th < 64) && decide (w < 2 ^ 64)
  | .pfxfind core th w => decide (core < 4096) && decide (th < 64) && decide (w < 2 ^ 64)
  | .pfxinsert core th w => decide (core < 4096) && decide (th < 64) && decide (w < 2 ^ 64)
  | .pfxrelease core th w => decide (core < 4096) && decide (th < 64) && decide (w < 2 ^ 64)
  | .pfxEvict site => decide (site < 64)
  | .kvmReadTimeout core => decide (core < 4096)
  | .pfxReadTimeout core => decide (core < 4096)
  | .attReset o core arg => o.ok && decide (core < 4096) && decide (arg < 2 ^ 24)
  | .attClearCounts o core arg => o.ok && decide (core < 4096) && decide (arg < 2 ^ 24)
  | .kvmBuild o site arg => o.ok && decide (site < 64) && decide (arg < 2 ^ 24)
  | .kvmClearCounts o site arg => o.ok && decide (site < 64) && decide (arg < 2 ^ 24)
  | .pfxBuild o site arg => o.ok && decide (site < 64) && decide (arg < 2 ^ 24)
  | .pfxFlush o site arg => o.ok && decide (site < 64) && decide (arg < 2 ^ 24)
  | .pfxClearCounts o site arg => o.ok && decide (site < 64) && decide (arg < 2 ^ 24)
  | .pfxKeyWrite o site _ val => o.ok && decide (site < 64) && decide (val < 2 ^ 32)
  | .ringFetchBurst core ring => decide (core < 4096) && decide (ring < 64)
  | .ringBurstArrival core ring _ => decide (core < 4096) && decide (ring < 64)
  | .stageDesc core ring => decide (core < 4096) && decide (ring < 64)
  | .chain core ring => decide (core < 4096) && decide (ring < 64)
  | .wpre core ring => decide (core < 4096) && decide (ring < 64)
  | .wpreCompletion core ring _ _ => decide (core < 4096) && decide (ring < 64)
  | .nopDescriptor core ring => decide (core < 4096) && decide (ring < 64)
  | .drainDescriptor core ring => decide (core < 4096) && decide (ring < 64)
  | .descriptorCompletion core ring _ => decide (core < 4096) && decide (ring < 64)
  | .layerBarrierComplete core => decide (core < 4096)
  | .packetRoute pos _ => decide (pos < 2 ^ 32)
  | .rdReq pos => decide (pos < 2 ^ 32)
  | .wrReq pos => decide (pos < 2 ^ 32)
  | .atomic pos => decide (pos < 2 ^ 32)
  | .sigtokPacket pos => decide (pos < 2 ^ 32)
  | .regReq pos => decide (pos < 2 ^ 32)
  | .rsp pos => decide (pos < 2 ^ 32)
  | .bulk pos => decide (pos < 2 ^ 32)
  | .mgmt pos => decide (pos < 2 ^ 32)
  | .creditReturn node link vc cls => decide (node < 72) && decide (link < 96) && decide (vc < 4) && decide (cls < 2)
  | .linkHeartbeatTimeout node link _ => decide (node < 72) && decide (link < 96)
  | .expressProbe site peer _ => decide (site < 64) && decide (peer < 64)
  | .reconStart node link => decide (node < 72) && decide (link < 96)
  | .reconOffer node link => decide (node < 72) && decide (link < 96)
  | .reconTimeout node link => decide (node < 72) && decide (link < 96)
  | .detourRewrite site => decide (site < 64)
  | .flitReceive port flit _ _ => decide (port < 8) && decide (flit < 2 ^ 2048)
  | .flitSendTimer port => decide (port < 8)
  | .flitGapTimeout port _ => decide (port < 8)
  | .boughReconOffer port => decide (port < 8)
  | .boughReconConfirm port => decide (port < 8)
  | .hello port => decide (port < 8)
  | .boughStartTimeout port => decide (port < 8)
  | .activationFrame port => decide (port < 8)
  | .regRd port => decide (port < 8)
  | .regWr port => decide (port < 8)
  | .regRsp port => decide (port < 8)
  | .frameCredit port => decide (port < 8)
  | .bghOptWarn port lane _ _ => decide (port < 8) && decide (lane < 8)
  | .send core th w => decide (core < 4096) && decide (th < 64) && decide (w < 2 ^ 64)
  | .sendRetry core => decide (core < 4096)
  | .bsend core th w => decide (core < 4096) && decide (th < 64) && decide (w < 2 ^ 64)
  | .bcred core th w => decide (core < 4096) && decide (th < 64) && decide (w < 2 ^ 64)
  | .linkRecon o site arg => o.ok && decide (site < 64) && decide (arg < 2 ^ 24)
  | .rtrClearCounts o site arg => o.ok && decide (site < 64) && decide (arg < 2 ^ 24)
  | .peerRecon o site arg => o.ok && decide (site < 64) && decide (arg < 2 ^ 24)
  | .xprClearCounts o site arg => o.ok && decide (site < 64) && decide (arg < 2 ^ 24)
  | .linkRetrain o port arg => o.ok && decide (port < 8) && decide (arg < 2 ^ 24)
  | .bghClearCounts o port arg => o.ok && decide (port < 8) && decide (arg < 2 ^ 24)
  | .remote o port arg => o.ok && decide (port < 8) && decide (arg < 2 ^ 24)
  | .remoteTimeout port => decide (port < 8)
  | .configRead co => decide (co < 4096)
  | .configWrite rid co be4 val => decide (rid < 4096) && decide (co < 4096) && decide (be4 < 16) && decide (val < 2 ^ 32)
  | .bar2Read rid bo blen => decide (rid < 4096) && decide (bo < 2 ^ 41) && decide (blen ≤ 4096)
  | .bar2Write rid bo blen be bytes _ => decide (rid < 4096) && decide (bo < 2 ^ 41) && decide (blen ≤ 4096) && decide (be < 2 ^ 4096) && decide (bytes < 2 ^ 32768)
  | .bar2Retry _ => true
  | .hifReqTimeoutExpiry _ => true
  | .doorbellWrite rid mo size val => decide (rid < 4096) && decide (mo < 0x100000) && decide (size ≤ 8) && decide (val < 2 ^ 32)
  | .msixTableWrite rid mo size val64 => decide (rid < 4096) && decide (mo < 0x100000) && decide (size ≤ 8) && decide (val64 < 2 ^ 64)
  | .hifWinBaseWrite o _ val => o.ok && decide (val < 2 ^ 32)
  | .hotReset _ => true
  | .linkUpwardRetrain rate width _ => decide (rate < 8) && decide (width < 32)
  | .cqProdWrite o cq val => o.ok && decide (cq < 4) && decide (val < 2 ^ 32)
  | .copyStart cq => decide (cq < 4)
  | .copyCompletion cq => decide (cq < 4)
  | .hostReadCompletion cq blen _ => decide (cq < 4) && decide (blen ≤ 4096)
  | .hifCplTimeoutExpiry asker inst => decide (asker < 3) && decide (inst < 16384)
  | .erConsWrite o ring val => o.ok && decide (ring < 64) && decide (val < 2 ^ 32)
  | .erProdWrite o ring val => o.ok && decide (ring < 64) && decide (val < 2 ^ 32)
  | .msixMessage ring => decide (ring < 64)
  | .getVersion => true
  | .getCapabilities => true
  | .negotiateAlgorithms => true
  | .getDigests => true
  | .getCertificate cslot => decide (cslot < 16)
  | .challenge cslot nonce => decide (cslot < 16) && decide (nonce < 2 ^ 256)
  | .getMeasurements mi _ nonce => decide (mi < 256) && decide (nonce < 2 ^ 256)
  | .spdmUnsupportedRequest => true
  | .cqReset o arg => o.ok && decide (arg < 2 ^ 24)
  | .hifLinkRetrain o arg => o.ok && decide (arg < 2 ^ 24)
  | .hifClearCounts o arg => o.ok && decide (arg < 2 ^ 24)
  | .ptmExchange _ _ _ => true
  | .ptmNow o arg => o.ok && decide (arg < 2 ^ 24)
  | .freqStep core => decide (core < 4096)
  | .clockMonitorWindow kind site idx _ _ => decide (kind < 6) && decide (site < 64) && decide (idx < 512)
  | .islandClockLost kind site idx _ => decide (kind < 6) && decide (site < 64) && decide (idx < 512)
  | .handshakeTimeout kind site idx _ => decide (kind < 6) && decide (site < 64) && decide (idx < 512)
  | .sysrefLost => true
  | .sysrefReturn _ => true
  | .refclkLost => true
  | .timeCorrection _ => true
  | .freqSet o arg => o.ok && decide (arg < 2 ^ 24)
  | .tileReset o arg => o.ok && decide (arg < 2 ^ 24)
  | .clkClearCounts o arg => o.ok && decide (arg < 2 ^ 24)
  | .undervoltageWarning _ _ _ => true
  | .brownOut _ _ _ => true
  | .pairLost pair _ _ _ => decide (pair < 2)
  | .overvoltageWarning _ _ _ => true
  | .pairOvervoltage pair _ _ _ => decide (pair < 2)
  | .inputConditionRelease _ _ _ _ => true
  | .powerFail _ _ _ _ => true
  | .pwrEnLow _ => true
  | .powerGovernorTick _ _ _ _ _ => true
  | .fastCut _ => true
  | .pairOvercurrent _ _ => true
  | .stageFault stage _ => decide (stage < 16)
  | .railFault site _ _ _ => decide (site < 64)
  | .telemetryLoss site => decide (site < 64)
  | .stageRestart o arg => o.ok && decide (arg < 2 ^ 24)
  | .saveRelease o arg => o.ok && decide (arg < 2 ^ 24)
  | .pwrClearCounts o arg => o.ok && decide (arg < 2 ^ 24)
  | .coresApply o site arg => o.ok && decide (site < 64) && decide (arg < 2 ^ 24)
  | .domSet o site arg => o.ok && decide (site < 64) && decide (arg < 2 ^ 24)
  | .tpwrClearCounts o site arg => o.ok && decide (site < 64) && decide (arg < 2 ^ 24)
  | .inputPowerApplied => true
  | .coldStart => true
  | .resetNAssert => true
  | .resetNRelease => true
  | .perstNAssert => true
  | .perstNRelease => true
  | .tileWave site _ _ => decide (site < 64)
  | .tileStepTimeout site => decide (site < 64)
  | .thermalHoldRelease => true
  | .bootWaveStall => true
  | .settingsSave o arg => o.ok && decide (arg < 2 ^ 24)
  | .settingsErase o arg => o.ok && decide (arg < 2 ^ 24)
  | .licInstall o arg => o.ok && decide (arg < 2 ^ 24)
  | .licCancel o arg => o.ok && decide (arg < 2 ^ 24)
  | .licStageClear o arg => o.ok && decide (arg < 2 ^ 24)
  | .scrubGranule core chan _ _ _ => decide (core < 4096) && decide (chan < 8)
  | .rowRemap core chan _ _ => decide (core < 4096) && decide (chan < 8)
  | .tileRetirement _ => true
  | .coppicePromotion => true
  | .retire o arg => o.ok && decide (arg < 2 ^ 24)
  | .coppice o arg => o.ok && decide (arg < 2 ^ 24)
  | .remapRow o arg => o.ok && decide (arg < 2 ^ 24)
  | .steerWire o arg => o.ok && decide (arg < 2 ^ 24)
  | .fusClearCounts o arg => o.ok && decide (arg < 2 ^ 24)
  | .sensorSample site _ mc => decide (site < 64) && decide (mc < 256)
  | .haltRelease site q => decide (site < 64) && decide (q < 8)
  | .coolantSample _ _ _ => true
  | .logicCapTick site => decide (site < 64)
  | .canopyModelTick site => decide (site < 64)
  | .flowEstimate _ => true
  | .flowCapTick => true
  | .suddenStopTest => true
  | .flowAutoResume => true
  | .ringCountTick => true
  | .ringSaveTimer _ => true
  | .flowResume o arg => o.ok && decide (arg < 2 ^ 24)
  | .ringSave o arg => o.ok && decide (arg < 2 ^ 24)
  | .modelReset o arg => o.ok && decide (arg < 2 ^ 24)
  | .thmClearCounts o arg => o.ok && decide (arg < 2 ^ 24)
  | .ledgerSnapshot _ => true
  | .ledgerSnapTimeout lp lid => decide (lp < 65) && decide (lid < 0x26)
  | .trapService => true
  | .firstFaultClear o lp => o.ok && decide (lp < 65)
  | .trapClear o arg => o.ok && decide (arg < 2 ^ 24)
  | .ldgClearCounts o lp arg => o.ok && decide (lp < 65) && decide (arg < 2 ^ 24)
  | .imageWrite o arg => o.ok && decide (arg < 2 ^ 24)
  | .svnCommit o arg => o.ok && decide (arg < 2 ^ 24)
  | .bcastSap o arg => o.ok && decide (arg < 2 ^ 24)
  | .bcastAbort o arg => o.ok && decide (arg < 2 ^ 24)
  | .fwuClearCounts o arg => o.ok && decide (arg < 2 ^ 24)
  | .bcstClearCounts o site arg => o.ok && decide (site < 64) && decide (arg < 2 ^ 24)
  | .mgtClearCounts o arg => o.ok && decide (arg < 2 ^ 24)
  | .chunk site chunk flip => decide (site < 64) && decide (chunk < 1024) && decide (flip < 2 ^ 2048)
  | .reduce site => decide (site < 64)
  | .reduceTimeout site => decide (site < 64)
  | .broadcastRoundTimeout => true
  | .prepare site => decide (site < 64)
  | .confirm site => decide (site < 64)
  | .deny site => decide (site < 64)
  | .activate site => decide (site < 64)
  | .bcAbort site => decide (site < 64)
  | .mctpControl bnd mc mcd => decide (bnd < 2) && decide (mc < 256) && decide (mcd < 256)
  | .getTid bnd => decide (bnd < 2)
  | .setTid bnd tid => decide (bnd < 2) && decide (tid < 256)
  | .getPldmVersion bnd typ => decide (bnd < 2) && decide (typ < 64)
  | .getPldmTypes bnd => decide (bnd < 2)
  | .getPldmCommands bnd typ => decide (bnd < 2) && decide (typ < 64)
  | .getSensorReading bnd sid => decide (bnd < 2) && decide (sid < 65536)
  | .getStateSensorReadings bnd sid => decide (bnd < 2) && decide (sid < 65536)
  | .setNumericEffecterValue bnd sid val => decide (bnd < 2) && decide (sid < 65536) && decide (val < 2 ^ 32)
  | .getNumericEffecterValue bnd sid => decide (bnd < 2) && decide (sid < 65536)
  | .getPdrRepositoryInfo bnd => decide (bnd < 2)
  | .getPdr bnd hdl => decide (bnd < 2) && decide (hdl < 2 ^ 32)
  | .pollForPlatformEventMessage bnd ack => decide (bnd < 2) && decide (ack < 65536)
  | .eventMessageBufferSize bnd => decide (bnd < 2)
  | .setEventReceiver bnd eid => decide (bnd < 2) && decide (eid < 256)
  | .getFruRecordTableMetadata bnd => decide (bnd < 2)
  | .getFruRecordTable bnd => decide (bnd < 2)
  | .queryDeviceIdentifiers bnd => decide (bnd < 2)
  | .getFirmwareParameters bnd => decide (bnd < 2)
  | .requestUpdate bnd => decide (bnd < 2)
  | .passComponentTable bnd comp _ => decide (bnd < 2) && decide (comp < 65536)
  | .updateComponent bnd comp fsz => decide (bnd < 2) && decide (comp < 65536) && decide (fsz < 2 ^ 32)
  | .requestFirmwareData bnd blen bytes => decide (bnd < 2) && decide (blen ≤ 4096) && decide (bytes < 2 ^ 32768)
  | .activateFirmware bnd _ => decide (bnd < 2)
  | .getStatus bnd => decide (bnd < 2)
  | .cancelUpdateComponent bnd => decide (bnd < 2)
  | .cancelUpdate bnd => decide (bnd < 2)
  | .pldmUnsupported bnd typ pcmd => decide (bnd < 2) && decide (typ < 64) && decide (pcmd < 256)
  | .pldmUpdateTimeout => true
  | .vdmRegRd bnd iana cnt rsv off => decide (bnd < 2) && decide (iana < 2 ^ 32) && decide (cnt < 256) && decide (rsv < 65536) && decide (off < 0x10000000)
  | .vdmRegWr bnd iana cnt rsv off bytes => decide (bnd < 2) && decide (iana < 2 ^ 32) && decide (cnt < 256) && decide (rsv < 65536) && decide (off < 0x10000000) && decide (bytes < 2 ^ 32768)
  | .mgtBusTimeout bnd _ => decide (bnd < 2)
  | .jtagTestAccess => true
  | .doeDiscovery di => decide (di < 256)
  | .codewordLock port => decide (port < 8)
  | .dretNotAccepted core pos => decide (core < 4096) && decide (pos < 2 ^ 32)
  | .stagingFetchTimeout core => decide (core < 4096)
  | .eyeMarginLow core chan wire eye => decide (core < 4096) && decide (chan < 8) && decide (wire < 76) && decide (eye < 256)
  | .opticalEngineOutOfRange port => decide (port < 8)
  | .expressLaserOutOfRange site lane => decide (site < 64) && decide (lane < 8)
  | .ecrcFailure => true
  | .pcieLinkUp rate width _ top => decide (rate < 8) && decide (width < 32) && decide (top < 8)
  | .refclkReturn => true
  | .perstNHoldoffEnd => true
  | .carrierBusDischarged => true
  | .accInstructionComplete core half => decide (core < 4096) && decide (half < 2)
  | .mvstComplete core => decide (core < 4096)

end Sys2Proof
end

