-- ==== Sys2Proof/Tests/Slice0.lean ====
section
/-! SUPPORT. Sys2Proof/Tests/Slice0.lean: small tests of the model. -/
namespace Sys2Proof.Tests
open Sys2Proof Sys2Proof.Machine

theorem test_illFormed_origin : wellFormed (.registerWrite { cls := 7, inst := 0 } 0 4 0) = false := by decide

end Sys2Proof.Tests
end

/-! What a refused register write journals, and the statement on accesses of another width or alignment (R48). -/
namespace Sys2Proof.Machine
open Sys2Proof

theorem room_mono {m n : Nat} {s : State} (h : Room n s) (hmn : m ≤ n) : Room m s := Nat.le_trans (Nat.add_le_add_left hmn _) h

/-! ## What raising an event leaves of the journal -/

theorem evAct_jnl {r : Page.Ref} (a : Act) (s : State) (h : evAct r a = true) : (a.apply s).jnl = s.jnl := by
  cases a
  case evHold n e => unfold Act.apply; dsimp only; split <;> rfl
  case reg | evGap | evCount | evPba | led | host | out => rfl
  all_goals exact absurd h Bool.false_ne_true

theorem evt_jnl {r : Page.Ref} {b typ org pl : Nat} {s : State} (hs : Room 1 s) : ((evt r b typ org pl).run s).jnl = s.jnl :=
  within_frame (within_evt fun _ h => h) hs State.jnl evAct_jnl

theorem highCheck_jnl {before : Nat} {s : State} (hs : Room 1 s) : ((highCheck before).run s).jnl = s.jnl := by
  rw [highCheck, run_read, run_when]
  split
  · exact evt_jnl hs
  · rfl

/-! ## Making an entry -/

theorem within_newEntry (e : JEntry) : Within 1 (fun _ => true) (newEntry e) :=
  within_read fun _ => within_cons (n := 0) (m := 1)
    (within_read fun _ => within_cons (within_act rfl rfl) (within_cons (within_setReg fun _ => rfl) (within_nil _)))
    (within_cons (within_ledAdd fun _ _ => rfl)
      (within_cons (n := 1) (within_read fun _ => within_when (within_evt fun _ _ => rfl)) (within_nil _)))

theorem jPush_apply {e : JEntry} {s : State} (hj : s.jnl.fill < 65536) :
    (Act.jPush e).apply s = { s with jnl := { s.jnl with store := s.jnl.store ++ [e] } } := if_pos hj

/-- R67: where an entry of the store is free, the new entry stands at its end with the next sequence number. -/
theorem newEntry_store {e : JEntry} {s : State} (hj : s.jnl.fill < 65536) (hs : Room 1 s) :
    ((newEntry e).run s).jnl.store = s.jnl.store ++ [{ e with seq := nextSeq s }] := by
  simp only [newEntry, putEntry, run_read, run_seqs_cons, run_seqs_nil, run_act, jPush_apply hj]
  rw [highCheck_jnl]
  · rfl
  · exact hs

/-! ## Refusing a write -/

theorem jRoom_fill {s : State} {c : Nat} (h : jRoom s c 1 = true) : s.jnl.fill < 65536 := by
  have hle : s.jnl.fill + 1 ≤ classLimit c := of_decide_eq_true h
  unfold classLimit at hle
  split at hle <;> omega

/-- R66, R69: a refusal journals one entry, with what the register holds when it is refused. -/
theorem refuse_store {o : Origin} {off v reason : Nat} {pair : Bool} {s : State} (hj : s.jnl.fill < 65536) (hs : Room 2 s) :
    ((refuse o off v reason pair).run s).jnl.store
      = s.jnl.store ++ [{ entryOf s o off (rd s off) v reason pair with seq := nextSeq s }] := by
  have hroom : ∀ e, Room 1 ((newEntry e).run s) := fun e => within_room (within_newEntry e) hs
  rw [← newEntry_store (e := entryOf s o off (rd s off) v reason pair) hj (room_mono hs (by decide))]
  simp only [refuse, run_read, run_seqs_cons, run_seqs_nil]
  cases Page.ofOff off with
  | none => rfl
  | some r =>
    rw [run_onSome_some]
    split <;> rw [evt_jnl (hroom _)]

/-- R66: a write that nothing holds back and that is judged to be refused is refused at once. -/
theorem submit_refused {s : State} {o : Origin} {off size v reason : Nat} (hf : Free s o 1)
    (hr : judge s o off size v = .refuse reason) :
    (submit (.reg o off size v)).run s = (refuse o off v reason false).run s := by
  simp [submit, need, perform, commit, hr, entriesNeeded, hf.saved, hf.first, hf.room]

/-- R48: the width and the alignment are judged before all else. -/
theorem judge_otherSize {s : State} {o : Origin} {off size v : Nat} (h : size ≠ 4 ∨ off % 4 ≠ 0) :
    judge s o off size v = .refuse 7 := if_pos h

/-! ## The host's writes are counted first -/

/-- The state in which a write of the host is judged: HIF_CNT_BAR0_WR has counted it. -/
def countedWrite (s : State) : State := (bump (hifB + R.HIF_CNT_BAR0_WR) 1).run s

theorem rd_countedWrite {s : State} (hm : Maps s) (a : Nat) :
    rd (countedWrite s) a = if hifB + R.HIF_CNT_BAR0_WR = a then satAdd (rd s (hifB + R.HIF_CNT_BAR0_WR)) 1 % 2 ^ 32 else rd s a := by
  show rd ((Act.reg _ _).apply s) a = _
  rw [rd_reg _ _ _ _ hm, BitVec.toNat_ofNat]

theorem free_countedWrite {s : State} {o : Origin} {n : Nat} (hm : Maps s) (hf : Free s o n) : Free (countedWrite s) o n where
  saved := by
    have hrd : rd (countedWrite s) (Page.trunk .PWR + R.PWR_STATE) = rd s (Page.trunk .PWR + R.PWR_STATE) := by
      rw [rd_countedWrite hm, if_neg (by decide)]
    rw [fld, hrd]
    exact hf.saved
  first := hf.first
  host := hf.host
  room := hf.room

/-- What a write of the host that nothing holds back does once it has been counted. -/
theorem busWrite_host {s : State} {o : Origin} {off size v : Nat} (ho : o.cls = 0) (hb : hostBlocked s = false) :
    (busWrite o off size v).run s = (submit (.reg o off size v)).run (countedWrite s) := by
  have hb' : hostBlocked (countedWrite s) = false := hb
  rw [busWrite, if_pos (show Origin.isHost o = true from decide_eq_true ho), run_seqs_cons, run_seqs_cons, run_seqs_nil]
  change (hostSubmit _).run (countedWrite s) = _
  rw [hostSubmit, run_read, hb', if_neg Bool.false_ne_true]

/-- R48, R470: a write of the host of another width or alignment journals what the register holds once the write has been counted. -/
theorem hostWrite_otherSize_store {s u : State} {o : Origin} {off size val : Nat} (hc : Calm s) (hf : Free s o 1) (ho : o.cls = 0)
    (hsz : size ≠ 4 ∨ off % 4 ≠ 0) (hu : exec (.registerWrite o off size val) s = .next u) :
    u.jnl.store = (countedWrite s).jnl.store
      ++ [{ entryOf (countedWrite s) o off (rd (countedWrite s) off) val 7 false with seq := nextSeq (countedWrite s) }] := by
  have hf' : Free (countedWrite s) o 1 := free_countedWrite hc.maps hf
  have hroom : Room 2 (countedWrite s) := room_mono (n := 64) hc.room (by decide)
  obtain ⟨t, ht, hstore⟩ := done_at (busWrite o off size val) s hc.power (·.jnl.store) fun _ _ => rfl
  obtain rfl : t = u := Host.Outcome.next.inj (ht.symm.trans hu)
  rw [hstore, busWrite_host ho (hf.host ho), submit_refused hf' (judge_otherSize hsz), refuse_store (jRoom_fill hf'.room) hroom]

/-- Refutes O8: the host writes 2 bytes at HIF_CNT_BAR0_WR, the counter of its own writes, in the state after reset. The write is
counted before it is judged, so that its journal entry shows 1 as the old value, where the statement asks for the 0 before the write. -/
theorem not_accessSize : ¬ Obligations.AccessSize := by
  intro h
  let host : Origin := { cls := 0, inst := 0 }
  let counter := hifB + R.HIF_CNT_BAR0_WR
  have hc : Calm State.reset := calm_of_test (by decide)
  have hf : Free State.reset host 1 := free_of_test (by decide)
  have hsz : 2 ≠ 4 ∨ counter % 4 ≠ 0 := .inl (by decide)
  obtain ⟨-, hwrite⟩ := h State.reset host counter 2 5 hc hsz
  obtain ⟨u, hu, hstore, -⟩ := hwrite hf
  have hold := congrArg (List.map (·.old)) ((hostWrite_otherSize_store hc hf rfl hsz hu).symm.trans hstore)
  have hone : rd (countedWrite State.reset) counter = 1 := by
    rw [rd_countedWrite hc.maps, if_pos rfl]; decide
  have hzero : rd State.reset counter = 0 := by decide
  simp [entryOf, hone, hzero] at hold

end Sys2Proof.Machine


/-! A refused write of RING_PROD (R125): what the register table and the CORE page's own check make of it, and the frame of a refusal. -/
namespace Sys2Proof.Machine
open Sys2Proof

/-! ## Where the registers of a CORE page stand (R45) -/

theorem coreB_eq (g : Nat) : coreB g = g / 64 * 0x200000 + 0x100000 + g % 64 * 0x4000 := by
  simp [Page.core, Page.coreBase, Page.slotOf, Page.code]

theorem base_core (g : Nat) : Page.base ⟨.CORE, g⟩ = coreB g := by
  simp [Page.base, Page.isTile, Page.isCore, Page.code]

theorem pageNo_core (g : Nat) : pageNo ⟨.CORE, g⟩ = coreB g / 0x1000 := by rw [pageNo, base_core]

theorem coreB_mod_page {g x : Nat} (hx : x < 0x1000) : (coreB g + x) % 0x1000 = x := by
  rw [coreB_eq]; omega

theorem coreB_div_page {g x : Nat} (hx : x < 0x1000) : (coreB g + x) / 0x1000 = pageNo ⟨.CORE, g⟩ := by
  rw [pageNo_core, coreB_eq]; omega

theorem ofOff_core {g x : Nat} (hg : g < 4096) (hx : x < 0x1000) : Page.ofOff (coreB g + x) = some ⟨.CORE, g⟩ := by
  have hsite : (coreB g + x) / 0x200000 = g / 64 := by rw [coreB_eq]; omega
  have hoff : (coreB g + x) % 0x200000 = 0x100000 + g % 64 * 0x4000 + x := by rw [coreB_eq]; omega
  have hcore : (0x100000 + g % 64 * 0x4000 + x - 0x100000) / 0x4000 = g % 64 := by omega
  have hpage : (0x100000 + g % 64 * 0x4000 + x) % 0x4000 / 0x1000 = 0 := by omega
  have hinst : g / 64 * 64 + g % 64 = g := by omega
  have hbelow : coreB g + x < Page.trunkBase := by rw [coreB_eq, Page.trunkBase]; omega
  rw [Page.ofOff, if_pos hbelow]
  dsimp only
  rw [hsite, hoff, if_neg (by omega), hcore, hpage, hinst]
  rfl

/-! ## The value a write of RING_PROD carries -/

/-- RING_PROD in the register table: flow-class, one field of 32 bits that takes any value (R125). -/
def ringProdDef : RegDef := { off := 0x30c, cnt := 4, st := 0x20, flow := true, flds := [⟨31, 0, .rw, 0, none⟩] }

theorem find_ringProd : ∀ n < 4, RegTable.find .CORE (R.RING_PROD n) = some ringProdDef := by decide

theorem newValue_ringProd {old v : Nat} (hv : v < 2 ^ 32) : newValue ringProdDef old v = v := by
  simpa [newValue, ringProdDef, setBits, bits] using hv

theorem regCheck_ringProd {s : State} {g n v : Nat} (hn : n < 4) (hbad : ringProdOk s g n v = false) :
    regCheck s ⟨.CORE, g⟩ (R.RING_PROD n) v = 1 := by
  have hring : (R.RING_PROD n - 0x300) / 0x20 = n := by show (0x30c + 0x20 * n - 0x300) / 0x20 = n; omega
  have hplace : 0x300 ≤ R.RING_PROD n ∧ R.RING_PROD n < 0x380 ∧ R.RING_PROD n % 0x20 = 0xC := by
    show 0x300 ≤ 0x30c + 0x20 * n ∧ 0x30c + 0x20 * n < 0x380 ∧ (0x30c + 0x20 * n) % 0x20 = 0xC
    omega
  obtain ⟨hlow, hhigh, hmod⟩ := hplace
  exact if_pos ⟨hlow, hhigh, hmod, by simp [hring, hbad]⟩

/-- R49, R125: no field of RING_PROD refuses a value, so the reason is the CORE page's own. -/
theorem valueReason_ringProd {s : State} {g n old v : Nat} (hn : n < 4) (hv : v < 2 ^ 32) (hbad : ringProdOk s g n v = false) :
    valueReason s ⟨.CORE, g⟩ ringProdDef (R.RING_PROD n) old v = 1 := by
  have hrwi : changesRwi ringProdDef old v = false := rfl
  have hrng : outOfRange ringProdDef v = false := rfl
  simp [valueReason, hrwi, hrng, newValue_ringProd hv, regCheck_ringProd hn hbad]

/-- R47 to R49, R54: what is left to judge of a write, once the block answers, the register exists and is flow-class, so that no lock holds
the write back, and it stands alone with a field to write: its value. -/
theorem judge_flow_refused {s : State} {o : Origin} {off v reason : Nat} {r : Page.Ref} {d : RegDef} (halign : off % 4 = 0)
    (hpage : Page.ofOff off = some r) (hcmd : off % 0x1000 ≠ R.PG_CMD) (hans : answers s r = true)
    (hfind : RegTable.find r.t (off % 0x1000) = some d) (hhid : hidden r.t (off % 0x1000) = false) (hflow : d.flow = true)
    (her : erProdOk s r (off % 0x1000) v = false) (hwr : writable d = true) (hpair : d.pair = 0)
    (hval : valueReason s r d (off % 0x1000) (rd s off) v = reason) (hreason : reason ≠ 0) :
    judge s o off 4 v = .refuse reason := by
  simp [judge, halign, hpage, hcmd, hans, hfind, hhid, hflow, her, hwr, hpair, hval, hreason]

theorem hidden_core (p : Nat) : hidden .CORE p = false := by
  have hevt : Page.hasEvt .CORE = true := rfl
  have hflt : Page.hasFlt .CORE = true := rfl
  simp [hidden, hevt, hflt]

theorem ringProd_bounds {n : Nat} (hn : n < 4) : 0x100 ≤ R.RING_PROD n ∧ R.RING_PROD n < 0x1000 := by
  unfold R.RING_PROD; omega

/-- R125: where the CORE page answers, a value of RING_PROD that its check turns down is refused with reason 1, range. -/
theorem judge_ringProd {s : State} {o : Origin} {g n v : Nat} (hg : g < 4096) (hn : n < 4) (hv : v < 2 ^ 32)
    (ha : answers s ⟨.CORE, g⟩ = true) (hbad : ringProdOk s g n v = false) :
    judge s o (coreB g + R.RING_PROD n) 4 v = .refuse 1 := by
  obtain ⟨hheader, hx⟩ := ringProd_bounds hn
  have hp : (coreB g + R.RING_PROD n) % 0x1000 = R.RING_PROD n := coreB_mod_page hx
  have halign : (coreB g + R.RING_PROD n) % 4 = 0 := by rw [coreB_eq, R.RING_PROD]; omega
  refine judge_flow_refused (d := ringProdDef) halign (ofOff_core hg hx) ?_ ha ?_ ?_ rfl ?_ rfl rfl ?_ (by decide) <;> rw [hp]
  · exact Nat.ne_of_gt (Nat.lt_of_lt_of_le (by decide) hheader)
  · exact find_ringProd n hn
  · exact hidden_core _
  · rfl
  · exact valueReason_ringProd hn hv hbad

/-- R125: the check turns down a value that overfills the ring and one that moves the producer count backwards. -/
theorem ringProdOk_eq_false {s : State} {g n v : Nat} :
    ringProdOk s g n v = false ↔
      2 ^ fld s (coreB g + R.RING_SIZE n) 4 0 < (v + 2 ^ 32 - rd s (coreB g + R.RING_CONS n)) % 2 ^ 32
      ∨ (v + 2 ^ 32 - rd s (coreB g + R.RING_CONS n)) % 2 ^ 32
        < (rd s (coreB g + R.RING_PROD n) + 2 ^ 32 - rd s (coreB g + R.RING_CONS n)) % 2 ^ 32 := by
  simp only [ringProdOk, Bool.and_eq_false_iff, decide_eq_false_iff_not, Nat.not_le]

/-! ## The count of the host's write changes neither the CORE page nor whether it answers (R47, R470) -/

/-- The registers outside the page HIF. -/
abbrev OffHif (a : Nat) : Prop := a / 0x1000 ≠ pageNo (trunkRef .HIF)

theorem pageNo_hif : pageNo (trunkRef .HIF) = 0x8001 := by decide

theorem rd_countedWrite_offHif {s : State} {a : Nat} (hm : Maps s) (ha : OffHif a) : rd (countedWrite s) a = rd s a := by
  have hne : hifB + R.HIF_CNT_BAR0_WR ≠ a := by
    rintro rfl
    exact ha (by decide)
  rw [rd_countedWrite hm, if_neg hne]

theorem offHif_core {g x : Nat} (hx : x < 0x4000) : OffHif (coreB g + x) := by
  rw [OffHif, pageNo_hif, coreB_eq]; omega

theorem offHif_tile {k x : Nat} (hk : k < 64) (hx : x < 0x1000) : OffHif (Page.tile .TPWR k + x) := by
  have htpwr : Page.tile .TPWR k = k * 0x200000 + 0x1000 := by simp [Page.tile, Page.siteBase, Page.slotOf, Page.code]
  rw [OffHif, pageNo_hif, htpwr]; omega

/-- A set of 64 bits in a pair of registers outside the page HIF. -/
theorem getBit64_countedWrite {s : State} {a k : Nat} (hm : Maps s) (hk : k < 64) (hlo : OffHif a) (hhi : OffHif (a + 4)) :
    getBit64 (countedWrite s) a k = getBit64 s a k := by
  have hhalf : k / 32 = 0 ∨ k / 32 = 1 := by omega
  rcases hhalf with h | h <;> simp only [getBit64, h, Nat.mul_zero, Nat.add_zero, Nat.mul_one]
  · rw [rd_countedWrite_offHif hm hlo]
  · rw [rd_countedWrite_offHif hm hhi]

theorem phys_countedWrite {s : State} {k : Nat} (hm : Maps s) (hk : k < 64) : phys (countedWrite s) k = phys s k := by
  unfold phys
  rw [getBit64_countedWrite hm hk (a := retiredB) (by decide) (by decide),
    getBit64_countedWrite hm hk (a := goodB) (by decide) (by decide),
    getBit64_countedWrite hm hk (a := dormantB) (by decide) (by decide)]

theorem pgState_core_countedWrite {s : State} {g : Nat} (hm : Maps s) (hg : g < 4096) :
    pgState (countedWrite s) ⟨.CORE, g⟩ = pgState s ⟨.CORE, g⟩ := by
  have hsite : g / 64 < 64 := by omega
  have hheld : rd (countedWrite s) (Page.base ⟨.CORE, g⟩ + R.PG_STATE) = rd s (Page.base ⟨.CORE, g⟩ + R.PG_STATE) := by
    rw [base_core]
    exact rd_countedWrite_offHif hm (offHif_core (by decide))
  have honHi : OffHif (Page.tile .TPWR (g / 64) + R.TPWR_CORE_ON_LO + 4) := by
    rw [Nat.add_assoc]
    exact offHif_tile hsite (by decide)
  have hdom : domOn (countedWrite s) (g / 64) (g % 64) .core = domOn s (g / 64) (g % 64) .core := by
    unfold domOn
    exact getBit64_countedWrite hm (Nat.mod_lt g (by decide)) (offHif_tile hsite (by decide)) honHi
  have hret : retiring (countedWrite s) (g / 64) = retiring s (g / 64) := rfl
  have hphys := phys_countedWrite hm hsite
  have hcore : Page.isCore .CORE = true := rfl
  have hdomOf : domOf .CORE = some .core := rfl
  simp only [pgState, fld, hheld, Page.siteOf, coreIn, hcore, if_true, hphys, hret, hdomOf, hdom]

theorem answers_core_countedWrite {s : State} {g : Nat} (hm : Maps s) (hg : g < 4096) :
    answers (countedWrite s) ⟨.CORE, g⟩ = answers s ⟨.CORE, g⟩ := by
  have hfenced : fenced (countedWrite s) (g / 64) = fenced s (g / 64) :=
    getBit64_countedWrite hm (by omega) (by decide) (by decide)
  have hlost : islandLost (countedWrite s) = islandLost s := rfl
  have hcore : Page.isCore .CORE = true := rfl
  simp only [answers, pgState_core_countedWrite hm hg, clockLost, Page.siteOf, hcore, if_true, hfenced, hlost]

theorem ringProdOk_countedWrite {s : State} {g n v : Nat} (hm : Maps s) (hn : n < 4) (h : ringProdOk s g n v = false) :
    ringProdOk (countedWrite s) g n v = false := by
  have hrd : ∀ x < 0x4000, rd (countedWrite s) (coreB g + x) = rd s (coreB g + x) := fun x hx =>
    rd_countedWrite_offHif hm (offHif_core hx)
  have hsize : R.RING_SIZE n < 0x4000 := by unfold R.RING_SIZE; omega
  have hprod : R.RING_PROD n < 0x4000 := by unfold R.RING_PROD; omega
  have hcons : R.RING_CONS n < 0x4000 := by unfold R.RING_CONS; omega
  rw [ringProdOk_eq_false] at h ⊢
  rwa [fld, hrd _ hsize, hrd _ hprod, hrd _ hcons]

/-- The state in which a write of origin `o` is judged: the host's is counted first (R470). -/
def judgedIn (o : Origin) (s : State) : State := if Origin.isHost o then countedWrite s else s

/-- What nothing holds back is judged at once; a refusal then is all that the write does. -/
theorem busWrite_refused {s : State} {o : Origin} {off size v reason : Nat} (hm : Maps s) (hf : Free s o 1)
    (hr : judge (judgedIn o s) o off size v = .refuse reason) :
    (busWrite o off size v).run s = (refuse o off v reason false).run (judgedIn o s) := by
  unfold judgedIn at hr ⊢
  split at hr
  case isTrue ho =>
    have hcls : o.cls = 0 := of_decide_eq_true ho
    rw [if_pos ho, busWrite_host hcls (hf.host hcls), submit_refused (free_countedWrite hm hf) hr]
  case isFalse ho => rw [if_neg ho, busWrite, if_neg ho, submit_refused hf hr]

/-! ## The frame of a refusal -/

/-- The changes of giving an entry its number and its place in the store. -/
def entryAct : Act → Bool
  | .jPush _ => true
  | .reg off _ => off = jnlB + R.JNL_NEXT_SEQ
  | _ => false

/-- The changes of a refusal at page `r`: its journal entry, JNL_HIGH, and an event of the page. -/
def refusalAct (r : Page.Ref) (a : Act) : Bool := entryAct a || evAct jnlR a || evAct r a

theorem refusalAct_of_entry {r : Page.Ref} {a : Act} (h : entryAct a = true) : refusalAct r a = true := by simp [refusalAct, h]
theorem refusalAct_of_high {r : Page.Ref} {a : Act} (h : evAct jnlR a = true) : refusalAct r a = true := by simp [refusalAct, h]
theorem refusalAct_of_evt {r : Page.Ref} {a : Act} (h : evAct r a = true) : refusalAct r a = true := by simp [refusalAct, h]

theorem within_highCheck {q : Act → Bool} (hq : ∀ a, evAct jnlR a = true → q a = true) (before : Nat) : Within 1 q (highCheck before) :=
  within_read fun _ => within_when (within_evt hq)

theorem within_putEntry {q : Act → Bool} (hq : ∀ a, entryAct a = true → q a = true) (e : JEntry) : Within 0 q (putEntry e) :=
  within_read fun _ => within_cons (within_act (hq _ rfl) rfl)
    (within_cons (within_setReg fun _ => hq _ (decide_eq_true rfl)) (within_nil q))

theorem within_newEntry_refusal (r : Page.Ref) (e : JEntry) : Within 1 (refusalAct r) (newEntry e) :=
  within_read fun _ => within_cons (within_putEntry (fun _ => refusalAct_of_entry) e)
    (within_cons (within_ledAdd fun _ _ => refusalAct_of_evt rfl)
      (within_cons (within_highCheck (fun _ => refusalAct_of_high) _) (within_nil _)))

/-- R64, R66: a refusal makes its entry and raises one event of its page. -/
theorem within_refuse {o : Origin} {off v reason : Nat} {pair : Bool} {r : Page.Ref} (hpage : Page.ofOff off = some r) :
    Within 2 (refusalAct r) (refuse o off v reason pair) := by
  refine within_read fun s => within_cons (within_newEntry_refusal r _) (within_cons (n := 1) ?_ (within_nil _))
  rw [hpage, run_onSome_some]
  split <;> exact within_evt fun _ => refusalAct_of_evt

theorem refusalAct_blank {r : Page.Ref} (a : Act) (s : State) (h : refusalAct r a = true) : blank (a.apply s) = blank s := by
  cases a
  case jPush e => unfold Act.apply; dsimp only; split <;> rfl
  case evHold n e => unfold Act.apply; dsimp only; split <;> rfl
  case reg | evGap | evCount | evPba | led | host | out => rfl
  all_goals exact absurd h Bool.false_ne_true

/-- The registers that no refusal at page `r` changes: those of other pages but JNL and EVQ, and those of the page that are no event registers. -/
def Untouched (r : Page.Ref) (a : Nat) : Prop := ∀ w, refusalAct r (.reg a w) = false

theorem refusalAct_rd {r : Page.Ref} {x : Nat} (hx : Untouched r x) (a : Act) (s : State) (hm : Maps s) (h : refusalAct r a = true) :
    rd (a.apply s) x = rd s x := by
  cases a
  case reg off v =>
    rw [rd_reg off x v s hm, if_neg]
    rintro rfl
    exact Bool.false_ne_true ((hx v).symm.trans h)
  case jPush e => unfold Act.apply; dsimp only; split <;> rfl
  case evHold n e => unfold Act.apply; dsimp only; split <;> rfl
  case evGap | evCount | evPba | led | host | out => rfl
  all_goals exact absurd h Bool.false_ne_true

theorem base_mod_page (r : Page.Ref) : Page.base r % 0x1000 = 0 := by
  unfold Page.base
  split
  · rw [Page.tile, Page.siteBase]; omega
  · split
    · rw [Page.core, Page.coreBase]; omega
    · split
      · rw [Page.bgh]; omega
      · rw [Page.trunk, Page.trunkBase]; omega

theorem ne_base_add_of_page {r : Page.Ref} {a x : Nat} (ha : a / 0x1000 ≠ pageNo r) (hx : x < 0x1000) : a ≠ Page.base r + x := by
  rintro rfl
  have haligned := base_mod_page r
  unfold pageNo at ha
  omega

theorem evAct_reg_false {r : Page.Ref} {a : Nat} (w : Word) (hevt : a ≠ Page.base r + R.PG_EVT) (hcnt : a ≠ Page.base r + R.PG_EVT_CNT)
    (hevq : a / 0x1000 ≠ pageNo (trunkRef .EVQ)) : evAct r (.reg a w) = false := by
  have hbase : evqB = 0x8002000 := by decide
  have hpage : pageNo (trunkRef .EVQ) = 0x8002 := by decide
  simp only [evAct, hbase, hevt, hcnt, decide_false, Bool.false_or, Bool.and_eq_false_iff, decide_eq_false_iff_not]
  omega

theorem untouched_of_ne {r : Page.Ref} {a : Nat} (hevt : a ≠ Page.base r + R.PG_EVT) (hcnt : a ≠ Page.base r + R.PG_EVT_CNT)
    (hjnl : a / 0x1000 ≠ pageNo jnlR) (hevq : a / 0x1000 ≠ pageNo (trunkRef .EVQ)) : Untouched r a := by
  intro w
  have hjnlReg : ∀ x < 0x1000, a ≠ Page.base jnlR + x := fun _ hx => ne_base_add_of_page hjnl hx
  have hentry : entryAct (.reg a w) = false := decide_eq_false (hjnlReg _ (by decide))
  have hhigh : evAct jnlR (.reg a w) = false := evAct_reg_false w (hjnlReg _ (by decide)) (hjnlReg _ (by decide)) hevq
  simp [refusalAct, hentry, hhigh, evAct_reg_false w hevt hcnt hevq]

theorem untouched_of_page {r : Page.Ref} {a : Nat} (hr : a / 0x1000 ≠ pageNo r) (hjnl : a / 0x1000 ≠ pageNo jnlR)
    (hevq : a / 0x1000 ≠ pageNo (trunkRef .EVQ)) : Untouched r a :=
  untouched_of_ne (ne_base_add_of_page hr (by decide)) (ne_base_add_of_page hr (by decide)) hjnl hevq

theorem untouched_ringProd {g n : Nat} (hn : n < 4) : Untouched ⟨.CORE, g⟩ (coreB g + R.RING_PROD n) := by
  obtain ⟨hheader, hx⟩ := ringProd_bounds hn
  have hpage := coreB_div_page (g := g) hx
  have hne : ∀ x < 0x100, coreB g + R.RING_PROD n ≠ Page.base ⟨.CORE, g⟩ + x := by
    intro x hlt
    rw [base_core]
    omega
  have hjnl : pageNo jnlR = 0x8003 := by decide
  have hevq : pageNo (trunkRef .EVQ) = 0x8002 := by decide
  refine untouched_of_ne (hne _ (by decide)) (hne _ (by decide)) ?_ ?_
  · rw [hpage, pageNo_core, hjnl, coreB_eq]; omega
  · rw [hpage, pageNo_core, hevq, coreB_eq]; omega

theorem blank_refuse {o : Origin} {off v reason : Nat} {pair : Bool} {r : Page.Ref} {s : State} (hpage : Page.ofOff off = some r)
    (hs : Room 2 s) : blank ((refuse o off v reason pair).run s) = blank s :=
  within_frame (within_refuse hpage) hs blank refusalAct_blank

theorem rd_refuse {o : Origin} {off v reason x : Nat} {pair : Bool} {r : Page.Ref} {s : State} (hpage : Page.ofOff off = some r)
    (hs : Room 2 s) (hm : Maps s) (hx : Untouched r x) : rd ((refuse o off v reason pair).run s) x = rd s x :=
  within_frame_maps (within_refuse hpage) hs hm (rd · x) (refusalAct_rd hx)

/-! ## A refused write as a whole

A write is judged in `judgedIn o s`, where the host's has been counted; what it is compared with is `s`, the state before. -/

theorem judgedIn_eq (o : Origin) (s : State) : judgedIn o s = s ∨ judgedIn o s = countedWrite s := by
  unfold judgedIn
  split
  · exact .inr rfl
  · exact .inl rfl

theorem maps_judgedIn {o : Origin} {s : State} (hm : Maps s) : Maps (judgedIn o s) := by
  rcases judgedIn_eq o s with h | h <;> rw [h]
  · exact hm
  · exact maps_run _ s hm

theorem rd_judgedIn {o : Origin} {s : State} {a : Nat} (hm : Maps s) (ha : OffHif a) : rd (judgedIn o s) a = rd s a := by
  rcases judgedIn_eq o s with h | h <;> rw [h]
  exact rd_countedWrite_offHif hm ha

/-- What no register write touches, the count of the host's write leaves alone. -/
theorem judgedIn_frame {o : Origin} {s : State} {β : Type} (f : State → β) (hf : ∀ off v, f ((Act.reg off v).apply s) = f s) :
    f (judgedIn o s) = f s := by
  rcases judgedIn_eq o s with h | h <;> rw [h]
  exact hf _ _

/-- R66, R69: a write that nothing holds back and that is refused makes one entry, with what the register held, and changes nothing else but
the registers of its page's events and those of JNL, EVQ and HIF, beside what `blank` names. -/
theorem busWrite_refused_effect {s : State} {o : Origin} {off size v reason : Nat} {r : Page.Ref} (hc : Calm s) (hf : Free s o 1)
    (hpage : Page.ofOff off = some r) (hoff : OffHif off) (hr : judge (judgedIn o s) o off size v = .refuse reason) :
    ∃ u, done (busWrite o off size v) s = .next u
      ∧ u.jnl.store = s.jnl.store ++ [{ entryOf s o off (rd s off) v reason false with seq := nextSeq s }]
      ∧ blank u = blank s ∧ ∀ a, Untouched r a → OffHif a → rd u a = rd s a := by
  have hm := maps_judgedIn (o := o) hc.maps
  have hjnl : (judgedIn o s).jnl = s.jnl := judgedIn_frame State.jnl fun _ _ => rfl
  have hnow : (judgedIn o s).now = s.now := judgedIn_frame State.now fun _ _ => rfl
  have hblank : blank (judgedIn o s) = blank s := judgedIn_frame blank fun _ _ => rfl
  have hseq : nextSeq (judgedIn o s) = nextSeq s := rd_judgedIn hc.maps (by decide)
  have hfill : (judgedIn o s).jnl.fill < 65536 := by rw [hjnl]; exact jRoom_fill hf.room
  have hroom : Room 2 (judgedIn o s) := by
    have hevq : (judgedIn o s).evq = s.evq := judgedIn_frame State.evq fun _ _ => rfl
    have hcalm := hc.room
    rw [Room, hevq]
    omega
  obtain ⟨u, hu, hview⟩ := done_at (busWrite o off size v) s hc.power (fun t => (t.jnl, t.regs, blank t)) fun _ _ => rfl
  rw [busWrite_refused hc.maps hf hr] at hview
  obtain ⟨hjnlU, hregsU, hblankU⟩ : u.jnl = _ ∧ u.regs = _ ∧ blank u = _ := by simpa only [Prod.mk.injEq] using hview
  refine ⟨u, hu, ?_, ?_, fun a ha hhif => ?_⟩
  · rw [hjnlU, refuse_store hfill hroom, rd_judgedIn hc.maps hoff, hseq, hjnl, entryOf, hnow]
    rfl
  · rw [hblankU, blank_refuse hpage hroom, hblank]
  · have hrdU : rd u a = rd ((refuse o off v reason false).run (judgedIn o s)) a := by rw [rd, rd, hregsU]
    rw [hrdU, rd_refuse hpage hroom hm ha, rd_judgedIn hc.maps hhif]

/-! ## The statement on RING_PROD (R125) -/

theorem judge_ringProd_judgedIn {s : State} {o : Origin} {g n v : Nat} (hm : Maps s) (hg : g < 4096) (hn : n < 4) (hv : v < 2 ^ 32)
    (ha : answers s ⟨.CORE, g⟩ = true) (hbad : ringProdOk s g n v = false) :
    judge (judgedIn o s) o (coreB g + R.RING_PROD n) 4 v = .refuse 1 := by
  rcases judgedIn_eq o s with h | h <;> rw [h]
  · exact judge_ringProd hg hn hv ha hbad
  · exact judge_ringProd hg hn hv ((answers_core_countedWrite hm hg).trans ha) (ringProdOk_countedWrite hm hn hbad)

theorem exec_ringProdWrite {s : State} {o : Origin} {g n v : Nat} (hn : n < 4) :
    exec (.ringProdWrite o g n v) s = done (busWrite o (coreB g + R.RING_PROD n) 4 v) s := by
  have hexec : exec (.ringProdWrite o g n v) s = execRingProdWrite o g n v s := rfl
  rw [hexec, execRingProdWrite, Nat.mod_eq_of_lt hn]

/-- Settles O22: the page's check turns the value down in the state in which the write is judged, and the refusal's frame does the rest. -/
theorem ringProdRange : Obligations.RingProdRange := by
  intro s o g n val hc hf hg hn hval _ ha prod ahead hbad
  have hx : R.RING_PROD n < 0x1000 := (ringProd_bounds hn).2
  have hoff : OffHif prod := offHif_core (Nat.lt_trans hx (by decide))
  have hrefuse := judge_ringProd_judgedIn (o := o) hc.maps hg hn hval ha (ringProdOk_eq_false.mpr hbad)
  obtain ⟨u, hu, hstore, hblank, hrd⟩ := busWrite_refused_effect hc hf (ofOff_core hg hx) hoff hrefuse
  refine ⟨u, ?_, hrd prod (untouched_ringProd hn) hoff, hstore, hblank, fun a hpages => ?_⟩
  · rw [exec_ringProdWrite hn, hu]
  · simp only [List.cons_append, List.nil_append, List.map_cons, List.map_nil, List.mem_cons, List.not_mem_nil, or_false, not_or] at hpages
    obtain ⟨hcore, hjnl, hevq, -, hhif⟩ := hpages
    exact hrd a (untouched_of_page hcore hjnl hevq) hhif

/-- A state that meets the statement's hypotheses: reset, then core 0 is there, powered and idle. Its rings hold 256 descriptors. -/
def coreZeroIdle : State :=
  (seqs [setReg goodB 1, setReg (Page.tile .TPWR 0 + R.TPWR_CORE_ON_LO) 1, setReg (coreB 0 + R.PG_STATE) stIDLE]).run State.reset

/-- In that state the host's write of 257 to RING_PROD of ring 1 leaves the register as it is. -/
theorem ringProdRange_coreZeroIdle :
    Completes (.ringProdWrite { cls := 0, inst := 0 } 0 1 257) coreZeroIdle
      (fun u => rd u (coreB 0 + R.RING_PROD 1) = rd coreZeroIdle (coreB 0 + R.RING_PROD 1)) := by
  have hc : Calm coreZeroIdle := calm_of_test (by decide)
  have hf : Free coreZeroIdle { cls := 0, inst := 0 } 1 := free_of_test (by decide)
  have hoverfull := ringProdOk_eq_false.mp (show ringProdOk coreZeroIdle 0 1 257 = false by decide)
  obtain ⟨u, hu, hprod, -⟩ := ringProdRange coreZeroIdle _ 0 1 257 hc hf (by decide) (by decide) (by decide) (by decide) (by decide) hoverfull
  exact ⟨u, hu, hprod⟩

end Sys2Proof.Machine


/-! Raising a fault source that is not enabled (R638): one bit of one register, and nothing else. -/
namespace Sys2Proof.Machine
open Sys2Proof

/-! ## Setting one bit of a register -/

/-- Writing 1 to a field of one bit takes the bit's weight out where it stands and puts it in. -/
theorem setBits_one (v n : Nat) : setBits v n n 1 = if bit v n then v else v + 2 ^ n := by
  have hfield : bits v n n = (bit v n).toNat := by
    rw [bits, bit, Nat.toNat_testBit, Nat.shiftRight_eq_div_pow, Nat.add_sub_cancel_left, Nat.pow_one]
  rw [setBits, hfield]
  cases hb : bit v n
  · simp
  · have hle : 2 ^ n ≤ v := Nat.ge_two_pow_of_testBit hb
    simp [hle]

theorem ofNat_setBits_one (w : Word) (n : Nat) : BitVec.ofNat 32 (setBits w.toNat n n 1) = w ||| BitVec.twoPow 32 n := by
  rw [setBits_one, bit, BitVec.testBit_toNat]
  cases hb : w.getLsbD n
  · have hdisjoint : w &&& BitVec.twoPow 32 n = 0#32 := by simp [BitVec.and_twoPow, hb]
    rw [← BitVec.add_eq_or_of_and_eq_zero w _ hdisjoint]
    apply BitVec.eq_of_toNat_eq
    simp
  · apply BitVec.eq_of_getLsbD_eq
    intro i _
    by_cases hi : n = i
    · subst hi; simp [hb]
    · simp [hi]

/-- What `rd_reg` says of the register written itself needs no canonical form. -/
theorem rd_reg_self (off : Nat) (v : Word) (s : State) : rd ((Act.reg off v).apply s) off = v.toNat := by
  show ((SMap.find off (SMap.set (RegTable.reset off) off v s.regs)).getD (RegTable.reset off)).toNat = v.toNat
  unfold SMap.set
  split
  · next hdef => rw [SMap.find_del, if_pos rfl, hdef]; rfl
  · rw [SMap.find_put, if_pos rfl]; rfl

theorem run_setFld (off hi lo x : Nat) (s : State) :
    (setFld off hi lo x).run s = (Act.reg off (BitVec.ofNat 32 (setBits (rd s off) hi lo x))).apply s := rfl

theorem rd_setFld_ne {off o hi lo x : Nat} {s : State} (hm : Maps s) (ho : o ≠ off) : rd ((setFld off hi lo x).run s) o = rd s o := by
  rw [run_setFld, rd_reg _ _ _ _ hm, if_neg ho.symm]

theorem bit_setFld_one {n : Nat} (hn : n < 32) (off k : Nat) (s : State) :
    bit (rd ((setFld off n n 1).run s) off) k = (bit (rd s off) k || decide (n = k)) := by
  rw [run_setFld, rd_reg_self, rd, ofNat_setBits_one]
  simp only [bit, BitVec.testBit_toNat, BitVec.getLsbD_or, BitVec.getLsbD_twoPow, hn, decide_true, Bool.true_and]

/-! ## Raising the source -/

/-- R637, R638: past its PG_FLT bit, every step of a raise asks whether the source is enabled. -/
theorem raiseW_sourceOff {drop past boot : Upd} {start : Page.Ref → Upd} {r : Page.Ref} {n org : Nat} {s : State}
    (hsrc : bit (Page.fltMask r.t) n = true) (hoff : SourceOff s r n) :
    (raiseW drop past boot start r n org).run s = (setFld (Page.base r + R.PG_FLT) n n 1).run s := by
  have hen : bit (rd s (Page.base r + R.PG_FLT_EN)) n = false := hoff
  simp [raiseW, hsrc, hen]

/-- Settles O55: the raise is a write of the one bit, so that the rules of a register write give each clause. -/
theorem disabledSource : Obligations.DisabledSource := by
  intro s r n org hn hsrc hoff u flt
  have hu : u = (setFld flt n n 1).run s := raiseW_sourceOff hsrc hoff
  rw [hu]
  refine ⟨?_, fun k hk => ?_, rfl, fun hm off ho => rd_setFld_ne hm ho⟩
  · simp [bit_setFld_one hn]
  · simp [bit_setFld_one hn, hk.symm]

/-- A state that meets the statement's hypotheses: the state after reset with PG_FLT_EN of core 0 cleared. -/
def coreZeroUnwatched : State := (setReg (coreB 0 + R.PG_FLT_EN) 0).run State.reset

/-- In that state CORE_trap sets bit 9 of core 0's PG_FLT, and neither the device collector nor FAULT_N takes note of it. -/
theorem disabledSource_coreZeroUnwatched :
    let u := (raise ⟨.CORE, 0⟩ cTrap 0).run coreZeroUnwatched
    bit (rd u (coreB 0 + R.PG_FLT)) cTrap = true ∧ rd u (dfltB + R.TFLT_FIRST) = rd coreZeroUnwatched (dfltB + R.TFLT_FIRST)
      ∧ rd u (dfltB + R.DFLT_FAULTN) = rd coreZeroUnwatched (dfltB + R.DFLT_FAULTN) := by
  have hm : Maps coreZeroUnwatched := maps_of_test (by decide)
  have hoff : SourceOff coreZeroUnwatched ⟨.CORE, 0⟩ cTrap := by unfold SourceOff; decide
  obtain ⟨hset, -, -, hregs⟩ := disabledSource coreZeroUnwatched ⟨.CORE, 0⟩ cTrap 0 (by decide) (by decide) hoff
  rw [base_core] at hset hregs
  exact ⟨hset, hregs hm _ (by decide), hregs hm _ (by decide)⟩

end Sys2Proof.Machine
